-- ==== Sys2Proof/Word.lean ====
section
/-!
DEFINITION. The word types of the Golrun and the type of sparse tables.
-/

namespace Sys2Proof

/-- The addressable unit of memory (01 R7). -/
abbrev Byte := BitVec 8

/-- A scalar register (04 R66). -/
abbrev Word := BitVec 64

/-- A lane of a tile row (06 R112), a base register, a scratchpad address. -/
abbrev Lane := BitVec 32

/-- A row of 128 lanes, lane 0 first (06 R112). -/
abbrev Row := List Lane

/-- The 128 lanes of a predicate, lane `l` in bit `l` (04 R66, R73). -/
abbrev Pred := BitVec 128

/-- The ext byte lent to a slot: `none` in a bundle without a header (02 R26, R27). -/
abbrev Ext := Option Byte

/-- A table held sparsely: keys strictly rising, and a key that is absent reads as the table's own default. -/
abbrev SMap (α : Type) := List (Nat × α)

/-- The row whose every lane is zero. -/
def Row.zero : Row := List.replicate 128 0

end Sys2Proof
end

