-- ==== Sys2Proof/Config.lean ====
section
/-!
DEFINITION. What a device fixes and the free values: quantities the spec leaves open.  An opaque constant has no body, so
nothing can be proved of its value; each use takes a fresh argument (`State.freeCount`).
-/

namespace Sys2Proof.Config

/-- A length of time or an order that the spec leaves open, in global cycles (log 2). -/
opaque freeNat : Nat → Nat

/-- A value that the spec leaves open (log 2). -/
opaque freeWord : Nat → BitVec 64

/-- Whether bytes 0 to 3,396 of an image carry a right ML-DSA-65 signature under a public key: the standards are named and not
given (24 R352; log 3). -/
opaque signatureOk : List (BitVec 8) → List (BitVec 8) → Bool

/-- The ML-DSA-65 root public key that a Kiln image carries: where its bytes stand in the body has no rule (24 R352; log 132). -/
opaque imageKey : List (BitVec 8) → List (BitVec 8)

/-- The hash of the root public key that the ROM holds in fuses (24 R352; log 132). -/
opaque rootKeyHash : List (BitVec 8)

/-- The reason code that Kiln returns with its n-th refusal: R350 gives no codes (log 133). -/
opaque reasonCode : Nat → Nat

/-- Whether a settings image is one of a bare package, MBG-5120-PK: its body has no layout (24 R353, R354; log 134). -/
opaque settingsPackage : List (BitVec 8) → Bool

/-- The offset of the BAR0 register with which a function masks its MSI-X vectors: no rule places it (23 R340; log 135). -/
opaque vectorMaskAt : Nat

/-- The ML-DSA-65 signature that Kiln puts under a fatal dump (17 R323; log 3). -/
opaque sign : List (BitVec 8) → List (BitVec 8)

/-- SHAKE256 with 512 bits of output (24 R352; log 3). -/
opaque shake256 : List (BitVec 8) → List (BitVec 8)

/-- Spare sections of the fitted capacity-tier part: R208 names them and gives no number (log 114). -/
opaque spareSections : Nat

/-- A byte of a section of the fatal dump, by the section's type, what the section holds and the byte's place: R324 says what is
dumped and gives no layout (log 117). -/
opaque dumpByte : (α : Type) → Nat → α → Nat → BitVec 8

/-- The chip at the far end of a Ngapor port: the board's wiring (23 R341; log 2). -/
opaque portChip : Nat → Nat

/-- A byte of a peer's memory as the first write of a task finds it: by folio, kernel and arguments of the task and by its virtual
address (17 R317; log 50). -/
opaque peerByte : Nat → Nat → List (BitVec 64) → Nat → BitVec 8

/-- What ALIGN makes of the bits of a poisoned NaN or infinity, before its bound (11 R218; log 53). -/
opaque alignPoison : Nat → Int

/-- Whether a settings image asks Kiln to raise the fused counters: its body has no layout (24 R352; log 3). -/
opaque settingsRaise : List (BitVec 8) → Bool

/-- What a byte of main memory holds that nothing has written (log 1). -/
def emptyByte : BitVec 8 := 0

end Sys2Proof.Config
end

