-- ==== Sys2Proof/Syntax.lean ====
section
/-!
DEFINITION. The instructions: one constructor for every row of the opcode table.

A slot instruction carries the bit fields of its encoding under the table's own letters, and `x`, the ext byte of its
slot, where the class and op can use one (02 R27).  An event of the device carries the object it happens to: `t` a task,
`c` a relative core, `e` an engine (0 to 3 copy, 5 fabric, 6 sequence), `id` the number the machine gave to a pending
item when it was made, `ctx` a device context, `fn` a PCIe function, `va` a virtual address, `ch` a physical channel.
-/

namespace Sys2Proof

/-- What the boot sequence finds (24 R351): the fitted capacity in whole GiB, a granularity that the spec leaves open (log 89), the cores that fail their self-test, the fetched
images, the ports that fail to train, and whether the dies agree on GCYC. -/
structure BootInput where
  fittedGiB : Nat
  badCores : List Nat
  kiln : List Byte
  settings : List Byte
  decodeTable : List Byte
  floor : List Byte
  badPorts : List Nat
  diesAgree : Bool
  deriving DecidableEq, Repr

/-- A declared tape: element format and length (01 R19). -/
structure TapeDecl where
  fmt : Nat
  len : Nat
  deriving DecidableEq, Repr

/-- One entry of .timetable: start cycle, relative core, engine (0 to 3 copy, 5 fabric, 6 sequence) and tag (01 R19). -/
structure TimetableEntry where
  start : Nat
  core : Nat
  engine : Nat
  tag : Nat
  deriving DecidableEq, Repr

/-- One .timeline section: relative channel, (from, period) of the second form, entries of 64 bits (10 R202). -/
structure TimelineSec where
  chan : Nat
  cycle : Option (Nat × Nat)
  entries : List Word
  deriving DecidableEq, Repr

/-- One entry of .meshslots: slot, source quire, destination quire (03 R52). -/
structure MeshEntry where
  slot : Nat
  src : Nat
  dst : Nat
  deriving DecidableEq, Repr

/-- A kernel of a folio as the loader reads it.  `first` is the virtual address of its first bundle in units of 16 bytes, to
which a bundle address is aligned (01 R7), `mash` its .mash lines as (slot, virtual address of the bill image). -/
structure KernelImage where
  first : Nat
  bundles : Nat
  quires : Nat
  dieOne : Bool
  wheel : Nat
  replayable : Bool
  tapes : List TapeDecl
  mash : List (Nat × Nat)
  timetable : List TimetableEntry
  timelines : List TimelineSec
  mesh : List MeshEntry
  deriving DecidableEq, Repr

/-- The virtual address of a kernel's first bundle (01 R7). -/
def KernelImage.text (k : KernelImage) : Nat := 16 * k.first

/-- A folio as it is submitted: the compat level, the change bits it names (bit 0 FP8RTZ, 1 SUBFLUSH, 2 NANCANON,
3 ARDE4SAT, 4 VRSQFAITH), the feature version, and its kernels (01 R19, 02 R39, R40). -/
structure FolioImage where
  id : Nat
  ctx : Nat
  compat : Nat
  bits : BitVec 5
  feature : Nat
  kernels : List KernelImage
  deriving DecidableEq, Repr

/-- What Floor asks of Kiln through the mailbox (24 R350), and Floor's own acts on what R349 gives it. -/
inductive FloorReq where
  /-- Map a page executable (02 R33). -/
  | mapExecutable (ctx va : Nat)
  /-- Set the Kiln-written TAPE and BARRIER bits of a page (15 R273). -/
  | setAttributes (ctx va : Nat) (tape barrier : Bool)
  /-- Map a page of 2^n bytes to frames of a peer (15 R273, 23 R345). -/
  | mapPeer (ctx va n chip frame : Nat) (r w : Bool)
  /-- Reload the decode table (02 R37). -/
  | reloadDecode (die : Nat) (img : List Byte)
  /-- Retire a core (17 R319, R320). -/
  | retireCore (core : Nat)
  /-- Export local frames to a peer chip under a grant (23 R345). -/
  | exportFrames (grant chip first count pa : Nat) (r w : Bool)
  /-- Recall a grant (23 R346). -/
  | recallGrant (grant : Nat)
  /-- Replace Floor's persistent settings (24 R352). -/
  | newSettings (img : List Byte)
  /-- Raise a limit of 24 R353, which Kiln refuses (24 R354). -/
  | raiseLimit (watts : Nat)
  /-- Lower the power cap (24 R354). -/
  | powerCap (watts : Nat)
  /-- Floor creates a tape-table entry (08 R151). -/
  | createTape (ctx index cap fmt : Nat) (capacityTier : Bool) (base : Nat) (mirror : Option Nat) (mash : Option Nat)
  /-- Floor deletes a tape-table entry (08 R151). -/
  | deleteTape (ctx index : Nat)
  /-- Floor writes one page-table entry (15 R273, R276). -/
  | writeEntry (ctx va level : Nat) (value : Word)
  /-- Floor binds a device context to a function, with its level-0 table and fault-record area (15 R270, 17 R308). -/
  | bindContext (ctx fn root faultArea : Nat)
  /-- Floor assigns a hardware queue to a context (16 R288). -/
  | assignQueue (queue ctx : Nat)
  /-- Floor sets a submission ring (16 R301). -/
  | setRing (fn base size : Nat)
  /-- Floor records an allocation (10 R209). -/
  | allocate (ctx va : Nat) (prio : Nat) (next : Option Nat)
  /-- The host asks Floor for the number of a function's writes that were dropped (23 R339). -/
  | reportDropped (fn : Nat)
  /-- Floor sets the eviction engine's watermark, in pages of 2 MiB (10 R209). -/
  | setWatermark (pages : Nat)
  deriving DecidableEq, Repr

/-- The causes of a device-fatal error, in the order of the dump's CAUSE byte (17 R311, R323). -/
inductive FatalCause where
  | kilnMismatch | kilnMemory | decodeTable | commandProcessor | gcyc | temperature | power
  deriving DecidableEq, Repr

/-- One window of a command timeline: the entry's index and fields (10 R202). -/
structure Window where
  index : Nat
  cmd : Nat
  bank : Nat
  lines : Nat
  target : Nat
  deriving DecidableEq, Repr

/-- What patrol scrub finds in a row (10 R208). -/
inductive ScrubResult where
  | clean | corrected | uncorrectable
  deriving DecidableEq, Repr

/-- A message of a peer link (23 R344), its data after decoding. -/
structure Message where
  op : Nat
  size : Nat
  aop : Nat
  coded : Bool
  fp32 : Bool
  scope : Nat
  tag : Nat
  length : Nat
  addr : Nat
  data : List Byte
  deriving DecidableEq, Repr

/-- The payload of a grant flit (23 R344). -/
structure GrantMsg where
  num : Nat
  r : Bool
  w : Bool
  first : Nat
  count : Nat
  deriving DecidableEq, Repr

/-- One 10 µs power window's measurements: average watts, die temperatures in °C, a power-stage fault (24 R354, 17 R311). -/
structure PowerSample where
  watts : Nat
  temps : List Nat
  stageFault : Bool
  deriving DecidableEq, Repr

/-- The instructions of the Golrun: 216 slot encodings, then 93 events of the device. -/
inductive Instr where
  /-- NOP (R6): All-zero slot that does nothing and counts toward no category cap. -/
  | nop
  /-- ADD (R70): Writes the 64-bit sum of two scalars to s[d] after 1 dc. -/
  | add (d : BitVec 5) (a : BitVec 5) (b : BitVec 5) (p : BitVec 4) (i : BitVec 1)
  /-- SUB (R70): Writes the 64-bit difference of two scalars to s[d]. -/
  | sub (d : BitVec 5) (a : BitVec 5) (b : BitVec 5) (p : BitVec 4) (i : BitVec 1)
  /-- ADDW (R70): Writes the sign-extended 32-bit sum of two scalars. -/
  | addw (d : BitVec 5) (a : BitVec 5) (b : BitVec 5) (p : BitVec 4) (i : BitVec 1)
  /-- SUBW (R70): Writes the sign-extended 32-bit difference of two scalars. -/
  | subw (d : BitVec 5) (a : BitVec 5) (b : BitVec 5) (p : BitVec 4) (i : BitVec 1)
  /-- MUL (R70): Writes the low 64 bits of the product after 3 dc. -/
  | mul (d : BitVec 5) (a : BitVec 5) (b : BitVec 5) (p : BitVec 4) (i : BitVec 1)
  /-- MULH (R70): Writes the high 64 bits of the signed 128-bit product. -/
  | mulh (d : BitVec 5) (a : BitVec 5) (b : BitVec 5) (p : BitVec 4) (i : BitVec 1)
  /-- MULHU (R70): Writes the high 64 bits of the unsigned 128-bit product. -/
  | mulhu (d : BitVec 5) (a : BitVec 5) (b : BitVec 5) (p : BitVec 4) (i : BitVec 1)
  /-- DIV (R70): Writes the signed quotient after 16 dc, with defined results for zero divisors and overflow. -/
  | div (d : BitVec 5) (a : BitVec 5) (b : BitVec 5) (p : BitVec 4) (i : BitVec 1)
  /-- DIVU (R70): Writes the unsigned quotient after 16 dc. -/
  | divu (d : BitVec 5) (a : BitVec 5) (b : BitVec 5) (p : BitVec 4) (i : BitVec 1)
  /-- REM (R70): Writes the signed remainder after 16 dc. -/
  | rem (d : BitVec 5) (a : BitVec 5) (b : BitVec 5) (p : BitVec 4) (i : BitVec 1)
  /-- REMU (R70): Writes the unsigned remainder after 16 dc. -/
  | remu (d : BitVec 5) (a : BitVec 5) (b : BitVec 5) (p : BitVec 4) (i : BitVec 1)
  /-- AND (R70): Writes the bitwise AND of two scalars. -/
  | and (d : BitVec 5) (a : BitVec 5) (b : BitVec 5) (p : BitVec 4) (i : BitVec 1)
  /-- OR (R70): Writes the bitwise OR of two scalars. -/
  | or (d : BitVec 5) (a : BitVec 5) (b : BitVec 5) (p : BitVec 4) (i : BitVec 1)
  /-- XOR (R70): Writes the bitwise exclusive-or of two scalars. -/
  | xor (d : BitVec 5) (a : BitVec 5) (b : BitVec 5) (p : BitVec 4) (i : BitVec 1)
  /-- ANDN (R70): Writes A AND NOT B. -/
  | andn (d : BitVec 5) (a : BitVec 5) (b : BitVec 5) (p : BitVec 4) (i : BitVec 1)
  /-- SHL (R70): Shifts A left by B[5:0]. -/
  | shl (d : BitVec 5) (a : BitVec 5) (b : BitVec 5) (p : BitVec 4) (i : BitVec 1)
  /-- SHR (R70): Shifts A logically right by B[5:0]. -/
  | shr (d : BitVec 5) (a : BitVec 5) (b : BitVec 5) (p : BitVec 4) (i : BitVec 1)
  /-- SRA (R70): Shifts A arithmetically right by B[5:0]. -/
  | sra (d : BitVec 5) (a : BitVec 5) (b : BitVec 5) (p : BitVec 4) (i : BitVec 1)
  /-- MIN (R70): Writes the signed minimum of two scalars. -/
  | min (d : BitVec 5) (a : BitVec 5) (b : BitVec 5) (p : BitVec 4) (i : BitVec 1)
  /-- MAX (R70): Writes the signed maximum of two scalars. -/
  | max (d : BitVec 5) (a : BitVec 5) (b : BitVec 5) (p : BitVec 4) (i : BitVec 1)
  /-- MINU (R70): Writes the unsigned minimum of two scalars. -/
  | minu (d : BitVec 5) (a : BitVec 5) (b : BitVec 5) (p : BitVec 4) (i : BitVec 1)
  /-- MAXU (R70): Writes the unsigned maximum of two scalars. -/
  | maxu (d : BitVec 5) (a : BitVec 5) (b : BitVec 5) (p : BitVec 4) (i : BitVec 1)
  /-- CLZ (R70): Writes the count of leading zeros of A. -/
  | clz (d : BitVec 5) (a : BitVec 5) (p : BitVec 4) (i : BitVec 1)
  /-- POPC (R70): Writes the number of one bits in A. -/
  | popc (d : BitVec 5) (a : BitVec 5) (p : BitVec 4) (i : BitVec 1)
  /-- SEL (R71): Always executes and writes s[a] or s[b] chosen by lane 0 of the predicate. -/
  | sel (d : BitVec 5) (a : BitVec 5) (b : BitVec 5) (p : BitVec 4) (i : BitVec 1)
  /-- PEQ (R73): Sets every lane of a predicate to whether two scalars are equal. -/
  | peq (d : BitVec 5) (a : BitVec 5) (b : BitVec 5) (p : BitVec 4) (i : BitVec 1)
  /-- PNE (R73): Sets every lane of a predicate to whether two scalars differ. -/
  | pne (d : BitVec 5) (a : BitVec 5) (b : BitVec 5) (p : BitVec 4) (i : BitVec 1)
  /-- PLT (R73): Sets every lane of a predicate to a signed less-than of two scalars. -/
  | plt (d : BitVec 5) (a : BitVec 5) (b : BitVec 5) (p : BitVec 4) (i : BitVec 1)
  /-- PLTU (R73): Sets every lane of a predicate to an unsigned less-than of two scalars. -/
  | pltu (d : BitVec 5) (a : BitVec 5) (b : BitVec 5) (p : BitVec 4) (i : BitVec 1)
  /-- PAND (R73): Writes the lane-wise AND of two predicates. -/
  | pand (d : BitVec 5) (a : BitVec 5) (b : BitVec 5) (p : BitVec 4) (i : BitVec 1)
  /-- POR (R73): Writes the lane-wise OR of two predicates. -/
  | por (d : BitVec 5) (a : BitVec 5) (b : BitVec 5) (p : BitVec 4) (i : BitVec 1)
  /-- PXOR (R73): Writes the lane-wise exclusive-or of two predicates. -/
  | pxor (d : BitVec 5) (a : BitVec 5) (b : BitVec 5) (p : BitVec 4) (i : BitVec 1)
  /-- PANDN (R73): Writes the lane-wise a AND NOT b of two predicates. -/
  | pandn (d : BitVec 5) (a : BitVec 5) (b : BitVec 5) (p : BitVec 4) (i : BitVec 1)
  /-- PMOV (R73): Copies one predicate to another. -/
  | pmov (d : BitVec 5) (a : BitVec 5) (p : BitVec 4) (i : BitVec 1)
  /-- PFROM (R73): Builds a predicate from the bits of two scalars. -/
  | pfrom (d : BitVec 5) (a : BitVec 5) (b : BitVec 5) (p : BitVec 4) (i : BitVec 1)
  /-- SFROMP (R73): Writes one half of a predicate's lanes into a scalar. -/
  | sfromp (d : BitVec 5) (a : BitVec 5) (h : BitVec 1) (p : BitVec 4) (i : BitVec 1)
  /-- ADDI (R70): Adds a sign-extended immediate to a scalar. -/
  | addi (d : BitVec 5) (a : BitVec 5) (i : BitVec 12) (x : Ext)
  /-- ANDI (R70): ANDs a scalar with a sign-extended immediate. -/
  | andi (d : BitVec 5) (a : BitVec 5) (i : BitVec 12) (x : Ext)
  /-- ORI (R70): ORs a scalar with a sign-extended immediate. -/
  | ori (d : BitVec 5) (a : BitVec 5) (i : BitVec 12) (x : Ext)
  /-- XORI (R70): Exclusive-ors a scalar with a sign-extended immediate. -/
  | xori (d : BitVec 5) (a : BitVec 5) (i : BitVec 12) (x : Ext)
  /-- SHLI (R70): Shifts a scalar left by an immediate count. -/
  | shli (d : BitVec 5) (a : BitVec 5) (c : BitVec 6)
  /-- SHRI (R70): Shifts a scalar logically right by an immediate count. -/
  | shri (d : BitVec 5) (a : BitVec 5) (c : BitVec 6)
  /-- SRAI (R70): Shifts a scalar arithmetically right by an immediate count. -/
  | srai (d : BitVec 5) (a : BitVec 5) (c : BitVec 6)
  /-- LIM (R72): Loads a sign-extended 17- or 25-bit immediate into a scalar. -/
  | lim (d : BitVec 5) (i : BitVec 17) (x : Ext)
  /-- LIMH (R72): Shifts a scalar left by 25 and ORs in an unsigned immediate. -/
  | limh (d : BitVec 5) (i : BitVec 17) (x : Ext)
  /-- PEQI (R73): Sets a predicate to whether a scalar equals an immediate. -/
  | peqi (d : BitVec 5) (a : BitVec 5) (i : BitVec 12) (x : Ext)
  /-- PLTI (R73): Sets a predicate to a signed less-than against an immediate. -/
  | plti (d : BitVec 5) (a : BitVec 5) (i : BitVec 12) (x : Ext)
  /-- PLTUI (R73): Sets a predicate to an unsigned less-than against a zero-extended immediate. -/
  | pltui (d : BitVec 5) (a : BitVec 5) (i : BitVec 12) (x : Ext)
  /-- MULI (R70): Multiplies a scalar by a sign-extended immediate. -/
  | muli (d : BitVec 5) (a : BitVec 5) (i : BitVec 12) (x : Ext)
  /-- BR (R74): Branches unconditionally by a 22-bit bundle offset. -/
  | br (o : BitVec 22)
  /-- BRP (R74): Branches when lane 0 of a predicate is 1. -/
  | brp (p : BitVec 4) (o : BitVec 18)
  /-- BRNP (R74): Branches when lane 0 of a predicate is 0. -/
  | brnp (p : BitVec 4) (o : BitVec 18)
  /-- CALL (R74): Writes the return address to s31 and branches. -/
  | call (o : BitVec 22)
  /-- RET (R75): Jumps to s31, trapping if the target does not follow a CALL. -/
  | ret
  /-- JR (R75): Jumps to s[a] plus an offset, trapping unless the target is a restart bundle. -/
  | jr (a : BitVec 5) (i : BitVec 12)
  /-- LOOPI (R76): Opens a modulo-scheduled loop, setting LC and the stage predicates. -/
  | loopi (a : BitVec 5) (s : BitVec 2) (b : BitVec 3)
  /-- LOOP (R77): Ends a loop pass, shifts stage predicates, rotates bases and branches while passes remain. -/
  | loop (o : BitVec 22)
  /-- WAITC (R78): Holds this core until a given domain cycle without stalling the domain. -/
  | waitc (a : BitVec 5) (i : BitVec 12)
  /-- FMTSET (R79): Sets the FMT register with effect five domain cycles later. -/
  | fmtset (c : BitVec 2) (s : BitVec 1) (r : BitVec 2) (o : BitVec 4) (a : BitVec 4) (e : BitVec 4)
  /-- FMTGET (R79): Writes the FMT seen by its bundle into a scalar. -/
  | fmtget (d : BitVec 5)
  /-- HALT (R80): Stops the core issuing after its bundle commits. -/
  | halt
  /-- TRAP (R83): Raises the program trap at issue and fails the kernel. -/
  | trap (i : BitVec 12)
  /-- CSRR (R81): Reads a special register into a scalar. -/
  | csrr (d : BitVec 5) (c : BitVec 12)
  /-- CSRW (R81): Writes a special register from a scalar and returns its old value. -/
  | csrw (d : BitVec 5) (a : BitVec 5) (c : BitVec 12)
  /-- CSRS (R81): Sets bits of a special register and returns its old value. -/
  | csrs (d : BitVec 5) (a : BitVec 5) (c : BitVec 12)
  /-- CSRC (R81): Clears bits of a special register and returns its old value. -/
  | csrc (d : BitVec 5) (a : BitVec 5) (c : BitVec 12)
  /-- RDCYC (R82): Writes the issuing domain cycle into a scalar. -/
  | rdcyc (d : BitVec 5)
  /-- RDGCY (R82): Writes GCYC into a scalar and records a clock-read event. -/
  | rdgcy (d : BitVec 5)
  /-- RDWHL (R82): Writes the wheel position and revolution into a scalar and records a clock-read event. -/
  | rdwhl (d : BitVec 5)
  /-- TWINCMP (R84): Compares s[a] with s[a+16] in twin mode, trapping or counting on a mismatch. -/
  | twincmp (a : BitVec 5)
  /-- TWINCMP_TILE (R84): Compares tile tk with tile t(k+40) in twin mode. -/
  | twincmpTile (k : BitVec 6)
  /-- FENCE (R87): Orders earlier queued accesses of the core before later ones within a scope. -/
  | fence (s : BitVec 2)
  /-- FENCEC (R88): Fences and sets a busy register that clears when earlier queued accesses have performed. -/
  | fencec (d : BitVec 5) (s : BitVec 2)
  /-- SCFENCE (R89): Places a fence in the chip's SC order, completing as FENCEC.sys at sys scope. -/
  | scfence (d : BitVec 5) (s : BitVec 2)
  /-- BRK (R83): Commits its bundle and hands a breakpoint to Floor under stall code 0x08. -/
  | brk (i : BitVec 12)
  /-- DETN (R85): Sums DETC event counts of one code, or of all codes, into a scalar. -/
  | detn (d : BitVec 5) (c : BitVec 8)
  /-- DGST (R86): Reads DGST into a scalar and clears it. -/
  | dgst (d : BitVec 5)
  /-- DGST_FOLD (R86): Adds a scalar to DGST modulo 2^64. -/
  | dgstFold (a : BitVec 5)
  /-- VMOV (R124): Copies the 32 lane bits of a row. -/
  | vmov (d : BitVec 6) (a : BitVec 6) (p : BitVec 4) (x : Ext)
  /-- VADD (R124): Adds two rows lane by lane in FMT.ELEM. -/
  | vadd (d : BitVec 6) (a : BitVec 6) (b : BitVec 6) (p : BitVec 4) (x : Ext)
  /-- VSUB (R124): Subtracts two rows lane by lane. -/
  | vsub (d : BitVec 6) (a : BitVec 6) (b : BitVec 6) (p : BitVec 4) (x : Ext)
  /-- VMUL (R124): Multiplies two rows lane by lane. -/
  | vmul (d : BitVec 6) (a : BitVec 6) (b : BitVec 6) (p : BitVec 4) (x : Ext)
  /-- VMAC (R125): Writes A times B plus the destination cursor row, rounded once. -/
  | vmac (d : BitVec 6) (a : BitVec 6) (b : BitVec 6) (p : BitVec 4) (x : Ext)
  /-- VADDS (R124): Adds two integer rows with saturation. -/
  | vadds (d : BitVec 6) (a : BitVec 6) (b : BitVec 6) (p : BitVec 4) (x : Ext)
  /-- VSUBS (R124): Subtracts two integer rows with saturation. -/
  | vsubs (d : BitVec 6) (a : BitVec 6) (b : BitVec 6) (p : BitVec 4) (x : Ext)
  /-- VMIN (R124): Writes the lane-wise minimum of two rows. -/
  | vmin (d : BitVec 6) (a : BitVec 6) (b : BitVec 6) (p : BitVec 4) (x : Ext)
  /-- VMAX (R124): Writes the lane-wise maximum of two rows. -/
  | vmax (d : BitVec 6) (a : BitVec 6) (b : BitVec 6) (p : BitVec 4) (x : Ext)
  /-- VABS (R124): Writes the lane-wise absolute value of a row. -/
  | vabs (d : BitVec 6) (a : BitVec 6) (p : BitVec 4) (x : Ext)
  /-- VNEG (R124): Writes the lane-wise negation of a row. -/
  | vneg (d : BitVec 6) (a : BitVec 6) (p : BitVec 4) (x : Ext)
  /-- VAND (R124): Writes the bitwise AND of two rows. -/
  | vand (d : BitVec 6) (a : BitVec 6) (b : BitVec 6) (p : BitVec 4) (x : Ext)
  /-- VOR (R124): Writes the bitwise OR of two rows. -/
  | vor (d : BitVec 6) (a : BitVec 6) (b : BitVec 6) (p : BitVec 4) (x : Ext)
  /-- VXOR (R124): Writes the bitwise exclusive-or of two rows. -/
  | vxor (d : BitVec 6) (a : BitVec 6) (b : BitVec 6) (p : BitVec 4) (x : Ext)
  /-- VSHL (R124): Shifts each lane left by the count in B. -/
  | vshl (d : BitVec 6) (a : BitVec 6) (b : BitVec 6) (p : BitVec 4) (x : Ext)
  /-- VSHR (R124): Shifts each lane logically right by the count in B. -/
  | vshr (d : BitVec 6) (a : BitVec 6) (b : BitVec 6) (p : BitVec 4) (x : Ext)
  /-- VSRA (R124): Shifts each lane arithmetically right by the count in B. -/
  | vsra (d : BitVec 6) (a : BitVec 6) (b : BitVec 6) (p : BitVec 4) (x : Ext)
  /-- VMULLO (R124): Writes the low half of each lane's double-width product. -/
  | vmullo (d : BitVec 6) (a : BitVec 6) (b : BitVec 6) (p : BitVec 4) (x : Ext)
  /-- VMULHI (R124): Writes the high half of each lane's double-width product. -/
  | vmulhi (d : BitVec 6) (a : BitVec 6) (b : BitVec 6) (p : BitVec 4) (x : Ext)
  /-- VPEQ (R126): Sets predicate lanes where A equals B. -/
  | vpeq (d : BitVec 6) (a : BitVec 6) (b : BitVec 6) (p : BitVec 4) (x : Ext)
  /-- VPNE (R126): Sets predicate lanes where A differs from B. -/
  | vpne (d : BitVec 6) (a : BitVec 6) (b : BitVec 6) (p : BitVec 4) (x : Ext)
  /-- VPLT (R126): Sets predicate lanes where A is less than B. -/
  | vplt (d : BitVec 6) (a : BitVec 6) (b : BitVec 6) (p : BitVec 4) (x : Ext)
  /-- VPLE (R126): Sets predicate lanes where A is at most B. -/
  | vple (d : BitVec 6) (a : BitVec 6) (b : BitVec 6) (p : BitVec 4) (x : Ext)
  /-- VSEL (R127): Writes A or B per lane as the predicate selects, writing all lanes. -/
  | vsel (d : BitVec 6) (a : BitVec 6) (b : BitVec 6) (p : BitVec 4) (x : Ext)
  /-- VRCP (R128): Writes the correctly rounded reciprocal of each lane. -/
  | vrcp (d : BitVec 6) (a : BitVec 6) (p : BitVec 4) (x : Ext)
  /-- VRSQ (R128): Writes the correctly rounded reciprocal square root of each lane. -/
  | vrsq (d : BitVec 6) (a : BitVec 6) (p : BitVec 4) (x : Ext)
  /-- VEXP2 (R128): Writes the correctly rounded 2^A of each lane. -/
  | vexp2 (d : BitVec 6) (a : BitVec 6) (p : BitVec 4) (x : Ext)
  /-- VLOG2 (R128): Writes the correctly rounded log2 of each lane. -/
  | vlog2 (d : BitVec 6) (a : BitVec 6) (p : BitVec 4) (x : Ext)
  /-- VRSUM (R129): Sums the selected lanes through the fixed tree and writes the result to every lane. -/
  | vrsum (d : BitVec 6) (a : BitVec 6) (p : BitVec 4) (x : Ext)
  /-- VRMAX (R129): Reduces the selected lanes to their maximum. -/
  | vrmax (d : BitVec 6) (a : BitVec 6) (p : BitVec 4) (x : Ext)
  /-- VRMIN (R129): Reduces the selected lanes to their minimum. -/
  | vrmin (d : BitVec 6) (a : BitVec 6) (p : BitVec 4) (x : Ext)
  /-- VPERM (R124): Permutes lanes of A by the indices in B. -/
  | vperm (d : BitVec 6) (a : BitVec 6) (b : BitVec 6) (p : BitVec 4) (x : Ext)
  /-- VLSH (R124): Shifts the row's lanes by the signed count in lane 0 of B. -/
  | vlsh (d : BitVec 6) (a : BitVec 6) (b : BitVec 6) (p : BitVec 4) (x : Ext)
  /-- VBCST (R124): Broadcasts the lane of A named by lane 0 of B. -/
  | vbcst (d : BitVec 6) (a : BitVec 6) (b : BitVec 6) (p : BitVec 4) (x : Ext)
  /-- VPOPC (R124): Writes the population count of each lane's element. -/
  | vpopc (d : BitVec 6) (a : BitVec 6) (p : BitVec 4) (x : Ext)
  /-- VCLZ (R124): Writes the leading-zero count of each lane's element. -/
  | vclz (d : BitVec 6) (a : BitVec 6) (p : BitVec 4) (x : Ext)
  /-- VRINT (R105): Rounds each floating lane to an integer value in ELEM. -/
  | vrint (d : BitVec 6) (a : BitVec 6) (p : BitVec 4) (x : Ext)
  /-- VCVT (R104): Converts each lane from a source format to FMT.ELEM. -/
  | vcvt (d : BitVec 6) (a : BitVec 6) (f : BitVec 4) (e : BitVec 1) (p : BitVec 4) (x : Ext)
  /-- VSPLAT (R130): Writes an immediate converted to ELEM in every selected lane. -/
  | vsplat (d : BitVec 6) (i : BitVec 6) (p : BitVec 4) (x : Ext)
  /-- VSPLATS (R131): Converts the integer in a scalar to ELEM in every selected lane. -/
  | vsplats (d : BitVec 6) (e : BitVec 1) (u : BitVec 1) (p : BitVec 4) (x : Ext)
  /-- VADDI (R130): Adds a sign-extended immediate to each integer lane. -/
  | vaddi (d : BitVec 6) (a : BitVec 6) (i : BitVec 6) (p : BitVec 4) (x : Ext)
  /-- VSHLI (R130): Shifts each integer lane left by an immediate. -/
  | vshli (d : BitVec 6) (a : BitVec 6) (i : BitVec 6) (p : BitVec 4) (x : Ext)
  /-- VSHRI (R130): Shifts each integer lane logically right by an immediate. -/
  | vshri (d : BitVec 6) (a : BitVec 6) (i : BitVec 6) (p : BitVec 4) (x : Ext)
  /-- VIOTA (R130): Writes the immediate plus the lane number in each selected lane. -/
  | viota (d : BitVec 6) (i : BitVec 6) (p : BitVec 4) (x : Ext)
  /-- VCUR (R118): Sets a cursor's tile, row and step mode. -/
  | vcur (c : BitVec 3) (t : BitVec 7) (r : BitVec 4) (s : BitVec 2)
  /-- VCURS (R119): Sets a cursor from the image in a scalar. -/
  | vcurs (d : BitVec 6) (x : Ext)
  /-- VEXTR (R132): Writes one lane of A into lane 0 and zeros elsewhere. -/
  | vextr (d : BitVec 6) (a : BitVec 6) (l : BitVec 6) (p : BitVec 4) (x : Ext)
  /-- VINSR (R132): Writes lane 0 of A into one lane of a cursor row. -/
  | vinsr (d : BitVec 6) (a : BitVec 6) (l : BitVec 6) (p : BitVec 4) (x : Ext)
  /-- TALLOC (R113): Sets the allocated tile set to t0 through t(n-1), refusing to shrink. -/
  | talloc (n : BitVec 6) (x : Ext)
  /-- TREL (R114): Releases a tile once matrix commands no longer use it. -/
  | trel (k : BitVec 6) (x : Ext)
  /-- TZERO (R115): Writes zero to all 16 rows of an allocated tile. -/
  | tzero (k : BitVec 6) (x : Ext)
  /-- VTRIT (R107): Writes balanced-ternary digit k of each integer lane as a trit. -/
  | vtrit (d : BitVec 6) (a : BitVec 6) (k : BitVec 6) (p : BitVec 4) (x : Ext)
  /-- WBFILL (R141): Pops rows into a weight-buffer slot as a segment. -/
  | wbfill (s : BitVec 6) (w : BitVec 4) (n : BitVec 3) (x : Ext)
  /-- MLDW (R143): Queues the load of one plane of a slot into the shadow plane. -/
  | mldw (w : BitVec 4) (k : BitVec 3)
  /-- MMA (R144): Streams activation rows through a plane and accumulates 3^k-scaled sums into tiles. -/
  | mma (z : BitVec 5) (s : BitVec 6) (w : BitVec 4) (k : BitVec 3) (p : BitVec 1) (n : BitVec 3) (x : Ext)
  /-- MMAZ (R144): As MMA but zeroes the target tiles first. -/
  | mmaz (z : BitVec 5) (s : BitVec 6) (w : BitVec 4) (k : BitVec 3) (p : BitVec 1) (n : BitVec 3) (x : Ext)
  /-- MBMAP (R142): Pops one row as a slot's live-column bitmap. -/
  | mbmap (s : BitVec 6) (w : BitVec 4) (x : Ext)
  /-- ANORM (R146): Shifts accumulator rows right with rounding and raises their exponents. -/
  | anorm (z : BitVec 5) (s : BitVec 6) (x : Ext)
  /-- ARD (R147): Converts accumulator rows to FMT.OUT and writes them through a destination. -/
  | ard (z : BitVec 5) (d : BitVec 6) (r : BitVec 7) (e : BitVec 1) (n : BitVec 3)
  /-- AWR (R148): Writes popped rows into accumulator mantissas or guards. -/
  | awr (z : BitVec 5) (s : BitVec 6) (r : BitVec 7) (g : BitVec 1) (n : BitVec 3) (x : Ext)
  /-- AEXP_WRITE (R148): Writes row or lane exponents of a tile from a popped row. -/
  | aexpWrite (z : BitVec 5) (s : BitVec 6) (y : BitVec 1) (x : Ext)
  /-- AEXP_READ (R148): Writes a tile's row or lane exponents into a row. -/
  | aexpRead (z : BitVec 5) (d : BitVec 6) (y : BitVec 1)
  /-- AGRD (R148): Reads the mantissas or guards of one accumulator row into a row. -/
  | agrd (z : BitVec 5) (d : BitVec 6) (r : BitVec 7) (m : BitVec 1)
  /-- AZERO (R148): Zeroes a tile's elements, exponents and ACCOVF. -/
  | azero (z : BitVec 5)
  /-- MSTAT (R148): Writes a matrix status row and optionally clears ACCOVF. -/
  | mstat (z : BitVec 5) (d : BitVec 6) (w : BitVec 4) (c : BitVec 1)
  /-- MWAIT (R148): Stalls until a tile, slot or all matrix work is idle. -/
  | mwait (z : BitVec 5) (w : BitVec 4) (s : BitVec 3)
  /-- HOPEN (R160): Opens a read or append head on a tape as a table operation. -/
  | hopen (h : BitVec 4) (t : BitVec 6) (b : BitVec 1) (a : BitVec 1) (w : BitVec 3) (x : Ext)
  /-- HCLOSE (R160): Closes a head and writes the tape table when its writes reach memory. -/
  | hclose (h : BitVec 4) (d : BitVec 5)
  /-- HRD (R157): Delivers a row from a head into a destination. -/
  | hrd (h : BitVec 4) (o : BitVec 6) (p : BitVec 4)
  /-- HWR (R158): Writes a row through an append head. -/
  | hwr (h : BitVec 4) (o : BitVec 6) (p : BitVec 4) (x : Ext)
  /-- HUPD (R158): Writes a row through an update head. -/
  | hupd (h : BitVec 4) (o : BitVec 6) (p : BitVec 4) (x : Ext)
  /-- HSTEP (R160): Moves a head by a signed immediate count. -/
  | hstep (h : BitVec 4) (i : BitVec 8) (x : Ext)
  /-- HSKIP (R160): Moves a head by the count in a scalar. -/
  | hskip (h : BitVec 4) (x : Ext)
  /-- HMARK (R160): Pushes the head position on its mark stack. -/
  | hmark (h : BitVec 4)
  /-- HRWD (R160): Rewinds a head to its top mark, optionally popping it. -/
  | hrwd (h : BitVec 4) (y : BitVec 1)
  /-- HDROP (R160): Removes the head's top mark. -/
  | hdrop (h : BitVec 4)
  /-- HPOS (R160): Writes a head's position into a scalar. -/
  | hpos (h : BitVec 4) (d : BitVec 5)
  /-- HREV (R160): Reverses a head's direction. -/
  | hrev (h : BitVec 4)
  /-- HNEW (R160): Opens an append head on an EMPTY tape. -/
  | hnew (h : BitVec 4) (t : BitVec 6) (w : BitVec 3) (x : Ext)
  /-- HSEAL (R160): Closes an append head and seals the tape. -/
  | hseal (h : BitVec 4) (d : BitVec 5)
  /-- HLEASE (R160): Takes a lease on a SEALED tape and opens an update head. -/
  | hlease (h : BitVec 4) (t : BitVec 6) (b : BitVec 1) (w : BitVec 3) (x : Ext)
  /-- HFREE (R160): Returns a SEALED tape with no readers to EMPTY. -/
  | hfree (t : BitVec 6) (x : Ext)
  /-- HWAIT (R160): Sets a busy register that clears when the head's writes have reached memory. -/
  | hwait (h : BitVec 4) (d : BitVec 5)
  /-- WSET (R180): Loads a walker's configuration and resets its levels. -/
  | wset (w : BitVec 5) (a : BitVec 5) (b : BitVec 5)
  /-- WLOOP (R180): Sets one loop level's count and stride of a walker. -/
  | wloop (w : BitVec 5) (a : BitVec 5) (b : BitVec 5) (v : BitVec 5)
  /-- WRST (R180): Resets a walker's indices. -/
  | wrst (w : BitVec 5)
  /-- KCOPY (R189): Queues a copy command on an engine with a start cycle. -/
  | kcopy (s : BitVec 5) (d : BitVec 5) (l : BitVec 5) (t : BitVec 5) (e : BitVec 2)
  /-- KCOPYR (R190): Queues a copy that adds the source into the destination in ELEM. -/
  | kcopyr (s : BitVec 5) (d : BitVec 5) (l : BitVec 5) (t : BitVec 5) (e : BitVec 2)
  /-- KGATH (R191): Queues a gather of indexed records. -/
  | kgath (s : BitVec 5) (d : BitVec 5) (l : BitVec 5) (t : BitVec 5) (e : BitVec 2)
  /-- KSCAT (R191): Queues a scatter to indexed records. -/
  | kscat (s : BitVec 5) (d : BitVec 5) (l : BitVec 5) (t : BitVec 5) (e : BitVec 2)
  /-- KFILL (R189): Queues a fill of a destination with a 32-bit word. -/
  | kfill (s : BitVec 5) (d : BitVec 5) (l : BitVec 5) (t : BitVec 5) (e : BitVec 2)
  /-- KTAG (R184): Sets the EXPECT tag of a leaf-table entry. -/
  | ktag (a : BitVec 5) (b : BitVec 5)
  /-- KCHK (R194): Arms the early-read checker over a scratchpad range. -/
  | kchk (a : BitVec 5) (b : BitVec 5)
  /-- SLD (R185): Loads one scratchpad element into a scalar on the timed path. -/
  | sld (a : BitVec 5) (d : BitVec 5) (z : BitVec 2)
  /-- SST (R185): Stores a scalar element to scratchpad on the timed path. -/
  | sst (a : BitVec 5) (b : BitVec 5) (z : BitVec 2)
  /-- LTSET (R184): Sets a leaf-table entry's offset, capacity and validity. -/
  | ltset (a : BitVec 5) (b : BitVec 5)
  /-- KSTAT (R197): Writes a copy engine's status into a scalar. -/
  | kstat (d : BitVec 5) (e : BitVec 2)
  /-- LD (R249): Issues a queued load into a busy scalar. -/
  | ld (d : BitVec 5) (b : BitVec 5) (i : BitVec 6) (z : BitVec 2) (c : BitVec 2) (s : BitVec 1) (x : Ext)
  /-- ST (R249): Issues a queued store of a scalar. -/
  | st (d : BitVec 5) (b : BitVec 5) (i : BitVec 6) (z : BitVec 2) (c : BitVec 2) (s : BitVec 1) (x : Ext)
  /-- LDA (R249): Issues a queued load with acquire semantics. -/
  | lda (d : BitVec 5) (b : BitVec 5) (i : BitVec 6) (z : BitVec 2) (c : BitVec 2) (s : BitVec 1) (x : Ext)
  /-- STL (R249): Issues a queued store with release semantics. -/
  | stl (d : BitVec 5) (b : BitVec 5) (i : BitVec 6) (z : BitVec 2) (c : BitVec 2) (s : BitVec 1) (x : Ext)
  /-- LDV (R250): Reads a row of addressed memory into the scratchpad as one queued read. -/
  | ldv (d : BitVec 5) (b : BitVec 5) (i : BitVec 6) (z : BitVec 2) (x : Ext)
  /-- STV (R250): Writes a scratchpad row to addressed memory as one queued write. -/
  | stv (d : BitVec 5) (b : BitVec 5) (i : BitVec 6) (z : BitVec 2) (x : Ext)
  /-- AMOADD (R254): Atomically adds to a word and returns the old value. -/
  | amoadd (d : BitVec 5) (b : BitVec 5) (i : BitVec 6) (z : BitVec 1) (c : BitVec 2) (s : BitVec 1) (x : Ext)
  /-- AMOAND (R254): Atomically ANDs a word and returns the old value. -/
  | amoand (d : BitVec 5) (b : BitVec 5) (i : BitVec 6) (z : BitVec 1) (c : BitVec 2) (s : BitVec 1) (x : Ext)
  /-- AMOOR (R254): Atomically ORs a word and returns the old value. -/
  | amoor (d : BitVec 5) (b : BitVec 5) (i : BitVec 6) (z : BitVec 1) (c : BitVec 2) (s : BitVec 1) (x : Ext)
  /-- AMOXOR (R254): Atomically exclusive-ors a word and returns the old value. -/
  | amoxor (d : BitVec 5) (b : BitVec 5) (i : BitVec 6) (z : BitVec 1) (c : BitVec 2) (s : BitVec 1) (x : Ext)
  /-- AMOMIN (R254): Atomically takes the signed minimum and returns the old value. -/
  | amomin (d : BitVec 5) (b : BitVec 5) (i : BitVec 6) (z : BitVec 1) (c : BitVec 2) (s : BitVec 1) (x : Ext)
  /-- AMOMAX (R254): Atomically takes the signed maximum and returns the old value. -/
  | amomax (d : BitVec 5) (b : BitVec 5) (i : BitVec 6) (z : BitVec 1) (c : BitVec 2) (s : BitVec 1) (x : Ext)
  /-- AMOSWP (R254): Atomically swaps a word and returns the old value. -/
  | amoswp (d : BitVec 5) (b : BitVec 5) (i : BitVec 6) (z : BitVec 1) (c : BitVec 2) (s : BitVec 1) (x : Ext)
  /-- AMOCAS (R254): Atomically compares and swaps a word. -/
  | amocas (d : BitVec 5) (b : BitVec 5) (i : BitVec 6) (z : BitVec 1) (c : BitVec 2) (s : BitVec 1) (x : Ext)
  /-- VAMOOR (R256): Issues 128 indexed 32-bit atomic ORs from an operand block. -/
  | vamoor (d : BitVec 5) (b : BitVec 5) (i : BitVec 6) (c : BitVec 2) (x : Ext)
  /-- VAMOADD (R256): Issues 128 indexed 32-bit atomic adds from an operand block. -/
  | vamoadd (d : BitVec 5) (b : BitVec 5) (i : BitVec 6) (c : BitVec 2) (x : Ext)
  /-- BARRIV (R258): Arrives at a barrier word as a release and returns the prior generation. -/
  | barriv (d : BitVec 5) (b : BitVec 5) (i : BitVec 6) (c : BitVec 2) (x : Ext)
  /-- BARWAIT (R258): Reads a barrier word and passes as an acquire if the generation moved. -/
  | barwait (d : BitVec 5) (b : BitVec 5) (i : BitVec 6) (c : BitVec 2) (x : Ext)
  /-- BARINIT (R258): Initialises a barrier word's target and scope. -/
  | barinit (d : BitVec 5) (b : BitVec 5) (i : BitVec 6) (c : BitVec 2) (x : Ext)
  /-- SFBIND (R222): Reads a tensor layout record and binds a gather or scatter stream. -/
  | sfbind (d : BitVec 5) (a : BitVec 5) (y : BitVec 1)
  /-- SFGO (R224): Queues one run of a stream with a start cycle. -/
  | sfgo (a : BitVec 5) (b : BitVec 5) (y : BitVec 1)
  /-- SFSTAT (R227): Reads one status field of a stream into a scalar. -/
  | sfstat (d : BitVec 5) (a : BitVec 5) (s : BitVec 3)
  /-- SFREL (R228): Releases a stream as a table operation. -/
  | sfrel (a : BitVec 5)
  /-- SFMASH (R229): Selects the mash bill for a stream's later runs. -/
  | sfmash (a : BitVec 5) (b : BitVec 5)
  /-- QDIM (R235): Sets the sequence unit's current dimension. -/
  | qdim (a : BitVec 5) (i : BitVec 7)
  /-- QIDX (R235): Sets the running index and optionally the block offset. -/
  | qidx (a : BitVec 5) (b : BitVec 5) (y : BitVec 1)
  /-- QSTR (R235): Sets the index stride. -/
  | qstr (a : BitVec 5)
  /-- QGEN (R236): Generates 128 points of one dimension into Q. -/
  | qgen (h : BitVec 1) (f : BitVec 1)
  /-- QGENV (R236): Generates one index's points in 128 dimensions into Q. -/
  | qgenv (h : BitVec 1) (f : BitVec 1)
  /-- QDIR (R235): Sets one direction number of the current dimension. -/
  | qdir (a : BitVec 5) (j : BitVec 5)
  /-- QSCR (R235): Sets one scramble row of the current dimension. -/
  | qscr (a : BitVec 5) (i : BitVec 5)
  /-- QSCR_SHIFT (R235): Sets the digital shift of the current dimension. -/
  | qscrShift (a : BitVec 5)
  /-- QSAVE (R237): Queues a save of sequence-unit dimensions to a scratchpad image. -/
  | qsave (d : BitVec 5) (a : BitVec 5) (b : BitVec 5)
  /-- QLOAD (R237): Queues a load of sequence-unit dimensions from a scratchpad image. -/
  | qload (d : BitVec 5) (a : BitVec 5) (b : BitVec 5)
  /-- KLAUNCH (R295): Adds a node record to the task's launch list as a tail or now launch. -/
  | klaunch (a : BitVec 5) (y : BitVec 1)
  /-- KLAUNCHC (R295): Adds a node record to the launch list when a condition scalar is non-zero. -/
  | klaunchc (a : BitVec 5) (b : BitVec 5) (y : BitVec 1)
  /-- GSIG (R296): Posts a kind-2 completion entry with a tag and value. -/
  | gsig (a : BitVec 5) (b : BitVec 5)
  /-- QSYNC (R297): Sets a busy register that takes the graph-step count once earlier launches and signals apply. -/
  | qsync (d : BitVec 5)
  /-- GPRIO (R298): Sets the core's launch priority for later launches. -/
  | gprio (a : BitVec 5)
  /-- GARG (R299): Reads an argument doubleword or task information into a scalar. -/
  | garg (d : BitVec 5) (i : BitVec 7)
  /-- BOOT (R351): After reset the device runs its boot sequence of self-test, training, image loading and GCYC start. -/
  | boot (inp : BootInput)
  /-- IMAGE_FETCH (R352): A fetched firmware, decode-table or settings image is verified and accepted or rejected. -/
  | imageFetch (kind : BitVec 8) (img : List Byte)
  /-- DECODE_TABLE_RELOAD (R37): Kiln reloads the decode table on request only when no timed domain is live on the die. -/
  | decodeTableReload (die : Nat) (img : List Byte)
  /-- FLOOR_REQUEST (R350): Kiln takes a Floor mailbox request, checks it and applies or refuses it. -/
  | floorRequest (post : Option FloorReq)
  /-- CODE_SCAN (R33): Kiln write-protects a page, waits for its writes, scans it and maps it executable or reports failures. -/
  | codeScan (ctx : Nat) (va : Nat)
  /-- FOLIO_LOAD (R40): The loader checks a folio in order and accepts or rejects it with a code. -/
  | folioLoad (folio : FolioImage)
  /-- TLB_INVALIDATION (R276): An invalidation of a virtual range completes once all TLBs dropped it and translated accesses performed. -/
  | tlbInvalidation (ctx : Nat) (va : Nat) (len : Nat)
  /-- CONTEXT_DIGEST_REPORT (R318): Floor reports and clears a context digest on the host's request. -/
  | contextDigestReport (ctx : Nat)
  /-- DOORBELL_WRITE (R340): A host write of TAIL makes the command processor read submission entries up to it. -/
  | doorbellWrite (fn : Nat) (tail : BitVec 16)
  /-- CQHEAD_WRITE (R340): A host write of the completion-queue head frees space and lets held entries post. -/
  | cqheadWrite (fn : Nat) (head : BitVec 16)
  /-- REGISTER_WRITE (R338): A host write to a BAR0 register that has no behaviour of its own. -/
  | registerWrite (fn : Nat) (off : Nat) (val : BitVec 64)
  /-- HOST_BAR2_WRITE (R339): A posted host write through BAR2 is translated and applied or dropped on a protected page. -/
  | hostBar2Write (fn : Nat) (va : Nat) (data : List Byte)
  /-- HOST_BAR2_READ (R339): A host read through BAR2 returns data or all ones on a protected page. -/
  | hostBar2Read (fn : Nat) (va : Nat) (len : Nat)
  /-- SCHEDULER_DECISION (R288): Every 24 gc the scheduler orders ready instances and starts or binds them in order. -/
  | schedulerDecision
  /-- PRIORITY_AGING (R288): A waiting ready instance rises one priority level after each 4,096 µs. -/
  | priorityAging
  /-- COND_NODE_COMPLETE (R286): When its read of W performs, a COND or word LOOP node compares and sends one arrival. -/
  | condNodeComplete (id : Nat)
  /-- COPY_NODE_COMPLETE (R286): A COPY node completes once every byte has performed and sends its arrivals. -/
  | copyNodeComplete (id : Nat)
  /-- PREEMPT_FREEZE (R57): The domain freezes at the first dc where every live core awaits a restart bundle and no stall is active. -/
  | preemptFreeze (t : Nat)
  /-- PREEMPT_SAVE (R59): After the drain completes each core's context is saved and the quires return to the pool, or the pre-emption is declined. -/
  | preemptSave (t : Nat)
  /-- TASK_END_CLOSES (R50): At the dc after the last HALT the device issues implicit HCLOSEs and SFRELs. -/
  | taskEndCloses (t : Nat)
  /-- TASK_END (R50): The task ends once all cores halted and all owed writes, commands and implicit closes performed. -/
  | taskEnd (t : Nat)
  /-- KERNEL_NODE_COMPLETE (R291): After the task's queued accesses perform at sys, the node completes and its launches and successors arrive. -/
  | kernelNodeComplete (t : Nat)
  /-- NOW_LAUNCH_ARRIVAL (R295): A now launch's arrival applies once the core's earlier accesses and owed writes have performed. -/
  | nowLaunchArrival (t : Nat) (id : Nat)
  /-- QSYNC_COMPLETE (R297): QSYNC's register takes the graph-step count once earlier launches and signals apply. -/
  | qsyncComplete (t : Nat) (id : Nat)
  /-- WHEEL_GROUP_ISSUE (R264): A WHEEL bundle issues when a group of its task opens and its SC slots take wheel cycles. -/
  | wheelGroupIssue (t : Nat)
  /-- POWER_GATE_EXIT (R54): A gated unit or bank becomes powered and ends its stall. -/
  | powerGateExit (t : Nat)
  /-- ENGINE_COMMAND_START (R51): An engine starts a pending command when DCYC reaches its start cycle. -/
  | engineCommandStart (t : Nat) (c : Nat) (e : Nat)
  /-- COPY_PERFORM (R187): A copy's writes perform at its perform dc, with reductions and leaf-entry updates. -/
  | copyPerform (t : Nat) (c : Nat) (e : Nat)
  /-- COPY_SUSPEND (R195): An uncorrectable error on a main-memory endpoint suspends a copy and hands it to Floor. -/
  | copySuspend (t : Nat) (c : Nat) (e : Nat)
  /-- SEQUENCE_ENGINE_PERFORM (R237): A QLOAD or QSAVE writes the store or the image at its perform dc. -/
  | sequenceEnginePerform (t : Nat) (c : Nat)
  /-- TIMED_WRITE_PERFORM (R62): A result of a bundle performs at its issue plus its latency. -/
  | timedWritePerform (t : Nat) (id : Nat)
  /-- WALKER_LEAF_WRITE_PERFORM (R183): A leaf-space walker write encodes its lines and appends them to the stored form. -/
  | walkerLeafWritePerform (t : Nat) (id : Nat)
  /-- WBFILL_COMPLETE (R141): At the end of a fill the segment becomes the slot content and its header is checked. -/
  | wbfillComplete (t : Nat) (c : Nat) (id : Nat)
  /-- PLANE_LOAD_COMPLETE (R143): A plane load fills the shadow plane and its tag becomes valid. -/
  | planeLoadComplete (t : Nat) (c : Nat) (id : Nat)
  /-- MMA_INPUT_START (R144): An MMA swaps in its plane and begins popping activation rows. -/
  | mmaInputStart (t : Nat) (c : Nat) (id : Nat)
  /-- MMA_ROW_PERFORM (R144): An activation row's column sums accumulate into the tiles 256 mc after consumption. -/
  | mmaRowPerform (t : Nat) (c : Nat) (id : Nat)
  /-- ACCUMULATOR_WRITE_PERFORM (R148): A write form of ANORM, AWR, AEXP or AZERO performs and clears the tile's busy bit. -/
  | accumulatorWritePerform (t : Nat) (c : Nat) (id : Nat)
  /-- TABLE_OPERATION_PERFORM (R155): A head table operation performs at issue plus 320 dc, opening, changing or refusing. -/
  | tableOperationPerform (t : Nat) (id : Nat)
  /-- HEAD_CLOSE_TABLE_WRITE (R160): An append or update head's close or seal writes the table once its writes reach memory. -/
  | headCloseTableWrite (t : Nat) (id : Nat)
  /-- HEAD_WRITE_PERFORM (R166): A write through a head performs in every window of the core that holds the line. -/
  | headWritePerform (t : Nat) (id : Nat)
  /-- HWAIT_COMPLETE (R160): HWAIT's register takes 0 once the head's earlier writes reached memory. -/
  | hwaitComplete (t : Nat) (id : Nat)
  /-- HEAD_REFILL_FETCH (R163): Missing window lines are fetched and the refill stall ends. -/
  | headRefillFetch (t : Nat)
  /-- SFBIND_PERFORM (R222): At issue plus 320 the stream's pages, tape and bill are checked and the stream is bound. -/
  | sfbindPerform (t : Nat) (id : Nat)
  /-- STREAM_RUN_PERFORM (R224): A stream run's writes perform at its perform dc and the tape advances or seals. -/
  | streamRunPerform (t : Nat) (c : Nat)
  /-- SFREL_PERFORM (R228): A stream release performs at issue plus 320 and changes the tape state. -/
  | sfrelPerform (t : Nat) (id : Nat)
  /-- STREAM_DEADLINE_FAULT (R204): A line of a copy or run not moved by its deadline raises the timing fault. -/
  | streamDeadlineFault (t : Nat) (c : Nat) (e : Nat)
  /-- QUEUED_LOAD_PERFORM (R249): A queued load performs, writes its destination and clears the busy bit. -/
  | queuedLoadPerform (id : Nat)
  /-- QUEUED_WRITE_PERFORM (R244): A queued write leaves the gate and performs at its scopes. -/
  | queuedWritePerform (id : Nat)
  /-- ATOMIC_PERFORM (R254): An atomic read-modify-write performs and returns its old value. -/
  | atomicPerform (id : Nat)
  /-- BARRIER_PERFORM (R258): A barrier instruction's read-modify-write performs or raises barrier misuse. -/
  | barrierPerform (id : Nat)
  /-- FENCEC_COMPLETE (R88): FENCEC's register takes 0 once earlier queued accesses performed, or the grant-revoked fault is raised. -/
  | fencecComplete (id : Nat)
  /-- SCFENCE_COMPLETE (R268): An SCFENCE completes and takes its place in the SC order. -/
  | scfenceComplete (id : Nat)
  /-- TRANSLATION_WALK (R276): A TLB miss's walk returns a translation or a fault. -/
  | translationWalk (id : Nat)
  /-- FAULT_SERVICE_RESUME (R309): Floor resumes a domain waiting under fault service, or fails the kernel. -/
  | faultServiceResume (t : Nat) (resume : Bool)
  /-- SERVICE_TIMEOUT (R309): A trap under service for 1,000 ms fails the kernel. -/
  | serviceTimeout (t : Nat)
  /-- DEVICE_FATAL (R311): A device-fatal error stops every domain and the device enters the failed state. -/
  | deviceFatal (cause : FatalCause)
  /-- DUMP_EXPORT (R325): Floor exports a completed dump over the management port. -/
  | dumpExport
  /-- FLOOR_RESTART (R322): On a Floor failure Kiln fails waiting domains and restarts Floor. -/
  | floorRestart
  /-- TIMELINE_FILL (R203): A FILL window fetches the next window line of a head or writes back a written line. -/
  | timelineFill (t : Nat) (ch : Nat) (w : Window)
  /-- TIMELINE_STREAM (R203): A STREAM window moves up to L lines owed by a tagged engine command. -/
  | timelineStream (t : Nat) (ch : Nat) (w : Window)
  /-- TIMELINE_REFPB (R203): A REFPB window refreshes the oldest row group of one bank. -/
  | timelineRefpb (t : Nat) (ch : Nat) (w : Window)
  /-- TIMELINE_REFAB (R203): A REFAB window refreshes the oldest row group of every bank. -/
  | timelineRefab (t : Nat) (ch : Nat) (w : Window)
  /-- FORCED_REFRESH (R207): A bank group nearing its refresh deadline forces a stall and a refresh. -/
  | forcedRefresh (ch : Nat) (bank : Nat)
  /-- GUARDED_MODE_ENTRY (R207): An owned DRAM entering the doubled-refresh range puts the task in guarded mode. -/
  | guardedModeEntry (dram : Nat)
  /-- GUARDED_REFRESH (R207): In guarded mode each bank's oldest group is refreshed every 3.9 µs under a stall. -/
  | guardedRefresh (t : Nat) (ch : Nat) (bank : Nat)
  /-- LONG_STALL_PRECHARGE (R205): A stall beyond 2,400 gc precharges the domain's open rows. -/
  | longStallPrecharge (t : Nat)
  /-- PATROL_SCRUB (R208): Patrol scrub reads, corrects and rewrites a row and updates its retirement score. -/
  | patrolScrub (ch : Nat) (bank : Nat) (row : Nat) (found : ScrubResult)
  /-- TIER_EVICTION (R209): Below the free-page watermark the eviction engine moves a victim page between tiers. -/
  | tierEviction
  /-- FLIT_RECEIVE (R341): A received flit is checked and delivered in order or discarded for go-back-N replay. -/
  | flitReceive (port : Nat) (flit : List Byte)
  /-- LANE_REMOVAL (R342): A failing lane is removed, the port retrains or goes down. -/
  | laneRemoval (port : Nat) (lane : Nat)
  /-- READ_REQUEST (R344): The exporter serves a peer read against its grant or NACKs it. -/
  | readRequest (port : Nat) (chan : Nat) (m : Message)
  /-- WRITE_REQUEST (R344): The exporter serves a peer write against its grant or NACKs it. -/
  | writeRequest (port : Nat) (chan : Nat) (m : Message)
  /-- ATOMIC_REQUEST (R344): The exporter performs a peer atomic against its grant or NACKs it. -/
  | atomicRequest (port : Nat) (chan : Nat) (m : Message)
  /-- READ_RESPONSE (R344): A peer read response completes the importer's load. -/
  | readResponse (port : Nat) (chan : Nat) (m : Message)
  /-- WRITE_ACKNOWLEDGEMENT (R344): A peer write acknowledgement completes the importer's write. -/
  | writeAcknowledgement (port : Nat) (chan : Nat) (m : Message)
  /-- ATOMIC_RESPONSE (R344): A peer atomic response returns the old value. -/
  | atomicResponse (port : Nat) (chan : Nat) (m : Message)
  /-- GRANT (R345): A grant message lets the importer map an export range. -/
  | grant (port : Nat) (g : GrantMsg)
  /-- RECALL (R346): A recall message makes the importer invalidate the range and drain accesses through it. -/
  | recall (port : Nat) (g : Nat)
  /-- RECALL_ACKNOWLEDGEMENT (R346): The recall acknowledgement frees the exporter's grant entry. -/
  | recallAcknowledgement (port : Nat) (g : Nat)
  /-- RECALL_TIMEOUT (R346): A recall without acknowledgement for 100 ms quarantines the entry. -/
  | recallTimeout (g : Nat)
  /-- NACK (R347): A NACK raises the grant-revoked or permission fault on the issuing core. -/
  | nack (port : Nat) (tag : Nat) (chan : Nat) (reason : Nat)
  /-- PEER_FAILURE (R348): A failed or unreachable peer quarantines its grants and NACKs outstanding accesses. -/
  | peerFailure (chip : Nat)
  /-- POWER_WINDOW (R354): Each 10 µs power window lowers or raises the throttle rate against the limits. -/
  | powerWindow (s : PowerSample)
  /-- RATE_CHANGE (R355): A new swallow rate takes effect at an aligned 64-gc block. -/
  | rateChange (t : Nat) (k : Nat)
  /-- CLOCK_SWALLOW (R355): A swallowed pulse stalls the domain for one reference period. -/
  | clockSwallow (t : Nat)
  /-- POWER_HOLD (R356): After 100 ms over the limit at rate 32 the lowest-priority domain is held. -/
  | powerHold
  /-- POWER_HOLD_END (R356): A held domain resumes at rate 32 after 1 ms within limits. -/
  | powerHoldEnd (t : Nat)
  /-- RETRAIN_COMPLETE (R342): A port that lost a lane finishes retraining, resets its exponent tables and replays the flits held in its replay buffer. -/
  | retrainComplete (port : Nat)
  /-- LINK_RESET (R346): Floor resets a link, so that QUARANTINED grant entries leave that state and their frames may be used again. -/
  | linkReset (port : Nat)
  /-- PAGE_MOVE_COMPLETE (R209): A page moving between tiers finishes its move, MIGR clears, and queued writes that faulted on it can be resolved. -/
  | pageMoveComplete (ctx : Nat) (va : Nat)
  /-- ALLOCATION_HINT_CHANGE (R209): The host, through Floor, changes an allocation's priority or expected next-use step at any time. -/
  | allocationHintChange (ctx : Nat) (va : Nat) (prio : Nat) (next : Option Nat)
  /-- COPY_REPLAY_CAUGHT_UP (R195): A replayed copy catches up to its schedule, and the domain's fault-service stall ends. -/
  | copyReplayCaughtUp (t : Nat) (c : Nat) (e : Nat)
  /-- COMPLETION_QUEUE_SETUP (R302): Floor sets a context's completion queue base and size, which resets the producer and head indices to 0. -/
  | completionQueueSetup (ctx : Nat) (base : Nat) (size : Nat)
  deriving DecidableEq, Repr

end Sys2Proof
end

