-- ==== Sys2Proof/Machine/State.lean ====
section
/-!
DEFINITION. The state of the Golrun as plain data: the cores of the bound tasks, the tasks, the device around them, and
the order in which the machine's next steps come.
-/

namespace Sys2Proof.Machine

/-- Why a step stops with a fault. -/
inductive Fault where
  /-- Raised by a step whose next slot lies on a page that no valid executable leaf maps: the spec gives a fetch no
  outcome there, because a folio's text is scanned and mapped before it runs (02 R33).  Safe. -/
  | textUnmapped
  /-- Raised by a step whose next slot names a bundle outside the kernel's text: the scanner's check 0x0B excludes such
  a path (02 R34).  Safe. -/
  | outsideText
  deriving DecidableEq, Repr

/-- Why a step has no meaning. -/
inductive Refusal where
  /-- An instruction of the table whose meaning is not written.  Safe. -/
  | notModelled (mnemonic : String)
  /-- Raised by a step that fetches an encoding that is no instruction, with the scanner's reason code: the scanner
  keeps it from the decoder (02 R33, R34).  Safe. -/
  | noInstruction (reason : Nat)
  deriving DecidableEq, Repr

/-- Bytes by address, in one canonical form: addresses strictly rising and no entry equal to what an unlisted address
reads as. -/
abbrev Memory := List Host.Cell

/-! ### Registers of a core -/

/-- A row cursor (06 R117): tile, row, step mode. -/
structure Cursor where
  tile : BitVec 7
  row : BitVec 4
  step : BitVec 2
  deriving DecidableEq, Repr

/-- One loop level of a walker (09 R177). -/
structure Level where
  count : BitVec 32
  stride : BitVec 32
  index : BitVec 32
  deriving DecidableEq, Repr

/-- A walker (09 R177).  `lastLeaf` is the leaf-space leaf of its previous read since WSET or WRST, as
slice number times 1,024 plus leaf (09 R183). -/
structure Walker where
  loaded : Bool
  cfg : Word
  l0 : Level
  l1 : Level
  l2 : Level
  l3 : Level
  lastLeaf : Option Nat
  deriving DecidableEq, Repr

/-- The mode of an open head (08 R156). -/
inductive HeadMode where
  | read | append | update
  deriving DecidableEq, Repr

/-- Whether a head is open (08 R155). -/
inductive HeadStatus where
  | closed | opening | opened
  deriving DecidableEq, Repr

/-- A line that a window holds: its bytes and those of them that are lost (08 R157, R167). -/
structure WinLine where
  bytes : List Byte
  lost : BitVec 64
  deriving DecidableEq, Repr

/-- A head (08 R156).  `oid` names this opening; `win` are the lines of the window that are held, by 64-byte units from BASE (08
R162); `coming` are lines that a FILL window sent to the mirror, each with the cycle in which it is held (08 R167); `markBack` is
the direction when the bottom mark was pushed; `settled` is the position for which lines were last released, and `pool` counts the
lines that the head has of its core's pool (08 R162, R164). -/
structure Head where
  status : HeadStatus
  oid : Nat
  handle : BitVec 32
  mode : HeadMode
  back : Bool
  grain : Nat
  fmt : Nat
  pos : Word
  marks : List Word
  markBack : Bool
  win : SMap WinLine
  coming : SMap (Nat × WinLine)
  settled : Word
  pool : Nat
  deriving DecidableEq, Repr

/-- The sequence unit (12 R232): `v` and `l` by 32 × dimension + index, `e` by dimension.  `bad` are the words of
the store that hold an uncorrectable error (12 R239): `V` by its own index, `L` by 8,192 + its index. -/
structure SeqUnit where
  v : SMap Lane
  l : SMap Lane
  e : SMap Lane
  dim : BitVec 8
  idx : Lane
  off : Lane
  str : Lane
  q : Row
  bad : List Nat
  deriving DecidableEq, Repr

/-- A leaf-table entry (09 R181) with its NEXT byte. -/
structure LeafEntry where
  expect : BitVec 16
  tag : BitVec 16
  lines : BitVec 7
  len : BitVec 7
  cap : BitVec 7
  valid : Bool
  offset : BitVec 16
  next : Nat
  deriving DecidableEq, Repr

/-- A weight-buffer slot (07 R134): segment bytes, valid bit, live-column bitmap. -/
structure WbSlot where
  bytes : List Byte
  valid : Bool
  bitmap : BitVec 512
  deriving DecidableEq, Repr

/-- An array plane (07 R134): its tag (slot, plane number), `ok` while no WBFILL or MBMAP has cleared it, the mc from which
it is valid and that of a claimed swap (07 R139, R143), the 2:4 flag, the bitmap, and for each live column in increasing
order its logical number, lane exponent and non-zero trits by K position, true for a negative one.  `id` is 0 for the
plane of a task's start. -/
structure Plane where
  id : Nat
  wb : Nat
  k : Nat
  ok : Bool
  validAt : Nat
  claim : Option Nat
  sp : Bool
  bitmap : BitVec 512
  cols : List (Nat × Int × List (Nat × Bool))
  deriving DecidableEq, Repr

/-! ### Pending work -/

/-- Where an MTX command pops its rows (07 R137): tile rows by 16 × tile + row, as resolved at its issue, one row read at
its issue, a head or a walker. -/
inductive RowSource where
  | tileRows (rows : List Nat)
  | fixed (row : Row)
  | head (h : Nat)
  | walker (w : Nat)
  deriving DecidableEq, Repr

/-- A write to accumulators owed in matrix cycles (07 R146, R148). -/
inductive AccOp where
  /-- ANORM: the shift of each of the 64 rows. -/
  | norm (shifts : List Nat)
  /-- AWR: one row of elements, or of guards only. -/
  | writeRow (row : Nat) (guard : Bool) (lanes : Row)
  /-- AEXP writing row exponents or lane exponents. -/
  | writeExps (laneSel : Bool) (lanes : Row)
  /-- AZERO. -/
  | clear
  /-- MSTAT with clr. -/
  | clearOvf
  /-- MBMAP: the live-column bitmap of a slot, given as the tile. -/
  | bitmap (v : BitVec 512)
  deriving DecidableEq, Repr

/-- An owed accumulator write: the tile and the mc at which it performs. -/
structure AccWrite where
  id : Nat
  pc : Nat
  slot : Nat
  tile : Nat
  mc : Nat
  op : AccOp
  deriving DecidableEq, Repr

/-- An AWR whose rows still pop (07 R148), row j at `start` + j. -/
structure AwrCmd where
  id : Nat
  pc : Nat
  slot : Nat
  tile : Nat
  row0 : Nat
  rows : Nat
  guard : Bool
  src : RowSource
  start : Nat
  deriving DecidableEq, Repr

/-- A WBFILL (07 R141): the mc of its start, and the bytes popped so far. -/
structure FillCmd where
  id : Nat
  pc : Nat
  slot : Nat
  wb : Nat
  rows : Nat
  src : RowSource
  start : Nat
  bytes : List Byte
  deriving DecidableEq, Repr

/-- A plane load (07 R143): the plane it gives, the mc of its start, and whether an MMA caused it (07 R139). -/
structure LoadCmd where
  plane : Plane
  start : Nat
  implicit : Bool
  deriving DecidableEq, Repr

/-- An activation row that the array has consumed and owes to the tiles (07 R144): row, mc of its perform, aligned
values by K position, row scale. -/
structure MmaRow where
  row : Nat
  mc : Nat
  q : List Int
  scale : Int
  deriving DecidableEq, Repr

/-- An MMA or MMAZ (07 R144) with the FMT and CMPAT of its bundle.  `start` is its input start, `step` the mc between its
rows, `swap` says that it swaps the shadow in, `scales` are the row scales so far, `touched` the tiles its writes have
zeroed. -/
structure MmaCmd where
  id : Nat
  pc : Nat
  slot : Nat
  zero : Bool
  z : Nat
  width : Nat
  plane : Plane
  swap : Bool
  rows : Nat
  step : Nat
  src : RowSource
  fmt : BitVec 22
  start : Nat
  inFlight : List MmaRow
  scales : List Int
  touched : List Nat
  deriving DecidableEq, Repr

/-- A head or walker engaged by an MTX command (07 R137), until an mc or a dc has passed. -/
structure Engaged where
  isHead : Bool
  n : Nat
  lastMc : Option Nat
  lastDc : Option Nat
  deriving DecidableEq, Repr

/-- The matrix unit (07 R134 to R137): the two planes, and the two as they will stand when every issued MMA has started;
the weight-buffer slots; the accumulators by 64 × tile + row, their row exponents by 64 × tile + row and lane exponents by
128 × tile + lane, the ACCOVF bits; the busy bits as (tile, first free mc, whether an MMA holds it) and (slot, first free
mc); the queues; owed accumulator writes; heads and walkers engaged; tile rows still used, as (tile, last mc); and the mc
at which the array input takes its next row. -/
structure Matrix where
  active : Plane
  shadow : Plane
  nextActive : Plane
  nextShadow : Plane
  slots : SMap WbSlot
  acc : SMap (SMap (BitVec 40))
  rowExp : SMap (BitVec 8)
  laneExp : SMap (BitVec 8)
  ovf : BitVec 24
  busyTile : List (Nat × Nat × Bool)
  busySlot : List (Nat × Nat)
  fills : List FillCmd
  loads : List LoadCmd
  mmas : List MmaCmd
  awrs : List AwrCmd
  writes : List AccWrite
  engaged : List Engaged
  uses : List (Nat × Nat)
  fillFree : Nat
  loadFree : Nat
  swapAt : Nat
  inputFree : Nat
  deriving DecidableEq, Repr

/-- What a copy, fabric or sequence engine command does at its perform dc. -/
inductive CmdOp where
  /-- KCOPY (09 R189): source, destination, length. -/
  | copy (src dst len : Nat)
  /-- KCOPYR (09 R190), with the FMT of its bundle. -/
  | reduce (src dst len : Nat) (fmt : BitVec 22)
  /-- KGATH (09 R191): source, destination, list address, records, log2 record size. -/
  | gather (src dst list count size : Nat)
  /-- KSCAT (09 R191). -/
  | scatter (src dst list count size : Nat)
  /-- KFILL (09 R189). -/
  | fill (dst len : Nat) (word : Lane)
  /-- SFGO (11 R224): stream number, bill, which run of the stream it is, whether it seals, and FMT.SUB of its bundle. -/
  | run (stream bill index : Nat) (last sub : Bool)
  /-- QLOAD and QSAVE (12 R237): image address, first dimension, count. -/
  | qload (image first count : Nat)
  | qsave (image first count : Nat)
  deriving DecidableEq, Repr

/-- A command of an engine (03 R51). -/
structure Cmd where
  id : Nat
  pc : Nat
  slot : Nat
  issueDc : Nat
  issueGc : Nat
  start : Nat
  perform : Nat
  op : CmdOp
  deriving DecidableEq, Repr

/-- Physical lines on owned channels that a started copy or run has still to move in STREAM windows, with its last dc for
that (10 R204, 11 R225). -/
structure Debt where
  cmd : Nat
  core : Nat
  engine : Nat
  pc : Nat
  slot : Nat
  start : Nat
  deadline : Nat
  lines : List Nat
  deriving DecidableEq, Repr

/-- A command that an engine executes: the pieces of 512 bytes it has gone through, the bytes read so far, the index words read so
far, the chunk and the physical line at which a memory error suspended it (09 R195), and main memory as it stood at S, for a gather
from it whose records later words of the list name (09 R187, R191). -/
structure Running where
  cmd : Cmd
  chunks : Nat
  bytes : List Byte
  indices : List Byte
  suspended : Option (Nat × Nat)
  source : Memory
  deriving DecidableEq, Repr

/-- An engine (03 R51): pending commands in issue order, the running one, P of the latest command (09 R197). -/
structure Engine where
  pending : List Cmd
  running : Option Running
  lastP : Nat
  deriving DecidableEq, Repr

/-- A scalar register's busy bit (03 R65, R359): the result `id` it waits for, and the dc from which a reader waits. -/
structure Busy where
  reg : Nat
  id : Nat
  fromDc : Nat
  deriving DecidableEq, Repr

/-- A line written through a head and not yet in memory (08 R158): the opening, the first of those writes, the line's virtual
number, BASE, the virtual addresses to which it has yet to go, the tape's and the mirror's, and the gc by which open slots write it. -/
structure Behind where
  oid : Nat
  id : Nat
  line : Nat
  base : Nat
  goes : List Nat
  due : Nat
  deriving DecidableEq, Repr

/-- A table operation of a head (08 R154). -/
inductive TableOp where
  | open_ (app back : Bool) (grain : Nat)
  | new_ (grain : Nat)
  | lease (back : Bool) (grain : Nat)
  | free_
  | closeRead
  /-- The close of an append (sealing or not) or update head: its final position. -/
  | closeWrite (mode : HeadMode) (last : Bool) (pos : Word)
  deriving DecidableEq, Repr

/-- An effect of a slot.  Those of the first group take place when the bundle commits and are seen from the next dc;
those of the second are owed to a later dc. -/
inductive Eff where
  | pc (v : Nat)
  | halt
  | waitUntil (dc : Nat)
  | step (n : Nat)
  /-- Steps that an MTX command makes of a cursor (07 R137). -/
  | mtxSteps (n count : Nat)
  | cursor (n : Nat) (v : Cursor)
  | walker (n : Nat) (v : Walker)
  | head (n : Nat) (v : Head)
  | lc (v : Word)
  | base (n : Nat) (v : BitVec 32)
  | fmt (image : BitVec 22)
  | twin (v : Word)
  | frptr (v : Word)
  | dgst (clear : Bool) (add : Word)
  | detc (code : Nat)
  | talloc (n : Nat)
  | trel (k : Nat)
  | leafEntry (core n : Nat) (v : LeafEntry)
  | leafNext (core n : Nat) (next : Nat)
  | leafExpect (core n : Nat) (v : BitVec 16)
  | checker (range : Option (Nat × Nat))
  | seqUnit (v : SeqUnit)
  | prio (v : Option Nat)
  | launch (addr : Nat) (now : Bool)
  | signal (tag : BitVec 16) (value : Word)
  | qsync (reg : Nat)
  | command (e : Nat) (c : Cmd)
  | matrix (m : Matrix)
  | brk (imm : BitVec 12)
  | sfmash (stream bill : Nat)
  | scalar (n : Nat) (v : Word)
  | pred (n : Nat) (mask v : Pred)
  | tileRow (tile row : Nat) (mask : Pred) (v : Row)
  | mtxRow (tile row : Nat) (v : Row)
  /-- Scratchpad bytes with the kind of their requester (17 R307); kind 7 is the slice's engine write port (09 R176). -/
  | spad (addr : Nat) (v : List Byte) (kind : Nat)
  /-- Rows appended to a leaf (09 R183); `port` says that they come through the slice's engine write port. -/
  | leafWrite (core leaf first : Nat) (v : List Byte) (port : Bool)
  | headWrite (oid : Nat) (handle : BitVec 32) (fmt : Nat) (elems : List (Nat × Lane)) (update : Bool) (h : Nat) (pos : Word)
  | seqRow (v : Row)
  | seqV (i : Nat) (v : Lane)
  | seqL (i : Nat) (v : Lane)
  | seqE (i : Nat) (v : Lane)
  | table (h : Nat) (handle : BitVec 32) (oid : Nat) (op : TableOp) (reg : Nat) (issueGc : Nat) (implicit : Bool)
  | hwait (oid : Nat) (reg : Nat)
  /-- A head that a table operation opened before the rollback point (15 R282). -/
  | opened (h oid : Nat) (v : Head)
  | sfbind (reg : Nat) (record : List Word) (scatter : Bool) (issueGc : Nat)
  | sfrel (stream gen issueGc : Nat)
  deriving DecidableEq, Repr

/-- An effect of the slot of a core, with the dc at which it performs. -/
structure Owed where
  id : Nat
  core : Nat
  pc : Nat
  slot : Nat
  dc : Nat
  eff : Eff
  deriving DecidableEq, Repr

/-- What a queued access or fence is (13, 04 R87 to R89). -/
inductive QKind where
  | load | acquire | store | release | loadRow | storeRow
  | amo (op : Nat) | vamo (add : Bool)
  | barriv | barwait | barinit
  | fence | fencec | scfence
  deriving DecidableEq, Repr

/-- Where a queued access goes once it is translated. -/
inductive Target where
  | untranslated
  /-- A slice of the core's own quire: relative core and offset (13 R242). -/
  | slice (core off : Nat)
  /-- Main memory, by physical address, with the barrier attribute of its page. -/
  | memory (pa : Nat) (barrier : Bool)
  /-- A peer frame: chip and export-space address (23 R345). -/
  | peer (chip addr : Nat)
  deriving DecidableEq, Repr

/-- A queued access or fence in flight (13 R243).  `wheel` is the wheel cycle of an SC access, `old` the value an atomic
has read with the gc of its write, `lost` whether another core's atomic has fallen between the two and, if
so, whether one of those returns a value (13 R261), `group` the instruction of a VAMO lane, `retried` that a flit of its request came
twice (23 R341). -/
structure QAcc where
  id : Nat
  task : Nat
  core : Nat
  pcore : Nat
  pc : Nat
  slot : Nat
  kind : QKind
  va : Nat
  size : Nat
  scope : Nat
  wheel : Option Nat
  dest : Nat
  v : Word
  v2 : Word
  data : List Byte
  spad : Nat
  group : Nat
  due : Nat
  walkAt : Nat
  target : Target
  old : Option (Word × Nat)
  lost : Option Bool
  remote : Option Nat
  retried : Bool
  deriving DecidableEq, Repr

/-- A trap raised and not yet taken (17 R303, R306). -/
structure Trap where
  core : Nat
  slot : Nat
  mask : BitVec 4
  cause : Nat
  sub : Nat
  pc : Nat
  engine : Nat
  addr : Nat
  kind : Nat
  imm : BitVec 12
  d7 : Word
  d8 : Word
  d9 : Word
  d10 : Word
  deriving DecidableEq, Repr

/-- A request for a scratchpad bank in this dc (09 R176): slice, bank, core, kind of R307, PC. -/
structure BankReq where
  task : Nat
  slice : Nat
  bank : Nat
  core : Nat
  kind : Nat
  pc : Nat
  deriving DecidableEq, Repr

/-! ### A core and a task -/

/-- A core sequencer and everything private to it: one PC and one set of registers, no hardware threads (03 R42; 04 R66, R69; 06; 07;
08; 09; 12). Tables list what differs from the value at task start (03 R49). `sram` are the places whose words hold a double-bit error
(17 R303): array 0 with a tile row's number, 1 an accumulator tile, 2 a weight-buffer slot, 3 a scratchpad line, 4 a window line as 2^51
× head + line, 5 the shadow result buffer. -/
structure Core where
  s : SMap Word
  p : SMap Pred
  b : SMap (BitVec 32)
  c : SMap Cursor
  w : SMap Walker
  h : SMap Head
  pc : Nat
  halted : Bool
  waitDc : Nat
  lc : Word
  fmt : BitVec 22
  fmtNext : List (Nat × BitVec 22)
  cmpat : Word
  wheelmap : Word
  dgst : Word
  dgstNext : Word
  tallocmap : BitVec 80
  frptr : Word
  twin : Word
  detc : SMap Word
  tiles : SMap Row
  mtx : Matrix
  slice : Memory
  leaf : SMap LeafEntry
  checker : Option (Nat × Nat)
  engines : SMap Engine
  seq : SeqUnit
  busy : List Busy
  loadSeq : SMap Nat
  timedSeq : SMap Nat
  winMem : SMap Byte
  behind : List Behind
  launchPrio : Option Nat
  sram : List (Nat × Nat)
  deriving DecidableEq, Repr

/-- The wheel positions of a task (14 R263). -/
structure WheelAlloc where
  base : Nat
  stride : Nat
  count : Nat
  deriving DecidableEq, Repr

/-- An entry of a task's launch list, or a signal (16 R295, R296).  `before` are the queued accesses it waits for. -/
structure Post where
  id : Nat
  core : Nat
  pc : Nat
  isSignal : Bool
  now : Bool
  addr : Nat
  tag : BitVec 16
  value : Word
  prio : Option Nat
  issueDc : Nat
  applied : Bool
  deriving DecidableEq, Repr

/-- How served traps go on (17 R305, R309). -/
inductive ServiceKind where
  | brk | pageFault | copyError
  /-- Floor has resumed after copies' memory errors: the engines read again, until a gc. -/
  | replay (due : Nat)
  deriving DecidableEq, Repr

/-- Traps of one dc handed to Floor (17 R305, R309): the records, the gc of the deadline, and whether the domain goes back to the
drain of its freeze (03 R58). -/
structure Service where
  kind : ServiceKind
  traps : List Trap
  deadline : Nat
  draining : Bool
  deriving DecidableEq, Repr

/-- A read that the drain of a freeze has made ahead of its dc (03 R61): its requester as 09 R176 and 17 R307 name it, the
scratchpad ranges and the tile rows of its core that it takes. -/
structure Capture where
  core : Nat
  engine : Nat
  slot : Nat
  pc : Nat
  kind : Nat
  dc : Nat
  ranges : List (Nat × Nat)
  rows : List Nat
  deriving DecidableEq, Repr

/-- A read of scratchpad that the early-read checker has passed in the current dc: a copy that issues later in that dc is tested
against it too (09 R194).  `engine` and `slot` are those of its trap, `lines` those of its bytes that the checker looks at. -/
structure CheckedRead where
  task : Nat
  core : Nat
  engine : Nat
  slot : Nat
  pc : Nat
  lines : List Nat
  deriving DecidableEq, Repr

/-- A stream context (11 R222 to R227), by 16 × instance + context. -/
structure Stream where
  owner : Option Nat
  core : Nat
  bound : Bool
  gen : Nat
  scatter : Bool
  record : List Word
  origin : List Int
  bill : Nat
  handle : BitVec 32
  isSealed : Bool
  runs : Nat
  total : Nat
  crc : BitVec 32
  clamps : Nat
  sats : Nat
  poisons : Nat
  lastP : Nat
  deriving DecidableEq, Repr

/-- What a table operation changed, for a rollback (15 R282). -/
inductive Undo where
  /-- A tape's entry before an operation, with the number of operations performed by then, its own the last of them. -/
  | tape (ctx index : Nat) (old : List Word) (ops : Nat)
  | stream (n : Nat) (old : Stream)
  /-- LENGTH of a tape that a stream run has written (11 R223). -/
  | length (ctx index : Nat) (old : BitVec 40)
  /-- A byte that a head wrote, and whether it was lost before. -/
  | byte (va : Nat) (old : Byte) (lost : Bool)
  deriving DecidableEq, Repr

/-- A tape-table operation that has performed (08 R155): the tape, the task, core and PC of its instruction, the gc of its
issue and of its perform, and whether it has been counted as racing. -/
structure TapeOp where
  ctx : Nat
  tape : Nat
  task : Nat
  core : Nat
  pc : Nat
  issue : Nat
  perform : Nat
  raced : Bool
  deriving DecidableEq, Repr

/-- A data command of a window still to come: its dc, the window and the window's own dc, and the row it opens once a line
has been chosen (10 R203). -/
structure Move where
  dc : Nat
  w : Window
  start : Nat
  row : Option Nat
  deriving DecidableEq, Repr

/-- The command timeline of an owned channel as it runs (10 R202 to R207): the physical channel; by bank the last ACT, the
last PRE, the dc until which the bank is busy and the end of its refresh; the data lines' dcs and moves; the all-bank refresh's
end; guarded mode with the gc of its next refresh; whether a long stall has precharged its rows; and the µs of its binding with
the first argument of the free ages its row groups had then and the limit below which they lay; by bank the row that the last ACT
opened. -/
structure TimelineRun where
  phys : Nat
  act : SMap Nat
  pre : SMap Nat
  busyUntil : SMap Nat
  refUntil : SMap Nat
  lines : List Nat
  moves : List Move
  refAll : Nat
  guarded : Bool
  guardGc : Nat
  precharged : Bool
  boundAt : Nat
  ages : Nat
  limit : Nat
  rows : SMap Nat
  deriving DecidableEq, Repr

/-- A core's queued writes, tile-row writes and table operations issued since the rollback point (15 R279, R282). -/
structure Counts where
  stores : Nat
  rows : Nat
  tables : Nat
  deriving DecidableEq, Repr

/-- A queued load issued since the rollback point (15 R280): its core and PC, the physical line it reads, whether another
agent has written that line since, and whether a rollback has discarded it. -/
structure LoadMark where
  core : Nat
  pc : Nat
  line : Nat
  hit : Bool
  rolled : Bool
  deriving DecidableEq, Repr

/-- A store that a peer refused (23 R347): its core, id, PC and slot, and the reason. -/
structure Nack where
  core : Nat
  id : Nat
  pc : Nat
  slot : Nat
  addr : Nat
  reason : Nat
  deriving DecidableEq, Repr

/-- The state of a task's life: bound and before its first bundle (starting), or before the bundles of its freeze (resuming);
running; under fault service; frozen, saved, ended, failed. -/
inductive TaskStatus where
  | starting | resuming | running | service | frozen | saved | ended | failed
  deriving DecidableEq, Repr

/-- A task: one bound kernel instance and its timed domain (03, 16).  `begun` is whether dc 0 has issued.  `peerLines` are the lines of
peers' frames that it has written, by virtual line, as this chip knows them (17 R317, log 50); `snapRuns` are its timelines at the
rollback point. -/
structure Task where
  ctx : Nat
  node : Nat
  folio : Nat
  kernel : Nat
  quires : List Nat
  prio : Nat
  readyGc : Nat
  startGc : Nat
  det : Bool
  attempt : Nat
  status : TaskStatus
  dc : Nat
  mc : Nat
  cores : SMap Core
  owed : List Owed
  tapes : List (BitVec 32)
  channels : List Nat
  pins : List (Nat × Nat)
  args : List Word
  argsValid : Bool
  launches : Nat
  steps : Nat
  begun : Bool
  wheel : Option WheelAlloc
  posts : List Post
  qsyncs : List (Nat × Nat × Nat)
  causes : List Nat
  refill : Option (Nat × List (Nat × Nat × Nat))
  gated : Option Nat
  service : Option Service
  preempt : Bool
  freezeDc : Nat
  saveGc : Nat
  savedStreams : List (Nat × Stream)
  stallLen : Nat
  captured : List Capture
  rollDc : Nat
  rollId : Nat
  snap : SMap Core
  snapOwed : List Owed
  snapRuns : SMap TimelineRun
  undo : List (Nat × Undo)
  counts : SMap Counts
  loadMarks : List LoadMark
  timelines : SMap TimelineRun
  debts : List Debt
  closed : Bool
  lastHalt : Nat
  rate : Nat
  nextRate : Nat
  held : Bool
  stalls : List (Nat × Nat)
  failure : Option Trap
  trapped : List Trap
  raised : List Trap
  nacked : List Nack
  fromEmpty : List Nat
  peerLines : SMap (List Byte)
  deriving DecidableEq, Repr

/-! ### The device -/

/-- An entry of a tape table (08 R152). -/
structure TapeEntry where
  length : BitVec 40
  capacity : BitVec 40
  format : BitVec 4
  state : BitVec 2
  valid : Bool
  home : Bool
  mirror : Bool
  stale : Bool
  base : BitVec 57
  mbase : BitVec 57
  mash : BitVec 8
  mashv : Bool
  lessee : BitVec 10
  leased : Bool
  readers : BitVec 16
  rcore : BitVec 10
  rmulti : Bool
  deriving DecidableEq, Repr

/-- A completion queue (16 R302): base and size, entries written and entries that the host has consumed since it was set,
entries held, OVF of the next entry. -/
structure CompletionQueue where
  base : Nat
  size : Nat
  producer : Nat
  consumed : Nat
  held : List (Word × Word)
  ovf : Bool
  deriving DecidableEq, Repr

/-- A device context (15 R270). -/
structure Context where
  fn : Nat
  root : Nat
  faultArea : Nat
  tapes : SMap TapeEntry
  digest : Word
  reported : Word
  steps : Nat
  cq : Option CompletionQueue
  deriving DecidableEq, Repr

/-- A cached translation (15 R276): context, virtual page, log2 size, leaf entry. -/
structure TlbEntry where
  ctx : Nat
  page : Nat
  bits : Nat
  leaf : Word
  deriving DecidableEq, Repr

/-- A pinned page (15 R277): context, virtual address, size, count, and the translation, the leaf of its first entry. -/
structure PinEntry where
  ctx : Nat
  va : Nat
  size : Nat
  count : Nat
  leaf : Word
  deriving DecidableEq, Repr

/-- A mash bill that Kiln has validated (11 R217, R220). -/
structure Bill where
  nodes : List (BitVec 128)
  depth : Nat
  packFmt : Nat
  leaf : Bool
  deriving DecidableEq, Repr

/-- A loaded folio (02 R40), the CMPAT its tasks get (02 R38) and each kernel's bills by .mash slot. -/
structure Folio where
  img : FolioImage
  cmpat : Word
  bills : List (SMap Bill)
  deriving DecidableEq, Repr

/-- A ready instance (16 R288): a node, or a frozen task waiting to be bound again. -/
structure Ready where
  ctx : Nat
  node : Nat
  queue : Nat
  prio : Nat
  readyGc : Nat
  agedGc : Nat
  attempt : Nat
  frozen : Option Nat
  deriving DecidableEq, Repr

/-- A node that runs on the command processor (16 R286). -/
structure CpNode where
  id : Nat
  ctx : Nat
  node : Nat
  due : Nat
  deriving DecidableEq, Repr

/-- A PCIe function (23 R338 to R340).  `reported` is the count of dropped writes that Floor reported last; `masked` are the MSI-X
vectors that it has masked. -/
structure HostFn where
  ctx : Option Nat
  tail : BitVec 16
  consumed : BitVec 16
  cqhead : BitVec 16
  ringBase : Nat
  ringSize : Nat
  regs : SMap Word
  dropped : Nat
  reported : Nat
  reply : List Byte
  unsupported : Bool
  interrupts : Nat
  masked : BitVec 4
  cqMem : Memory
  deriving DecidableEq, Repr

/-- A flit sent and not yet acknowledged, with the exponent tables at its start (23 R341, R343). -/
structure SentFlit where
  seq : Nat
  bytes : List Byte
  tables : SMap (List Byte)
  deriving DecidableEq, Repr

/-- A request sent to a peer and not yet answered (23 R344), with the sequence number of its last flit. -/
structure RemoteReq where
  tag : Nat
  chan : Nat
  access : Nat
  grant : Nat
  seq : Nat
  deriving DecidableEq, Repr

/-- A Ngapor port (23 R341 to R344).  `rxRetry` counts the flits, from the next one on, that the far end has sent before; `tainted` are
the channels whose message in arrival has had such a flit; `outbox` are flits, as channel, kind and payload, that wait for room in the
replay buffer; `carry` are bytes, with their exponent table, of a message that began on a port that has gone down. -/
structure Port where
  chip : Nat
  lanes : List Nat
  up : Bool
  retrain : Option Nat
  rxSeq : Nat
  txSeq : Nat
  acked : Nat
  replay : List SentFlit
  rxTables : SMap (List Byte)
  txTables : SMap (List Byte)
  rxBuf : SMap (List Byte)
  requests : List RemoteReq
  nextTag : Nat
  rxRetry : Nat
  tainted : List Nat
  outbox : List (Nat × Nat × List Byte)
  carry : SMap (List Byte × List Byte)
  deriving DecidableEq, Repr

/-- The state of a grant entry (23 R345). -/
inductive GrantState where
  | free | granted | recalling | quarantined
  deriving DecidableEq, Repr

/-- An entry of the exporter's grant table (23 R345, R346). -/
structure Grant where
  chip : Nat
  first : Nat
  count : Nat
  pa : Nat
  r : Bool
  w : Bool
  state : GrantState
  recallGc : Nat
  nacks : Nat
  deriving DecidableEq, Repr

/-- A range of a peer's export space that a grant message named (23 R345), on the importer. -/
structure Import where
  port : Nat
  num : Nat
  first : Nat
  count : Nat
  r : Bool
  w : Bool
  recalled : Bool
  maps : List (Nat × Nat)
  deriving DecidableEq, Repr

/-- Why a step of the boot has failed (24 R351). -/
inductive HaltReason where
  | tooSmall | kilnImage | settingsImage | decodeTableImage | floorImage
  deriving DecidableEq, Repr

/-- How far the device has come up (24 R351).  A boot that has halted has reported its step and reason over the management port. -/
inductive BootState where
  | off | booted | halted (step : Nat) (reason : HaltReason) | failed (cause : FatalCause)
  deriving DecidableEq, Repr

/-- Firmware: image versions, fused counters by KIND, the root public key that Kiln holds, decode table, mailbox, settings
(24 R349 to R352; 02 R37), the scan report (02 R33), the load result (02 R40) and the reason code of the latest refusal.  `badSpares` are
the spare cores that failed their self-test, by 4 × die + spare.  `twinCounts` are the gcs of
a physical core's mismatches (17 R319); `attrFrames` the frames of barrier (0), tape (1) and executable (2) pages, each with its
size; `dumpDue` the gc at which a dump that Kiln is writing will be complete; `hostReport` the fitted size and the sub-channel
size C, in bytes, that Floor reported to the host at boot (00 R2); `records` Floor's copies of the latest fault record of each
physical core (17 R308). -/
structure Firmware where
  boot : BootState
  fittedGiB : Nat
  kilnVersion : Nat
  decodeVersion : Nat
  floorVersion : Nat
  settingsVersion : Nat
  counters : SMap Nat
  raiseCounters : Bool
  mailbox : List FloorReq
  refused : Nat
  reason : Option Nat
  rootKey : List Byte
  scanReport : List (Nat × Nat × Nat × Nat)
  loadCode : Option Nat
  badPorts : List Nat
  lostQuires : List Nat
  floorRestarts : Nat
  retired : List Nat
  spareOf : SMap Nat
  badSpares : List Nat
  twinCounts : SMap (List Nat)
  dumpComplete : Bool
  dumpExported : Bool
  dump : List Byte
  attrFrames : List (Nat × Nat × Nat)
  dumpDue : Option Nat
  hostReport : Option (Nat × Nat)
  records : SMap (List Byte)
  deriving DecidableEq, Repr

/-- The DRAM's own state (10 R206 to R208): refresh stamps in µs by (16 × channel + bank) × 2^20 + group; the hot lists as
(stack, row key) and retirement scores by row key, a row key being (16 × channel + bank) × 2^24 + row; rows being copied to a
spare, each with the µs by which its group is refreshed where no task owns the channel; spare rows used by 16 × channel + bank;
channels that a launch retires; stacks in the doubled-refresh range, and the gc at which each leaves it; spare pseudo-channels used by
stack, and spare sections used under 512; channels lost, which Floor has reported to the host; the patrol scrubs of the device's own
round so far, and by row key the gc of the next scrub of a hot row. -/
structure Dram where
  stamps : SMap Nat
  hot : List (Nat × Nat)
  scores : SMap Nat
  copying : SMap Nat
  sparesUsed : SMap Nat
  retireChannels : List Nat
  hotRange : List Nat
  cools : SMap Nat
  spareChannels : SMap Nat
  lost : List Nat
  scrubbed : Nat
  hotNext : SMap Nat
  deriving DecidableEq, Repr

/-- An allocation of a 2 MiB page for tier placement (10 R209), and whether the engine has moved it out of the fast tier. -/
structure Alloc where
  ctx : Nat
  va : Nat
  prio : Nat
  next : Option Nat
  order : Nat
  evicted : Bool
  deriving DecidableEq, Repr

/-- A page that moves between the tiers: its new frame and the gc at which the move is complete. -/
structure PageMove where
  ctx : Nat
  va : Nat
  frame : Nat
  toFast : Bool
  due : Nat
  deriving DecidableEq, Repr

/-- The tiers' placement state (10 R209): the watermark in pages, the allocations, the pages that move. -/
structure Tier where
  watermark : Nat
  allocs : List Alloc
  moving : List PageMove
  deriving DecidableEq, Repr

/-- The power controller (24 R354 to R356): the limit and the cap, windows since the limit was last met or exceeded, windows spent at
the deepest rate while over, whether a power hold or the end of the holds waits for the next block of 64 global cycles, and the reports
of the condition to Floor. -/
structure Power where
  limit : Nat
  cap : Nat
  below : Nat
  above : Nat
  pending : Option Bool
  reports : Nat
  deriving DecidableEq, Repr

/-- A TLB invalidation that waits for accesses translated by dropped entries (15 R276): the range and their ids. -/
structure Invalidation where
  ctx : Nat
  va : Nat
  len : Nat
  waits : List Nat
  grant : Option (Nat × Nat)
  deriving DecidableEq, Repr

/-- The last queued write of a line, or read-modify-write of a word (13 R261): physical core, gc, task, scope, and whether it is
an SC access. -/
structure LineTrace where
  core : Nat
  gc : Nat
  task : Nat
  scope : Nat
  sc : Bool
  deriving DecidableEq, Repr

/-- Main memory beyond its bytes: lines that cannot be read, by physical line, 1 where the next read alone fails and more where
the error lasts (log 38); the poison table (line, mask), lines that hold the
poison code word, barrier scopes by word, the last queued writer of each line, the last read-modify-write of each
word, by physical core the gc of its last acquire, and the core of the STL whose value a byte holds (08 R168; 13 R257, R261;
10 R199). -/
structure MemInfo where
  failing : SMap Nat
  poison : SMap (BitVec 64)
  codeWord : List Nat
  barScope : SMap Nat
  lastWrite : SMap LineTrace
  lastRmw : SMap LineTrace
  lastAcq : SMap Nat
  stlBytes : SMap Nat
  deriving DecidableEq, Repr

/-- The stages of one reference period (the model's own order of work). -/
inductive Stage where
  | period | inputs | queued | processor | domains
  | stalled (t : Nat) | timed (t : Nat) | binds (go : List Nat) | engines (t : Nat) | tables (go held : List Nat) | starts (t : Nat)
  | matrix (t : Nat) | timeline (t : Nat) | issue (t : Nat) | commit (t : Nat) | gate (t : Nat) | close (t : Nat) | endPeriod
  deriving DecidableEq, Repr

/-- An event that the device brings about itself, in the order of its own rules: the table's row of the same name. -/
inductive Event where
  | schedulerDecision
  | priorityAging
  | condNodeComplete (id : Nat)
  | copyNodeComplete (id : Nat)
  | preemptFreeze (t : Nat)
  | preemptSave (t : Nat)
  | taskEndCloses (t : Nat)
  | taskEnd (t : Nat)
  | kernelNodeComplete (t : Nat)
  | nowLaunchArrival (t id : Nat)
  | qsyncComplete (t id : Nat)
  | wheelGroupIssue (t : Nat)
  | powerGateExit (t : Nat)
  | engineCommandStart (t c e : Nat)
  | copyPerform (t c e : Nat)
  | copySuspend (t c e : Nat)
  | copyReplayCaughtUp (t c e : Nat)
  | sequenceEnginePerform (t c : Nat)
  | timedWritePerform (t id : Nat)
  | walkerLeafWritePerform (t id : Nat)
  | wbfillComplete (t c id : Nat)
  | planeLoadComplete (t c id : Nat)
  | mmaInputStart (t c id : Nat)
  | mmaRowPerform (t c id : Nat)
  | accumulatorWritePerform (t c id : Nat)
  | tableOperationPerform (t id : Nat)
  | headCloseTableWrite (t id : Nat)
  | headWritePerform (t id : Nat)
  | hwaitComplete (t id : Nat)
  | headRefillFetch (t : Nat)
  | sfbindPerform (t id : Nat)
  | streamRunPerform (t c : Nat)
  | sfrelPerform (t id : Nat)
  | streamDeadlineFault (t c e : Nat)
  | queuedLoadPerform (id : Nat)
  | queuedWritePerform (id : Nat)
  | atomicPerform (id : Nat)
  | barrierPerform (id : Nat)
  | fencecComplete (id : Nat)
  | scfenceComplete (id : Nat)
  | translationWalk (id : Nat)
  | serviceTimeout (t : Nat)
  | timelineFill (t ch : Nat) (w : Window)
  | timelineStream (t ch : Nat) (w : Window)
  | timelineRefpb (t ch : Nat) (w : Window)
  | timelineRefab (t ch : Nat) (w : Window)
  | forcedRefresh (ch bank : Nat)
  | guardedRefresh (t ch bank : Nat)
  | longStallPrecharge (t : Nat)
  | patrolScrub (ch bank row : Nat) (found : ScrubResult)
  | tierEviction
  | pageMoveComplete (ctx va : Nat)
  | recallTimeout (g : Nat)
  | retrainComplete (port : Nat)
  | rateChange (t k : Nat)
  | clockSwallow (t : Nat)
  | powerHold
  | powerHoldEnd (t : Nat)
  deriving DecidableEq, Repr

/-- One item of work: a slot of the bundle at a core's PC, an event from outside, one of the device's own, or a stage. -/
inductive Work where
  | slot (t c k : Nat)
  | event (i : Instr)
  | auto (e : Event)
  | stage (g : Stage)
  deriving DecidableEq, Repr

/-- A queued write of the command processor to a core's fault record: its task, the gc before which it does not perform, its virtual
address in the task's context and its bytes (17 R308, 21 R333). -/
structure RecordWrite where
  task : Nat
  ctx : Nat
  va : Nat
  data : List Byte
  due : Nat
  deriving DecidableEq, Repr

/-- The slot being run. -/
structure Cur where
  task : Nat
  core : Nat
  slot : Nat
  deriving DecidableEq, Repr

/-- The whole device.  `turns` holds, by slice and by memory controller, the cores whose queued requests it served, the latest last
(03 R55). -/
structure State where
  gcyc : Nat
  mem : Memory
  info : MemInfo
  ctxs : SMap Context
  tlbCore : SMap (List TlbEntry)
  tlbQuire : SMap (List TlbEntry)
  invals : List Invalidation
  pins : List PinEntry
  folios : SMap Folio
  quireOwner : SMap Nat
  chanOwner : SMap Nat
  mashOwner : SMap (List Nat)
  streams : SMap Stream
  tapeOps : List TapeOp
  tasks : SMap Task
  queue : List QAcc
  recordWrites : List RecordWrite
  turns : SMap (List Nat)
  ready : List Ready
  running : List CpNode
  queueCtx : SMap Nat
  fns : SMap HostFn
  fw : Firmware
  dram : Dram
  tier : Tier
  power : Power
  ports : SMap Port
  grants : SMap Grant
  imports : List Import
  env : List (Nat × Instr)
  agenda : List Work
  cur : Cur
  issued : List Owed
  newQueue : List QAcc
  traps : List Trap
  banks : List BankReq
  reads : List CheckedRead
  nextId : Nat
  freeCount : Nat
  deriving DecidableEq, Repr

/-! ### Values at task start and at reset -/

def Cursor.start : Cursor := ⟨0, 0, 0⟩
def Level.start : Level := ⟨1, 0, 0⟩
def Walker.start : Walker := ⟨false, 0, Level.start, Level.start, Level.start, Level.start, none⟩
def Head.start : Head := ⟨.closed, 0, 0, .read, false, 0, 0, 0, [], false, [], [], 0, 0⟩
def SeqUnit.start : SeqUnit := ⟨[], [], [], 0, 0, 0, 0, Row.zero, []⟩
def LeafEntry.start : LeafEntry := ⟨0, 0, 0, 0, 0, false, 0, 0⟩
def WbSlot.start : WbSlot := ⟨[], false, 0⟩
def Plane.start : Plane := ⟨0, 0, 0, false, 0, none, false, 0, []⟩
def Matrix.start : Matrix :=
  ⟨Plane.start, Plane.start, Plane.start, Plane.start, [], [], [], [], 0, [], [], [], [], [], [], [], [], [], 0, 0, 0, 0⟩
def Engine.start : Engine := ⟨[], none, 0⟩

/-- A core as a task finds it, less what its launch gives it (03 R49). -/
def Core.start : Core where
  s := []
  p := []
  b := []
  c := []
  w := []
  h := []
  pc := 0
  halted := false
  waitDc := 0
  lc := 0
  fmt := 0
  fmtNext := []
  cmpat := 0x10000
  wheelmap := 0
  dgst := 0
  dgstNext := 0
  tallocmap := 0
  frptr := 0
  twin := 0
  detc := []
  tiles := []
  mtx := Matrix.start
  slice := []
  leaf := []
  checker := none
  engines := []
  seq := SeqUnit.start
  busy := []
  loadSeq := []
  timedSeq := []
  winMem := []
  behind := []
  launchPrio := none
  sram := []

def Counts.start : Counts := ⟨0, 0, 0⟩

/-- A task before its launch fills it. -/
def Task.start : Task where
  ctx := 0
  node := 0
  folio := 0
  kernel := 0
  quires := []
  prio := 0
  readyGc := 0
  startGc := 0
  det := false
  attempt := 0
  status := .running
  dc := 0
  mc := 0
  cores := []
  owed := []
  tapes := []
  channels := []
  pins := []
  args := []
  argsValid := false
  launches := 0
  steps := 0
  begun := false
  wheel := none
  posts := []
  qsyncs := []
  causes := []
  refill := none
  gated := none
  service := none
  preempt := false
  freezeDc := 0
  saveGc := 0
  savedStreams := []
  stallLen := 0
  captured := []
  rollDc := 0
  rollId := 0
  snap := []
  snapOwed := []
  snapRuns := []
  undo := []
  counts := []
  loadMarks := []
  timelines := []
  debts := []
  closed := false
  lastHalt := 0
  rate := 64
  nextRate := 64
  held := false
  stalls := []
  failure := none
  trapped := []
  raised := []
  nacked := []
  fromEmpty := []
  peerLines := []

def TapeEntry.start : TapeEntry := ⟨0, 0, 0, 0, false, false, false, false, 0, 0, 0, false, 0, false, 0, 0, false⟩
def Context.start : Context := ⟨0, 0, 0, [], 0, 0, 0, none⟩
def Stream.start : Stream :=
  ⟨none, 0, false, 0, false, [], [], 0xFF, 0, false, 0, 0, 0, 0, 0, 0, 0⟩
def HostFn.start : HostFn := ⟨none, 0, 0, 0, 0, 0, [], 0, 0, [], false, 0, 0, []⟩
/-- A port at link training, before it is up (23 R341, R343). -/
def Port.start : Port := ⟨0, [], false, none, 0, 0, 0, [], [], [], [], [], 0, 0, [], [], []⟩
def Grant.start : Grant := ⟨0, 0, 0, 0, false, false, .free, 0, 0⟩
def TimelineRun.start : TimelineRun := ⟨0, [], [], [], [], [], [], 0, false, 0, false, 0, 0, 31744, []⟩

/-- Firmware after reset: nothing booted, no image loaded, every counter at its chosen value 0 (log 11). -/
def Firmware.start : Firmware :=
  ⟨.off, 0, 0, 0, 0, 0, [], false, [], 0, none, [], [], none, [], [], 0, [], [], [], [], false, false, [], [], none, none, []⟩

/-- The device right after reset (24 R351): no step of the boot has run, memory lists nothing. -/
def State.reset : State where
  gcyc := 0
  mem := []
  info := ⟨[], [], [], [], [], [], [], []⟩
  ctxs := []
  tlbCore := []
  tlbQuire := []
  invals := []
  pins := []
  folios := []
  quireOwner := []
  chanOwner := []
  mashOwner := []
  streams := []
  tapeOps := []
  tasks := []
  queue := []
  recordWrites := []
  turns := []
  ready := []
  running := []
  queueCtx := []
  fns := []
  fw := Firmware.start
  dram := ⟨[], [], [], [], [], [], [], [], [], [], 0, []⟩
  tier := ⟨1024, [], []⟩
  power := ⟨1600, 1600, 0, 0, none, 0⟩
  ports := []
  grants := []
  imports := []
  env := []
  agenda := []
  cur := ⟨0, 0, 0⟩
  issued := []
  newQueue := []
  traps := []
  banks := []
  reads := []
  nextId := 0
  freeCount := 0

end Sys2Proof.Machine
end

