-- ==== Sys2Proof/Machine/Sparse.lean ====
section
/-!
DEFINITION. Sparse tables, memory as a canonical list of bytes, and the small list and number helpers the machine uses.
-/

namespace Sys2Proof.Machine

/-! ### Sparse tables -/

/-- The entry of key `k`, if the table lists one. -/
def find? {α : Type} (m : SMap α) (k : Nat) : Option α :=
  match m with
  | [] => none
  | (j, v) :: rest => if j = k then some v else find? rest k

/-- The value of key `k`, or the default. -/
def get {α : Type} (m : SMap α) (d : α) (k : Nat) : α := (find? m k).getD d

/-- The table with `k` mapped to `v`, keys rising. -/
def put {α : Type} (m : SMap α) (k : Nat) (v : α) : SMap α :=
  match m with
  | [] => [(k, v)]
  | (j, w) :: rest => if k < j then (k, v) :: (j, w) :: rest else if j = k then (k, v) :: rest else (j, w) :: put rest k v

/-- The table without key `k`. -/
def erase {α : Type} (m : SMap α) (k : Nat) : SMap α := m.filter (·.1 ≠ k)

/-- The table with the value of `k` changed. -/
def upd {α : Type} (m : SMap α) (d : α) (k : Nat) (f : α → α) : SMap α := put m k (f (get m d k))

/-- Every listed value changed in place. -/
def mapVals {α β : Type} (m : SMap α) (f : Nat → α → β) : SMap β := m.map fun e => (e.1, f e.1 e.2)

/-! ### Memory -/

/-- The canonical form: addresses strictly rising, none holding what an unlisted address reads as. -/
abbrev Memory.wf (m : Memory) : Prop :=
  m.Pairwise (fun a b => a.1 < b.1) ∧ ∀ c ∈ m, c.2 ≠ Config.emptyByte

/-- The byte at an address. -/
def Memory.byte (m : Memory) (a : Nat) : Byte :=
  match m with
  | [] => Config.emptyByte
  | (j, v) :: rest => if j = a then v else if a < j then Config.emptyByte else Memory.byte rest a

/-- The memory with one byte written, in canonical form. -/
def Memory.set (m : Memory) (a : Nat) (v : Byte) : Memory :=
  match m with
  | [] => if v = Config.emptyByte then [] else [(a, v)]
  | (j, w) :: rest =>
    if a < j then (if v = Config.emptyByte then (j, w) :: rest else (a, v) :: (j, w) :: rest)
    else if j = a then (if v = Config.emptyByte then rest else (a, v) :: rest)
    else (j, w) :: Memory.set rest a v

/-- `n` bytes from an address up. -/
def Memory.bytes (m : Memory) (a n : Nat) : List Byte := (List.range n).map fun i => Memory.byte m (a + i)

/-- The memory with bytes written from an address up. -/
def Memory.setBytes (m : Memory) (a : Nat) (l : List Byte) : Memory :=
  match l with
  | [] => m
  | b :: rest => Memory.setBytes (Memory.set m a b) (a + 1) rest

/-- The address listed and not the default: what `winMem` holds for a byte, if it holds one.  A window overlay is a plain
table, so that a written zero counts as written. -/
def overlay (m : SMap Byte) (a : Nat) (below : Byte) : Byte := get m below a

/-! ### Little-endian values (01 R7) -/

/-- The number that bytes hold, lowest first. -/
def leNat (l : List Byte) : Nat :=
  match l with
  | [] => 0
  | b :: rest => b.toNat + 256 * leNat rest

/-- The `n` bytes of a number, lowest first. -/
def leBytes (n v : Nat) : List Byte :=
  match n with
  | 0 => []
  | k + 1 => BitVec.ofNat 8 v :: leBytes k (v / 256)

/-- A 64-bit word of memory. -/
def Memory.word (m : Memory) (a : Nat) : Word := BitVec.ofNat 64 (leNat (Memory.bytes m a 8))

/-! ### Small helpers -/

/-- Bits `lo` to `lo + n - 1` of a word, as a number. -/
def bits {w : Nat} (v : BitVec w) (lo n : Nat) : Nat := v.toNat / 2 ^ lo % 2 ^ n

/-- Bit `i` of a word. -/
def bitAt {w : Nat} (v : BitVec w) (i : Nat) : Bool := v.toNat / 2 ^ i % 2 = 1

/-- ⌈a / b⌉. -/
def ceilDiv (a b : Nat) : Nat := (a + b - 1) / b

/-- A signed field of `n` bits. -/
def sext (n v : Nat) : Int := if v % 2 ^ n < 2 ^ (n - 1) then (v % 2 ^ n : Nat) else (v % 2 ^ n : Nat) - (2 ^ n : Nat)

/-- The two's complement image of an integer. -/
def ofInt (w : Nat) (v : Int) : BitVec w := BitVec.ofInt w v

/-- Floor of the base-2 logarithm of a positive number. -/
def log2 (n : Nat) : Nat := Nat.log2 n

/-- Lane `i` of a row; a row has 128. -/
def lane (r : Row) (i : Nat) : Lane := r.getD i 0

/-- The row whose lane `i` is `f i`. -/
def rowOf (f : Nat → Lane) : Row := (List.range 128).map f

/-- The predicate whose lane `i` is `f i`. -/
def predOf (f : Nat → Bool) : Pred :=
  BitVec.ofNat 128 ((List.range 128).foldr (fun i n => (if f i then 1 else 0) + 2 * n) 0)

/-- Whether lane `i` of a predicate is 1. -/
def laneOn (p : Pred) (i : Nat) : Bool := bitAt p i

/-- The predicate with every lane 1 (04 R66). -/
def ones : Pred := BitVec.allOnes 128

/-- Old lanes where the mask is 0, new ones where it is 1. -/
def blend (mask : Pred) (old new : Row) : Row := rowOf fun i => if laneOn mask i then lane new i else lane old i

/-- The sum of a list of numbers. -/
def total (l : List Nat) : Nat := l.foldl (· + ·) 0

/-- Clz(A, w): the zeros above the highest one of the low w bits. -/
def clzOf (w a : Nat) : Nat := if a = 0 then w else w - 1 - log2 a

/-- PopCount of the low `w` bits. -/
def popcount (w a : Nat) : Nat := total ((List.range w).map fun i => a / 2 ^ i % 2)

/-- The least number of a list, or a default. -/
def leastOr (d : Nat) (l : List Nat) : Nat :=
  match l with
  | [] => d
  | x :: rest => rest.foldl min x

/-- The pieces of `n` elements of a list, with fuel for the number of pieces. -/
def chunk {α : Type} (n : Nat) (fuel : Nat) (l : List α) : List (List α) :=
  match fuel with
  | 0 => []
  | k + 1 => if l.isEmpty then [] else l.take n :: chunk n k (l.drop n)

/-- Insert by a key, after the entries of the same key. -/
def insertBy {α : Type} (key : α → Nat) (x : α) (l : List α) : List α :=
  match l with
  | [] => [x]
  | y :: rest => if key y ≤ key x then y :: insertBy key x rest else x :: y :: rest

/-- Sort by a key, keeping the order of equal keys. -/
def sortBy {α : Type} (key : α → Nat) (l : List α) : List α := l.foldl (fun acc x => insertBy key x acc) []

/-- The first of each run of equal values of a list, values kept in order of first appearance. -/
def nubNat (l : List Nat) : List Nat := l.foldl (fun acc x => if acc.contains x then acc else acc ++ [x]) []

end Sys2Proof.Machine
end

