-- ==== Sys2Proof/Machine/Float.lean ====
section
/-!
DEFINITION. Element formats and their arithmetic (05): exact values, rounding, conversion, and the functions of 06 R128.
-/

namespace Sys2Proof.Machine

/-- The exact value of an element: a NaN with its sign and its fraction left-aligned to 23 bits, the canonical NaN of an
invalid operation, an infinity, or (-1)^neg × m × 2^e. -/
inductive Num where
  | nan (neg : Bool) (frac : Nat)
  | invalid
  | inf (neg : Bool)
  | fin (neg : Bool) (m : Nat) (e : Int)
  deriving DecidableEq, Repr

/-- The modes under which a result is formed (05 R97, R100 to R102). -/
structure Modes where
  rnd : Nat
  flush : Bool
  canon : Bool
  fp8rtz : Bool
  deriving DecidableEq, Repr

/-! ### Formats (05 R90, R94, R95) -/

/-- Bits of an element. -/
def elemBits (f : Nat) : Nat :=
  match f with
  | 0 | 1 | 4 | 5 => 8
  | 2 | 6 | 7 => 16
  | 9 => 2
  | _ => 32

def isFloatFmt (f : Nat) : Bool := 4 ≤ f && f ≤ 8
def isIntFmt (f : Nat) : Bool := f ≤ 3 || f = 10
def isSignedFmt (f : Nat) : Bool := f = 0 || f = 2 || f = 3

/-- Fraction width m. -/
def fracBits (f : Nat) : Nat :=
  match f with
  | 4 => 3
  | 5 => 2
  | 6 => 7
  | 7 => 10
  | _ => 23

/-- Exponent bias. -/
def expBias (f : Nat) : Nat :=
  match f with
  | 4 => 7
  | 5 | 7 => 15
  | _ => 127

/-- Exponent field of all ones. -/
def expTop (f : Nat) : Nat := 2 ^ (elemBits f - 1 - fracBits f) - 1

/-- emin of R94. -/
def expMin (f : Nat) : Int := 1 - (expBias f : Int)

/-- The largest finite magnitude's encoding. -/
def maxFinite (f : Nat) : Nat :=
  match f with
  | 4 => 0x7E
  | 5 => 0x7B
  | 6 => 0x7F7F
  | 7 => 0x7BFF
  | _ => 0x7F7FFFFF

/-- The canonical NaN. -/
def canonNan (f : Nat) : Nat :=
  match f with
  | 4 => 0x7F
  | 5 => 0x7E
  | 6 => 0x7FC0
  | 7 => 0x7E00
  | _ => 0x7FC00000

/-- The sign bit in place. -/
def signBit (f : Nat) (neg : Bool) : Nat := if neg then 2 ^ (elemBits f - 1) else 0

/-- Extend an element to a lane (05 R91). -/
def extend (f : Nat) (v : Nat) : Lane :=
  let w := elemBits f
  if isSignedFmt f then BitVec.ofInt 32 (sext w v) else BitVec.ofNat 32 (v % 2 ^ w)

/-- An element of a lane (05 R91). -/
def elemOf (f : Nat) (l : Lane) : Nat := l.toNat % 2 ^ elemBits f

/-- The integer that an element of an integer format holds. -/
def intOf (f : Nat) (v : Nat) : Int := if isSignedFmt f then sext (elemBits f) v else (v % 2 ^ elemBits f : Nat)

/-- An integer as an exact value. -/
def ofInteger (v : Int) : Num := .fin (v < 0) v.natAbs 0

/-- The integer -1, 0 or +1 of a trit; poison is tested before (05 R92). -/
def tritInt (v : Nat) : Int := if v % 4 = 1 then 1 else if v % 4 = 3 then -1 else 0

def tritOf (v : Int) : Nat := if v = 1 then 1 else if v = -1 then 3 else 0

/-- Value(x, f) of a floating format, after Flush() (05 R94, R95, R100). -/
def floatValue (f : Nat) (flush : Bool) (v : Nat) : Num :=
  let m := fracBits f
  let neg := v / 2 ^ (elemBits f - 1) % 2 = 1
  let ex := v / 2 ^ m % (expTop f + 1)
  let fr := v % 2 ^ m
  if ex = 0 then (if flush then .fin neg 0 0 else .fin neg fr (expMin f - m))
  else if ex = expTop f && f = 4 && fr = 7 then .nan neg (fr * 2 ^ (23 - m))
  else if ex = expTop f && f ≠ 4 then (if fr = 0 then .inf neg else .nan neg (fr * 2 ^ (23 - m)))
  else .fin neg (2 ^ m + fr) ((ex : Int) - expBias f - m)

/-- Value(x, f) of any format (05 R104). -/
def valueOf (f : Nat) (flush : Bool) (v : Nat) : Num :=
  if isFloatFmt f then floatValue f flush (v % 2 ^ elemBits f)
  else if f = 9 then ofInteger (tritInt v)
  else ofInteger (intOf f v)

/-! ### Rounding (05 R99 to R102) -/

/-- The rounding mode for a result format (05 R102). -/
def Modes.forFmt (r : Modes) (f : Nat) : Nat := if r.fp8rtz && (f = 4 || f = 5) then 1 else r.rnd

/-- RoundInt of m / 2^k with the sign given. -/
def roundShift (mode : Nat) (neg : Bool) (m k : Nat) : Nat :=
  let q := m / 2 ^ k
  let rem := m % 2 ^ k
  let up :=
    match mode with
    | 0 => 2 ^ k < 2 * rem || (2 * rem = 2 ^ k && q % 2 = 1)
    | 1 => false
    | 2 => !neg
    | _ => neg
  if rem = 0 then q else if up then q + 1 else q

/-- RoundInt of m × 2^k. -/
def roundScaled (mode : Nat) (neg : Bool) (m : Nat) (k : Int) : Nat :=
  if 0 ≤ k then m * 2 ^ k.toNat else roundShift mode neg m (-k).toNat

/-- Whether a × 2^i < b × 2^j. -/
def scaledLt (a : Nat) (i : Int) (b : Nat) (j : Int) : Bool :=
  if i ≤ j then a < b * 2 ^ (j - i).toNat else a * 2 ^ (i - j).toNat < b

/-- Overflow(s, mode, sat, fmt) (05 R101). -/
def overflow (r : Modes) (f : Nat) (neg sat : Bool) : Nat :=
  let mode := r.forFmt f
  if !sat && (mode = 0 || (mode = 2 && !neg) || (mode = 3 && neg)) then
    if f = 4 then (if r.canon then canonNan 4 else 0x7F + signBit 4 neg)
    else expTop f * 2 ^ fracBits f + signBit f neg
  else maxFinite f + signBit f neg

/-- The encoding of y × 2^q, which the format holds exactly. -/
def encodeExact (f : Nat) (neg : Bool) (y : Nat) (q : Int) : Nat :=
  let m := fracBits f
  let top := (log2 y : Int) + q
  if top < expMin f then signBit f neg + (if 0 ≤ q - (expMin f - m) then y * 2 ^ (q - (expMin f - m)).toNat else 0)
  else
    let sig := if 0 ≤ q - (top - m) then y * 2 ^ (q - (top - m)).toNat else y / 2 ^ ((top - m) - q).toNat
    signBit f neg + ((top + expBias f).toNat * 2 ^ m + (sig - 2 ^ m))

/-- RoundToFormat of (-1)^neg × m × 2^e (05 R99). -/
def roundToFormat (r : Modes) (f : Nat) (sat neg : Bool) (m : Nat) (e : Int) : Nat :=
  let mode := r.forFmt f
  let p := fracBits f + 1
  if m = 0 then signBit f neg
  else
    let top := (log2 m : Int) + e
    let q := max top (expMin f) - (p : Int) + 1
    let y := roundScaled mode neg m (e - q)
    let q2 := top - (p : Int) + 1
    let y2 := roundScaled mode neg m (e - q2)
    if r.flush && scaledLt y2 q2 1 (expMin f) then signBit f neg
    else if y = 0 then signBit f neg
    else
      match floatValue f false (maxFinite f) with
      | .fin _ mm me => if scaledLt mm me y q then overflow r f neg sat else encodeExact f neg y q
      | _ => 0

/-- A NaN result (05 R96). -/
def nanBits (r : Modes) (f : Nat) (neg : Bool) (frac : Nat) : Nat :=
  if r.canon then canonNan f
  else if f = 4 then 0x7F + signBit 4 neg
  else
    let m := fracBits f
    let fr := frac / 2 ^ (23 - m)
    let quiet := if fr / 2 ^ (m - 1) % 2 = 1 then fr else fr + 2 ^ (m - 1)
    expTop f * 2 ^ m + quiet + signBit f neg

/-- A floating result in format `f`, saturating or not (05 R99, R101). -/
def toFloat (r : Modes) (f : Nat) (sat : Bool) (v : Num) : Nat :=
  match v with
  | .nan neg frac => nanBits r f neg frac
  | .invalid => canonNan f
  | .inf neg =>
    if sat then maxFinite f + signBit f neg
    else if f = 4 then (if r.canon then canonNan 4 else 0x7F + signBit 4 neg)
    else expTop f * 2 ^ fracBits f + signBit f neg
  | .fin neg m e => roundToFormat r f sat neg m e

/-- RoundInt(v, mode) of a finite value. -/
def roundInt (mode : Nat) (neg : Bool) (m : Nat) (e : Int) : Int :=
  let n := roundScaled mode neg m e
  if neg then -(n : Int) else n

/-- The least and the greatest integer of an integer format. -/
def intMin (f : Nat) : Int := if isSignedFmt f then -((2 ^ (elemBits f - 1) : Nat) : Int) else 0
def intMax (f : Nat) : Int := if isSignedFmt f then ((2 ^ (elemBits f - 1) : Nat) : Int) - 1 else ((2 ^ elemBits f : Nat) : Int) - 1

/-- Clamp an integer. -/
def clamp (lo hi v : Int) : Int := max lo (min hi v)

/-- An integer reduced to an element. -/
def wrapInt (f : Nat) (v : Int) : Nat := (v % ((2 ^ elemBits f : Nat) : Int)).toNat

/-- VCVT's result element (05 R104). -/
def convert (r : Modes) (d : Nat) (sat : Bool) (v : Num) : Nat :=
  if isFloatFmt d then toFloat r d sat v
  else if d = 9 then
    match v with
    | .nan _ _ | .invalid => 0
    | .inf neg => if neg then 3 else 1
    | .fin neg m e => tritOf (clamp (-1) 1 (roundInt r.rnd neg m e))
  else
    match v with
    | .nan _ _ | .invalid => 0
    | .inf neg => if sat then wrapInt d (if neg then intMin d else intMax d) else 0
    | .fin neg m e =>
      let n := roundInt r.rnd neg m e
      wrapInt d (if sat then clamp (intMin d) (intMax d) n else n)

/-! ### Exact arithmetic -/

def Num.isNan : Num → Bool
  | .nan _ _ | .invalid => true
  | _ => false

def Num.negate : Num → Num
  | .nan n f => .nan n f
  | .invalid => .invalid
  | .inf n => .inf (!n)
  | .fin n m e => .fin (!n) m e

/-- The first NaN of a list of operands (05 R96). -/
def firstNan (l : List Num) : Option Num := l.find? Num.isNan

/-- m × 2^e as an integer in units of 2^lo. -/
def inUnits (neg : Bool) (m : Nat) (e lo : Int) : Int :=
  let v : Int := m * 2 ^ (e - lo).toNat
  if neg then -v else v

/-- The exact sum, under the rounding mode that decides a zero's sign (05 R99). -/
def addNum (mode : Nat) (a b : Num) : Num :=
  match firstNan [a, b] with
  | some n => n
  | none =>
    match a, b with
    | .inf x, .inf y => if x = y then .inf x else .invalid
    | .inf x, _ => .inf x
    | _, .inf y => .inf y
    | .fin x m e, .fin y n g =>
      let lo := min e g
      let v := inUnits x m e lo + inUnits y n g lo
      if v = 0 then .fin (if x = y then x else mode = 3) 0 0 else .fin (v < 0) v.natAbs lo
    | _, _ => .invalid

/-- The exact product. -/
def mulNum (a b : Num) : Num :=
  match firstNan [a, b] with
  | some n => n
  | none =>
    match a, b with
    | .inf x, .inf y => .inf (x != y)
    | .inf x, .fin y n _ => if n = 0 then .invalid else .inf (x != y)
    | .fin x m _, .inf y => if m = 0 then .invalid else .inf (x != y)
    | .fin x m e, .fin y n g => .fin (x != y) (m * n) (if m * n = 0 then 0 else e + g)
    | _, _ => .invalid

/-- The exact a × b + c.  A NaN operand comes first, in the order a, b, c, and 0 × ∞ is invalid beside an addend that is none (05 R96,
06 R125; log 136). -/
def fmaNum (mode : Nat) (a b c : Num) : Num :=
  match firstNan [a, b, c] with
  | some n => n
  | none =>
    match mulNum a b with
    | .invalid => .invalid
    | p => addNum mode p c

/-- a < b by value. -/
def ltNum (a b : Num) : Bool :=
  match a, b with
  | .inf x, .inf y => x && !y
  | .inf x, .fin _ _ _ => x
  | .fin _ _ _, .inf y => !y
  | .fin x m e, .fin y n g =>
    let lo := min e g
    inUnits x m e lo < inUnits y n g lo
  | _, _ => false

/-- a = b by value. -/
def eqNum (a b : Num) : Bool := !a.isNan && !b.isNan && !ltNum a b && !ltNum b a

/-- The smaller value, with -0 < +0 and a NaN operand first (06 R124). -/
def minNum (a b : Num) : Num :=
  match firstNan [a, b] with
  | some n => n
  | none =>
    if ltNum a b then a else if ltNum b a then b
    else match a with
      | .fin true _ _ => a
      | _ => b

/-- The larger value. -/
def maxNum (a b : Num) : Num :=
  match firstNan [a, b] with
  | some n => n
  | none =>
    if ltNum a b then b else if ltNum b a then a
    else match a with
      | .fin true _ _ => b
      | _ => a

/-! ### VRCP, VRSQ, VEXP2, VLOG2 (06 R128)

A result that is no dyadic number is given with a sticky bit below more bits than any format keeps, so that rounding it
rounds the exact value. -/

/-- Floor of a square root, one bit at a time. -/
def isqrt (n : Nat) : Nat → Nat → Nat
  | 0, r => r
  | k + 1, r => isqrt n k (if (r + 2 ^ k) * (r + 2 ^ k) ≤ n then r + 2 ^ k else r)

/-- A quotient with a sticky bit: floor(a / b) with one more bit that says whether it was exact. -/
def stickyDiv (a b : Nat) : Nat := 2 * (a / b) + (if a % b = 0 then 0 else 1)

/-- 1 / A. -/
def rcpNum (a : Num) : Num :=
  match a with
  | .inf neg => .fin neg 0 0
  | .fin neg m e => if m = 0 then .inf neg else .fin neg (stickyDiv (2 ^ 128) m) (-e - 129)
  | n => n

/-- 1 / √A. -/
def rsqNum (a : Num) : Num :=
  match a with
  | .inf neg => if neg then .invalid else .fin false 0 0
  | .fin neg m e =>
    if m = 0 then .inf neg
    else if neg then .invalid
    else
      let m2 := if e % 2 = 0 then m else 2 * m
      let e2 := if e % 2 = 0 then e else e - 1
      let s := isqrt (2 ^ 256 / m2) 130 0
      .fin false (2 * s + (if s * s * m2 = 2 ^ 256 then 0 else 1)) (-128 - e2 / 2 - 1)
  | n => n

/-- Fixed-point bits behind the point in VEXP2. -/
def expPrec : Nat := 256

/-- The product of 2^(2^-i) over the set bits of a fraction of `n` bits, highest first. -/
def expFrac (f root acc : Nat) : Nat → Nat
  | 0 => acc
  | n + 1 =>
    if f = 0 then acc
    else
      let set := 2 ^ n ≤ f
      expFrac (if set then f - 2 ^ n else f) (isqrt (root * 2 ^ expPrec) (expPrec + 1) 0)
        (if set then acc * root / 2 ^ expPrec else acc) n

/-- 2^A. -/
def exp2Num (a : Num) : Num :=
  match a with
  | .inf neg => if neg then .fin false 0 0 else .inf false
  | .fin neg m e =>
    if m = 0 then .fin false 1 0
    else if 8 ≤ (log2 m : Int) + e then .fin false 1 (if neg then -100000 else 100000)
    else
      let v := inUnits neg m (max e (-160)) (-160)
      let n := v / ((2 ^ 160 : Nat) : Int)
      let f := (v % ((2 ^ 160 : Nat) : Int)).toNat
      if f = 0 then .fin false 1 n
      else
        let acc := expFrac f (isqrt (2 * 2 ^ (2 * expPrec)) (expPrec + 1) 0) (2 ^ expPrec) 160
        .fin false (2 * acc + 1) (n - expPrec - 1)
  | n => n

/-- Fixed-point bits behind the point in VLOG2's squarings. -/
def logPrec : Nat := 400

/-- `n` binary digits of log₂ of y / 2^logPrec, which lies in [1, 2). -/
def logDigits (y acc : Nat) : Nat → Nat
  | 0 => acc
  | n + 1 =>
    let z := y * y / 2 ^ logPrec
    if 2 ^ (logPrec + 1) ≤ z then logDigits (z / 2) (2 * acc + 1) n else logDigits z (2 * acc) n

/-- log₂ A. -/
def log2Num (a : Num) : Num :=
  match a with
  | .inf neg => if neg then .invalid else .inf false
  | .fin neg m e =>
    if m = 0 then .inf true
    else if neg then .invalid
    else
      let i : Int := (log2 m : Int) + e
      let y := m * 2 ^ (logPrec - log2 m)
      if y = 2 ^ logPrec then ofInteger i
      else
        let t := 2 * (i * ((2 ^ 160 : Nat) : Int) + (logDigits y 0 160 : Nat)) + 1
        .fin (t < 0) t.natAbs (-161)
  | n => n

/-- The rounding of a value to an integer in its own format (05 R105). -/
def rintNum (mode : Nat) (a : Num) : Num :=
  match a with
  | .fin neg m e => .fin neg (roundScaled mode neg m e) 0
  | n => n

end Sys2Proof.Machine
end

