-- ==== Sys2Proof/Machine/Ops.lean ====
section
/-!
DEFINITION. The named operations over the state: access to tasks, cores and registers; what a slot issues; physical
memory, the digest and translation; taking a trap and returning from one.
-/

namespace Sys2Proof.Machine

/-- What every meaning answers. -/
abbrev Out := Host.Outcome State Fault Refusal

/-! ### A device that is up -/

/-- Whether the device has booted and has not failed (24 R351, 17 R311). -/
def State.alive (s : State) : Bool := s.fw.boot = .booted

/-- What an event does on a device that is up; on any other it does nothing. -/
def State.up (s : State) (f : State → State) : Out := .next (if s.alive then f s else s)

/-- Kiln or the ROM refuses something, and Kiln returns a reason code (24 R350; log 133). -/
def State.refuse (s : State) : State :=
  { s with fw := { s.fw with refused := s.fw.refused + 1, reason := some (Config.reasonCode s.fw.refused) } }

/-! ### Tasks, cores, registers -/

def State.task (s : State) (t : Nat) : Task := get s.tasks Task.start t

def State.setTask (s : State) (t : Nat) (f : Task → Task) : State := { s with tasks := upd s.tasks Task.start t f }

def Task.core (k : Task) (c : Nat) : Core := get k.cores Core.start c

def Task.setCore (k : Task) (c : Nat) (f : Core → Core) : Task := { k with cores := upd k.cores Core.start c f }

def State.core (s : State) (t c : Nat) : Core := (s.task t).core c

def State.setCore (s : State) (t c : Nat) (f : Core → Core) : State := s.setTask t (·.setCore c f)

/-- The task, the core and the domain cycle of the slot being run. -/
def State.myTask (s : State) : Task := s.task s.cur.task
def State.me (s : State) : Core := s.core s.cur.task s.cur.core
def State.dc (s : State) : Nat := s.myTask.dc

/-- Cores bound to a task: eight for each quire, the unit of placement (03 R42, R44). -/
def Task.coreCount (k : Task) : Nat := 8 * k.quires.length

/-- The physical core at a relative core number (03 R44): the position of its quire, whoever holds it (03 R43). -/
def Task.physCore (k : Task) (c : Nat) : Nat := 8 * k.quires.getD (c / 8) 0 + c % 8

/-- A scalar register; s0 reads zero (04 R66). -/
def Core.reg (k : Core) (n : Nat) : Word := if n = 0 then 0 else get k.s 0 n

/-- A scalar register written; a write to s0 is discarded (04 R66). -/
def Core.setReg (k : Core) (n : Nat) (v : Word) : Core := if n = 0 then k else { k with s := put k.s n v }

/-- A predicate; p0 reads all ones (04 R66). -/
def Core.pred (k : Core) (n : Nat) : Pred := if n = 0 then ones else get k.p 0 n

/-- A predicate written in the lanes of a mask; p0 is written by nothing (04 R66). -/
def Core.setPred (k : Core) (n : Nat) (mask v : Pred) : Core :=
  if n = 0 then k else { k with p := put k.p n ((k.pred n &&& ~~~mask) ||| (v &&& mask)) }

def Core.base (k : Core) (n : Nat) : BitVec 32 := get k.b 0 n
def Core.cursor (k : Core) (n : Nat) : Cursor := get k.c Cursor.start n
def Core.walker (k : Core) (n : Nat) : Walker := get k.w Walker.start n
def Core.head (k : Core) (n : Nat) : Head := get k.h Head.start n
def Core.engine (k : Core) (e : Nat) : Engine := get k.engines Engine.start e
def Core.leafEntry (k : Core) (n : Nat) : LeafEntry := get k.leaf LeafEntry.start n

/-- Row `row` of a tile (06 R112). -/
def Core.tileRow (k : Core) (tile row : Nat) : Row := get k.tiles Row.zero (16 * tile + row)
def Core.setTileRow (k : Core) (tile row : Nat) (r : Row) : Core := { k with tiles := put k.tiles (16 * tile + row) r }

/-- Whether a tile is allocated (04 R69). -/
def Core.allocated (k : Core) (tile : Nat) : Bool := bitAt k.tallocmap tile

/-- A fresh number for a pending item. -/
def State.fresh (s : State) : Nat × State := (s.nextId, { s with nextId := s.nextId + 1 })

/-- A fresh length or order that the spec leaves open (log 2). -/
def State.free (s : State) : Nat × State := (Config.freeNat s.freeCount, { s with freeCount := s.freeCount + 1 })

/-! ### What a slot issues -/

/-- The slot being run owes an effect `delta` domain cycles after its issue. -/
def State.issue (s : State) (delta : Nat) (e : Eff) : State :=
  { s with
    issued := s.issued ++ [⟨s.nextId, s.cur.core, s.me.pc, s.cur.slot, s.dc + delta, e⟩]
    nextId := s.nextId + 1 }

/-- The slot being run writes a scalar register `lat` domain cycles after its issue (03 R62). -/
def State.writeScalar (s : State) (lat : Nat) (d : BitVec 5) (v : Word) : State :=
  if d = 0 then s else s.issue lat (.scalar d.toNat v)

/-- A trap of a core and slot, with a record that names nothing else. -/
def Trap.plain (core pc slot cause sub : Nat) : Trap :=
  ⟨core, slot, BitVec.ofNat 4 (2 ^ slot), cause, sub, pc, 0xF, 0, 0, 0, 0, 0, 0, 0⟩

/-- The slot being run raises a trap at issue. -/
def State.trap (s : State) (cause sub : Nat) (f : Trap → Trap := id) : State :=
  { s with traps := s.traps ++ [f (Trap.plain s.cur.core s.me.pc s.cur.slot cause sub)] }

/-- A trap raised at the perform of something that a task issued earlier (17 R306). -/
def State.trapAt (s : State) (t core pc slot engine cause sub : Nat) (f : Trap → Trap := id) : State :=
  s.setTask t fun k => { k with raised := k.raised ++ [f { Trap.plain core pc slot cause sub with engine := engine }] }

/-! ### The determinism record (17 R312, R313) -/

/-- Search the entries from `i` for one of this code; else the lowest empty one. -/
def Core.detcSlot (k : Core) (code : Nat) : Option Nat :=
  match (List.range 16).find? fun i => bits (get k.detc 0 i) 0 8 = code with
  | some i => some i
  | none => (List.range 16).find? fun i => bits (get k.detc 0 i) 0 8 = 0

/-- Add `n` events of a code: the first keeps its PC, the count saturates. -/
def Core.record (k : Core) (code pc : Nat) (n : Nat := 1) : Core :=
  match k.detcSlot code with
  | none => k
  | some i =>
    let e := get k.detc 0 i
    let fresh := bits e 0 8 = 0
    let count := min 0xFFFFFF ((if fresh then 0 else bits e 8 24) + n)
    let at' := if fresh then pc % 2 ^ 32 else bits e 32 32
    { k with detc := put k.detc i (BitVec.ofNat 64 (at' * 2 ^ 32 + count * 2 ^ 8 + code % 256)) }

def State.recordEvent (s : State) (t c code pc : Nat) : State := s.setCore t c (·.record code pc)

/-! ### Physical memory (15 R271, 10 R200) -/

/-- Capacity of one sub-channel, C of 10 R200.  The fitted size counts whole GiB, a granularity that R2 and R200 leave open
(log 89). -/
def State.subChannel (s : State) : Nat := s.fw.fittedGiB * 2 ^ 30 / 80 / 2 ^ 21 * 2 ^ 21

def fastTop : Nat := 2 ^ 39
def capacityBase : Nat := 0x10000000000

/-- The dump region: the top 4 GiB of the capacity tier's addressed range, which Kiln reserves (00 R2). -/
def State.dumpBase (s : State) : Nat := capacityBase + 80 * s.subChannel - 2 ^ 32

/-- The channel of a physical address: 0 to 511 fast, 512 to 591 capacity (10 R200, 16 R287); none where reserved. -/
def State.channel (s : State) (pa : Nat) : Option Nat :=
  if pa < fastTop then some (pa / 2 ^ 30)
  else if capacityBase ≤ pa && pa < capacityBase + 80 * s.subChannel then
    some (512 + (pa - capacityBase) / s.subChannel)
  else none

/-- The offset of a physical address within its channel (10 R200). -/
def State.channelOffset (s : State) (pa : Nat) : Nat :=
  if pa < fastTop then pa % 2 ^ 30 else (pa - capacityBase) % s.subChannel

/-- Bank and row of an offset (10 R200). -/
def bankOf (off : Nat) : Nat := off / 2 ^ 10 % 16
def rowNumber (off : Nat) : Nat := off / 2 ^ 14

/-- The group whose controller keeps a channel's poison table: a stack, or a capacity-tier group (08 R168). -/
def stackOf (ch : Nat) : Nat := if ch < 512 then ch / 64 else 8 + (ch - 512) / 20

/-! ### Refresh stamps (10 R206) -/

/-- Real time in µs. -/
def State.micros (s : State) : Nat := s.gcyc / 2400

/-- tREFW of a channel in µs (10 R206). -/
def State.refreshWindowOf (s : State) (ch : Nat) : Nat := if s.dram.hotRange.contains (stackOf ch) then 16000 else 32000

def stampKey (ch bank group : Nat) : Nat := (16 * ch + bank) * 2 ^ 20 + group

/-- A row group of a bank is activated or refreshed. -/
def State.stamp (s : State) (ch bank group : Nat) : State :=
  { s with dram := { s.dram with stamps := put s.dram.stamps (stampKey ch bank group) s.micros } }

/-- The row of a line of main memory is activated. -/
def State.stampLine (s : State) (line : Nat) : State :=
  match s.channel (64 * line) with
  | some ch => s.stamp ch (bankOf (s.channelOffset (64 * line))) (rowNumber (s.channelOffset (64 * line)) / 16)
  | none => s

/-- Rows activated for lines that open slots serve. -/
def State.activate (s : State) (lines : List Nat) : State := lines.foldl State.stampLine s

/-- Whether a byte of memory is lost: poisoned, under the poison code word, or in a line that fails (08 R168, 10 R199). -/
def State.lostByte (s : State) (pa : Nat) : Bool :=
  bitAt (get s.info.poison 0 (pa / 64)) (pa % 64) || s.info.codeWord.contains (pa / 64) ||
    (get s.info.failing 0 (pa / 64) != 0)

/-- Whether any of `n` bytes from an address is lost. -/
def State.lost (s : State) (pa n : Nat) : Bool := (List.range n).any fun i => s.lostByte (pa + i)

/-! ### Retirement of rows (10 R208) -/

/-- 24 hours of the reference clock. -/
def day : Nat := 24 * 3600 * 2400000000

def rowKey (ch bank row : Nat) : Nat := (16 * ch + bank) * 2 ^ 24 + row

/-- The retirement score of a row, an 8-bit number. -/
def Dram.setScore (d : Dram) (key v : Nat) : Dram :=
  { d with scores := if v = 0 then erase d.scores key else put d.scores key (min v 255) }

/-- A row enters its stack's hot list; when the list is full the row with the lowest score leaves it. -/
def Dram.heat (d : Dram) (stack key : Nat) : Dram :=
  if d.hot.contains (stack, key) then d
  else
    let mine := d.hot.filter (·.1 = stack)
    if mine.length < 4096 then { d with hot := d.hot ++ [(stack, key)] }
    else
      let low := mine.foldl (fun (best : Nat × Nat) e => if get d.scores 0 e.2 < get d.scores 0 best.2 then e else best)
        (mine.getD 0 (stack, key))
      { d with hot := (d.hot.filter (· ≠ low)) ++ [(stack, key)] }

/-- A row whose score has reached 128 is copied to a spare row of its bank, switched by a µs where no task owns the channel, or its
channel is retired at the next launch that binds it. -/
def Dram.retire (d : Dram) (ch bank key until' : Nat) : Dram :=
  let b := 16 * ch + bank
  if get d.scores 0 key < 128 || (find? d.copying key).isSome then d
  else if get d.sparesUsed 0 b < 32 then
    { d with copying := put d.copying key until', sparesUsed := put d.sparesUsed b (get d.sparesUsed 0 b + 1) }
  else { d with retireChannels := if d.retireChannels.contains ch then d.retireChannels else d.retireChannels ++ [ch] }

/-- An uncorrectable error of a line counts in the score of its row.  When a row's copy to a spare will be switched is left open
(log 2). -/
def State.lineError (s : State) (line : Nat) : State :=
  match s.channel (64 * line) with
  | none => s
  | some ch =>
    let off := s.channelOffset (64 * line)
    let key := rowKey ch (bankOf off) (rowNumber off)
    let (m, s1) := s.free
    { s1 with
      dram := (s1.dram.setScore key (get s.dram.scores 0 key + 64)).retire ch (bankOf off) key
        (s.micros + m % s.refreshWindowOf ch) }

/-- An uncorrectable read of lines has happened: their rows' scores count it, and an error that does not last is gone (10 R208; 18, the
worked run of R326; log 38). -/
def State.spend (s : State) (lines : List Nat) : State :=
  let s1 := (lines.eraseDups.filter fun l => get s.info.failing 0 l != 0).foldl State.lineError s
  { s1 with info := { s1.info with failing := s1.info.failing.filter fun e => !(lines.contains e.1 && e.2 = 1) } }

/-- Marks of a line after bytes `lo` to `lo + n - 1` of it are written (08 R168). -/
def MemInfo.covered (m : MemInfo) (line lo n : Nat) : MemInfo :=
  let mask := get m.poison 0 line
  let left : BitVec 64 := mask &&& ~~~BitVec.ofNat 64 ((2 ^ n - 1) * 2 ^ lo)
  let whole := n = 64
  { m with
    poison := if mask = 0 then m.poison else if left = 0 then erase m.poison line else put m.poison line left
    codeWord := if whole then m.codeWord.filter (· ≠ line) else m.codeWord
    failing := if whole then erase m.failing line else m.failing
    stlBytes := if m.stlBytes.isEmpty then [] else (List.range n).foldl (fun b i => erase b (64 * line + lo + i)) m.stlBytes }

/-- Bytes of a line marked poisoned; with the group's table full, the line takes the poison code word (08 R168). -/
def State.markPoison (s : State) (pa : Nat) (mask : BitVec 64) : State :=
  let line := pa / 64
  let group (l : Nat) : Nat := ((s.channel (64 * l)).map stackOf).getD 0
  let info := s.info
  if (find? info.poison line).isSome || (info.poison.filter fun e => group e.1 = group line).length < 4096 then
    { s with info := { info with poison := put info.poison line (get info.poison 0 line ||| mask), failing := erase info.failing line } }
  else { s with info := { info with codeWord := info.codeWord ++ [line], failing := erase info.failing line } }

/-- Whether the whole line of an address cannot be read (10 R199). -/
def State.lineFails (s : State) (pa : Nat) : Bool :=
  s.info.codeWord.contains (pa / 64) || get s.info.failing 0 (pa / 64) != 0

/-- Bytes of one line written to memory, their poison marks cleared. -/
def State.writePhys (s : State) (pa : Nat) (data : List Byte) : State :=
  { s with mem := Memory.setBytes s.mem pa data, info := s.info.covered (pa / 64) (pa % 64) data.length }

/-! ### The digest (17 R316, R317) -/

/-- CLMul, over the low `n` bits of `y`. -/
def clmul (x y : Nat) : Nat → Nat
  | 0 => 0
  | n + 1 => Nat.xor (clmul x y n) (if y / 2 ^ n % 2 = 1 then x * 2 ^ n else 0)

/-- Red, with fuel for the bits above 63, highest first. -/
def reduce64 (z : Nat) : Nat → Nat
  | 0 => z
  | n + 1 => reduce64 (if z / 2 ^ (64 + n) % 2 = 1 then Nat.xor z ((2 ^ 64 + 27) * 2 ^ n) else z) n

/-- Red(CLMul(x, K)). -/
def hashMix (x : Nat) : Nat := reduce64 (clmul x 0xB4E10D276A93F5C9 64) 63

/-- H(a, w): the digest hash of a line by its virtual address and bytes. -/
def hashLine (va : Nat) (line : List Byte) : Nat :=
  let h0 := hashMix (Nat.xor (va / 64 % 2 ^ 51) 0x5D3A9E61C0F42B87)
  let h := (List.range 8).foldl (fun h i => hashMix (Nat.xor h (leNat ((line.drop (8 * i)).take 8)))) h0
  Nat.xor h (h / 2 ^ 32)

/-- Add a term to a core's digest at the end of this global cycle (04 R86). -/
def Core.addDigest (k : Core) (v : Word) : Core := { k with dgstNext := k.dgstNext + v }

/-- A line of memory is written by someone: loads of other threads that a rollback may issue again remember it (15 R280). -/
def State.touch (s : State) (line : Nat) (by' : Option (Nat × Nat)) : State :=
  let hit (t : Nat) (m : LoadMark) : LoadMark :=
    if m.line = line && decide (by' ≠ some (t, m.core)) then { m with hit := true } else m
  { s with tasks := mapVals s.tasks fun t k => { k with loadMarks := k.loadMarks.map (hit t) } }

/-- Whether two byte ranges share a byte. -/
def rangesMeet (a n b m : Nat) : Bool := a < b + m && b < a + n

/-- Whether the scope of an access includes the thread of a physical core (13 R244). -/
def inScope (scope mine other : Nat) : Bool :=
  match scope with
  | 0 => mine = other
  | 1 => mine / 8 = other / 8
  | _ => true

/-- An atomic that has read its word and not written it reads it again where a thread in its scope has written the word since: no
such write falls between its read and its write (13 R255). -/
def State.reread (s : State) (writer pa n : Nat) : State :=
  let again (a : QAcc) : QAcc :=
    match a.old, a.target with
    | some (_, g), .memory p _ =>
      if inScope a.scope a.pcore writer && rangesMeet p a.size pa n then
        { a with old := some (BitVec.ofNat 64 (leNat (Memory.bytes s.mem p a.size)), g) } else a
    | _, _ => a
  { s with queue := s.queue.map again }

/-- Write bytes that lie in one line at `pa`, whose virtual address is `va`; core `c` of task `t` takes the digest term
H(after) - H(before). -/
def State.writeLine (s : State) (t c va pa : Nat) (data : List Byte) : State :=
  let base := pa / 64 * 64
  let before := Memory.bytes s.mem base 64
  let s' := ((s.writePhys pa data).touch (pa / 64) (some (t, c))).reread ((s.task t).physCore c) pa data.length
  let after := Memory.bytes s'.mem base 64
  if before = after then s'
  else s'.setCore t c (·.addDigest (BitVec.ofNat 64 (hashLine va after) - BitVec.ofNat 64 (hashLine va before)))

/-! ### Translation (15 R272 to R276) -/

/-- Whether a virtual address lies in the scratchpad window (09 R172). -/
def inWindow (va : Nat) : Bool := va / 2 ^ 32 % 2 ^ 25 = 2 ^ 25 - 1

/-- What a walk finds: a leaf and the physical address, or a fault with the level and the entry read there. -/
inductive Xlat where
  | ok (pa : Nat) (leaf : Word) (size : Nat)
  | page (level : Nat) (entry : Word)
  | entry (level : Nat) (entry : Word)
  deriving DecidableEq, Repr

def leafMigr (e : Word) : Bool := bitAt e 55
def leafCalc (e : Word) : Bool := bitAt e 54
def leafBarrier (e : Word) : Bool := bitAt e 53
def leafTape (e : Word) : Bool := bitAt e 52
def leafFrame (e : Word) : Nat := bits e 12 40 * 2 ^ 12
def leafPinned (e : Word) : Bool := bitAt e 10
def leafClass (e : Word) : Nat := bits e 8 2
def leafHome (e : Word) : Nat := bits e 6 2
def leafContig (e : Word) : Bool := bitAt e 5
def leafX (e : Word) : Bool := bitAt e 4
def leafW (e : Word) : Bool := bitAt e 3
def leafR (e : Word) : Bool := bitAt e 2

/-- Whether a page of `size` bytes at `pa` lies in its home's range, below the dump region, and in one channel (15 R271, 10 R200,
00 R2). -/
def State.frameOk (s : State) (home pa size : Nat) : Bool :=
  match home with
  | 0 => pa + size ≤ fastTop
  | 1 => capacityBase ≤ pa && pa + size ≤ s.dumpBase &&
      s.channel pa == s.channel (pa + size - 1)
  | _ => true

/-- The checks of 15 R274 on a leaf that maps `size` bytes. -/
def State.leafOk (s : State) (level size : Nat) (e : Word) : Bool :=
  let special := leafX e || leafBarrier e || leafCalc e
  bits e 56 8 = 0 && !bitAt e 11 && leafHome e != 3 && 2 ≤ level && (level = 4 || !leafContig e) &&
    leafFrame e % size = 0 && (leafHome e = 2 || s.frameOk (leafHome e) (leafFrame e) size) &&
    !(leafTape e && (special || leafR e || leafW e)) &&
    !(leafBarrier e && (leafX e || leafCalc e || leafClass e != 0)) &&
    !(leafX e && leafW e) && !(leafHome e = 2 && leafClass e != 0)

/-- Whether a byte range touches a page with one of these attributes: 0 barrier, 1 tape, 2 executable. -/
def State.attributed (s : State) (pa len : Nat) (kinds : List Nat) : Bool :=
  s.fw.attrFrames.any fun f => kinds.contains f.2.2 && rangesMeet f.1 f.2.1 pa len

/-- Whether the 16 leaves of a 64 KiB page agree (15 R272). -/
def State.groupOk (s : State) (table i : Nat) : Bool :=
  let first := Memory.word s.mem (table + 8 * (i / 16 * 16))
  leafFrame first % 2 ^ 16 = 0 && (List.range 16).all fun j =>
    Memory.word s.mem (table + 8 * (i / 16 * 16 + j)) = first + BitVec.ofNat 64 (j * 2 ^ 12)

/-- Bits of a virtual address below the page of a leaf at a level. -/
def pageBits (level : Nat) : Nat := 48 - 9 * level

/-- The walk from a table at a level, with fuel for the levels left. -/
def State.walkFrom (s : State) (va table level : Nat) : Nat → Xlat
  | 0 => .page level 0
  | fuel + 1 =>
    let i := va / 2 ^ pageBits level % 512
    let e := Memory.word s.mem (table + 8 * i)
    if !bitAt e 0 then .page level e
    else if bitAt e 1 then
      let contig := level = 4 && leafContig e
      let size := 2 ^ pageBits level
      if !s.leafOk level size e || (contig && !s.groupOk table i) then .entry level e
      else .ok (leafFrame e + va % size) e (if contig then 2 ^ 16 else size)
    else if level = 4 || bits e 52 12 != 0 || bits e 2 10 != 0 then .entry level e
    else s.walkFrom va (leafFrame e) (level + 1) fuel

/-- The walk of a virtual address in a context (15 R272).  No entry maps an address of the scratchpad window (09 R172). -/
def State.walk (s : State) (ctx va : Nat) : Xlat :=
  if inWindow va then .page 0 0 else s.walkFrom (va % 2 ^ 57) (get s.ctxs Context.start ctx).root 0 5

/-- The physical address of the leaf entry that maps an address, with its level, if one does. -/
def State.leafPlace (s : State) (va table level : Nat) : Nat → Option (Nat × Nat)
  | 0 => none
  | fuel + 1 =>
    let a := table + 8 * (va / 2 ^ pageBits level % 512)
    let e := Memory.word s.mem a
    if !bitAt e 0 then none
    else if bitAt e 1 then some (a, level)
    else s.leafPlace va (leafFrame e) (level + 1) fuel

/-- The entry of the pin table that holds an address of a context (15 R277). -/
def State.pinOf (s : State) (ctx va : Nat) : Option PinEntry :=
  s.pins.find? fun p => p.ctx = ctx && p.va ≤ va && va < p.va + p.size

/-- Whether a page of the context holds the address and is pinned (15 R277). -/
def State.pinned (s : State) (ctx va : Nat) : Bool := (s.pinOf ctx va).isSome

/-- The physical address of a byte of the context's space, where a page maps it in local memory: a pinned page's translation comes
from the pin table, any other from a walk (15 R276, R277). -/
def State.physOf (s : State) (ctx va : Nat) : Option Nat :=
  match s.pinOf ctx va with
  | some p => some (leafFrame p.leaf + (va - p.va))
  | none =>
    match s.walk ctx va with
    | .ok pa leaf _ => if leafHome leaf = 2 then none else some pa
    | _ => none

/-! ### The scratchpad (09 R172 to R174) -/

def spadCore (a : Nat) : Nat := a / 2 ^ 22 % 2 ^ 9
def spadOff (a : Nat) : Nat := a % 2 ^ 22
def sliceTop : Nat := 0x280000

/-- Bytes of a slice of the task. -/
def Task.spadBytes (k : Task) (a n : Nat) : List Byte := Memory.bytes (k.core (spadCore a)).slice (spadOff a) n

/-- Bytes written to a slice of the task. -/
def Task.setSpad (k : Task) (a : Nat) (l : List Byte) : Task :=
  k.setCore (spadCore a) fun c => { c with slice := Memory.setBytes c.slice (spadOff a) l }

/-- The number of a slice's line among all lines, main memory's below them (15 R280). -/
def Task.sliceLine (k : Task) (core off : Nat) : Nat := 2 ^ 54 + k.physCore core * 2 ^ 16 + off / 64

/-- Places in one numbering: main memory by physical address, the slices above it, the frames of peers above those (13 R242). -/
def sliceAt (phys off : Nat) : Nat := 2 ^ 60 + phys * 2 ^ 22 + off
def peerAt (chip addr : Nat) : Nat := 2 ^ 62 + chip * 2 ^ 44 + addr

/-- Bytes at places that something else than a release has written: no load of them reads an STL's value (13 R261). -/
def MemInfo.unrelease (m : MemInfo) (at' n : Nat) : MemInfo :=
  if m.stlBytes.isEmpty then m
  else { m with stlBytes := (List.range n).foldl (fun b i => erase b (at' + i)) m.stlBytes }

/-- Scratchpad ranges are written by a core. -/
def State.touchSpad (s : State) (t c : Nat) (ranges : List (Nat × Nat)) : State :=
  let s := { s with info := ranges.foldl (fun m r =>
    m.unrelease (sliceAt ((s.task t).physCore (spadCore r.1)) (spadOff r.1)) r.2) s.info }
  (ranges.flatMap fun r => (List.range ((r.1 % 64 + r.2 + 63) / 64)).map fun i => r.1 / 64 + i).eraseDups.foldl
    (fun (s : State) ln => s.touch ((s.task t).sliceLine (ln / 2 ^ 16) (ln % 2 ^ 16 * 64)) (some (t, c))) s

/-- The sub-reason of the scratchpad trap for the slice that an address names (09 R174, R175). -/
def Task.sliceFault (k : Task) (core a : Nat) : Option Nat :=
  if 2 ^ 31 ≤ a || k.coreCount ≤ spadCore a then some 1
  else if spadCore a / 8 ≠ core / 8 then some 2
  else none

/-- The sub-reason of the scratchpad trap that `n` bytes at `a`, aligned to `al`, would raise for a core (09 R175). -/
def Task.spadFault (k : Task) (core a n al : Nat) : Option Nat :=
  (k.sliceFault core a).or (if sliceTop < spadOff a + n || a % al ≠ 0 then some 3 else none)

/-! ### Memory by virtual address, as a device agent reads and writes it -/

/-- `n` bytes from a virtual address; none where some byte has no page in local memory. -/
def State.readVirt (s : State) (ctx va n : Nat) : Option (List Byte) :=
  (List.range n).mapM fun i => (s.physOf ctx (va + i)).map (Memory.byte s.mem)

/-- The lines of `n` bytes from a virtual address are activated (10 R206). -/
def State.stampVirt (s : State) (ctx va n : Nat) : State :=
  ((List.range ((va % 64 + n + 63) / 64)).filterMap fun i => s.physOf ctx (64 * (va / 64 + i))).foldl
    (fun (s : State) pa => s.stampLine (pa / 64)) s

/-- Bytes written at a virtual address by no core and without a digest term (17 R317); a byte that no page maps is not written. -/
def State.writeVirt (s : State) (ctx va : Nat) (l : List Byte) : State :=
  match l with
  | [] => s
  | b :: rest =>
    let s' := match s.physOf ctx va with
      | some pa => ((s.writePhys pa [b]).touch (pa / 64) none).stampLine (pa / 64)
      | none => s
    s'.writeVirt ctx (va + 1) rest

/-- A 64-bit word at a virtual address. -/
def State.readWord (s : State) (ctx va : Nat) : Option Word := (s.readVirt ctx va 8).map fun l => BitVec.ofNat 64 (leNat l)

def State.writeWord (s : State) (ctx va : Nat) (v : Word) : State := s.writeVirt ctx va (leBytes 8 v.toNat)

/-! ### Fault records (17 R306 to R308) -/

/-- A cursor's image (06 R119). -/
def Cursor.image (c : Cursor) : Nat := c.tile.toNat + c.row.toNat * 2 ^ 8 + c.step.toNat * 2 ^ 12

/-- Word 0 of a record (17 R306). -/
def recordWord0 (k : Task) (tr : Trap) (multi failed resumed service : Bool) : Nat :=
  k.ctx * 2 ^ 51 + k.physCore tr.core * 2 ^ 41 + tr.core * 2 ^ 32 + tr.engine * 2 ^ 28 + multi.toNat * 2 ^ 27 +
    failed.toNat * 2 ^ 26 + resumed.toNat * 2 ^ 25 + service.toNat * 2 ^ 24 + tr.slot * 2 ^ 20 +
    tr.mask.toNat * 2 ^ 16 + tr.sub % 256 * 2 ^ 8 + tr.cause % 256

/-- The sixteen words of a record (17 R306, R307). -/
def recordWords (s : State) (k : Task) (tr : Trap) (multi failed resumed service : Bool) : List Nat :=
  let c := k.core tr.core
  let curs (i : Nat) := total ((List.range 4).map fun j => (c.cursor (i + j)).image * 2 ^ (16 * j))
  let heads (f : Nat → Bool) := total ((List.range 16).map fun i => if f i then 2 ^ i else 0)
  [recordWord0 k tr multi failed resumed service,
   k.kernel % 256 * 2 ^ 48 + k.folio % 2 ^ 16 * 2 ^ 32 + tr.pc % 2 ^ 32,
   k.dc, s.gcyc, tr.addr % 2 ^ 57, k.node % 2 ^ 57, tr.imm.toNat * 2 ^ 4 + tr.kind,
   tr.d7.toNat, tr.d8.toNat, tr.d9.toNat, tr.d10.toNat, 0, 0, curs 0, curs 4,
   heads (fun i => c.mtx.engaged.any fun e => e.isHead && e.n = i) * 2 ^ 16 +
     heads (fun i => (c.head i).status = .opened)]

/-- Whether a write of the command processor at an address takes no fault: the page lies in local memory, may be written, and is
neither tape, barrier nor executable page (17 R308, 15 R278). -/
def State.mayWrite (s : State) (ctx va : Nat) : Bool :=
  match s.walk ctx va with
  | .ok pa leaf _ => leafHome leaf ≠ 2 && leafW leaf && !leafTape leaf && !leafBarrier leaf && !leafMigr leaf && !s.attributed pa 1 [2]
  | _ => false

/-- The command processor queues bytes for a fault record: no sooner than 16 global cycles on, after a time left open (17 R308, 21
R333; log 2). -/
def State.queueRecord (s : State) (t va : Nat) (l : List Byte) : State :=
  let (n, s1) := s.free
  { s1 with recordWrites := s1.recordWrites ++ [⟨t, (s.task t).ctx, va, l, s.gcyc + 16 + n⟩] }

/-- A queued write of a record performs: it feeds no digest, and one that would take a fault writes nothing (17 R308). -/
def State.performRecord (s : State) (r : RecordWrite) : State :=
  if (List.range r.data.length).all fun i => s.mayWrite r.ctx (r.va + i) then s.writeVirt r.ctx r.va r.data else s

/-- The queued writes of records that are due perform, in the order of their issue. -/
def State.recordStage (s : State) : State :=
  let due := s.recordWrites.takeWhile (·.due ≤ s.gcyc)
  due.foldl State.performRecord { s with recordWrites := s.recordWrites.drop due.length }

/-- Write a trap's record to its core's FRPTR, as one queued write, with Floor's copy (17 R308). -/
def State.writeRecord (s : State) (t : Nat) (tr : Trap) (multi failed resumed service : Bool) : State :=
  let k := s.task t
  let l := (recordWords s k tr multi failed resumed service).flatMap (leBytes 8)
  ({ s with fw := { s.fw with records := put s.fw.records (k.physCore tr.core) l } }).queueRecord t (k.core tr.core).frptr.toNat l

/-- Rewrite word 0 of the records of a served trap, and of Floor's copies (17 R308). -/
def State.rewriteRecords (s : State) (t : Nat) (trs : List Trap) (failed resumed : Bool) : State :=
  trs.foldl (fun s tr =>
    let k := s.task t
    let w := leBytes 8 (recordWord0 k tr (1 < trs.length) failed resumed true)
    ({ s with fw := { s.fw with records := upd s.fw.records [] (k.physCore tr.core) fun l => w ++ l.drop 8 } }).queueRecord t
      (k.core tr.core).frptr.toNat w) s

/-! ### Failing a kernel (17 R310) -/

def QKind.isLoad : QKind → Bool
  | .load | .acquire | .loadRow => true
  | _ => false

def QKind.isWrite : QKind → Bool
  | .store | .release | .storeRow | .amo _ | .vamo _ | .barriv | .barinit => true
  | _ => false

def QKind.isFence : QKind → Bool
  | .fence | .fencec | .scfence => true
  | _ => false

/-- Whether a queued write has passed the gate: it and every earlier access of its core are translated (13 R245). -/
def pastGate (q : List QAcc) (a : QAcc) : Bool :=
  q.all fun b => !(b.task = a.task && b.core = a.core && (b.id ≤ a.id || b.group = a.group)) ||
    b.target != .untranslated || b.kind.isFence

/-- Cancel what the task owes and end it with the cause of a trap: commands, owed writes, and queued accesses that have
not passed the gate.  Closing heads, releasing streams and returning resources follow as the task's end. -/
def State.failKernel (s : State) (t : Nat) (tr : Trap) : State :=
  let s := s.setTask t fun k =>
    { k with
      status := .failed
      failure := some tr
      owed := []
      snapOwed := []
      posts := []
      service := none
      causes := []
      cores := mapVals k.cores fun _ c => { c with engines := [], halted := true, mtx := { c.mtx with
        fills := [], loads := [], mmas := [], awrs := [], writes := [], engaged := [], uses := [], busyTile := [], busySlot := [] } } }
  { s with queue := s.queue.filter fun a => a.task ≠ t || pastGate s.queue a }

/-! ### Rollback to a restart bundle (15 R279 to R282) -/

/-- The planes as they will stand when the loads and swaps still to come have been made: loads that have not begun, and MMAs that have
not swapped theirs in, each at its mc (07 R139, R143). -/
def Matrix.planAhead (m : Matrix) (mc : Nat) : Matrix :=
  let begun (p : Plane) : Bool := m.active.id = p.id || m.shadow.id = p.id
  let loads := (m.loads.filter fun l => !begun l.plane).map fun l => (2 * l.start + 1, some l.plane)
  let swaps := (m.mmas.filter fun a => a.swap && (mc < a.start || (mc = a.start && m.active.id ≠ a.plane.id))).map fun a =>
    (2 * a.start, (none : Option Plane))
  let (active, shadow) := (sortBy (·.1) (loads ++ swaps)).foldl (fun (p : Plane × Plane) e => match e.2 with
    | some l => (p.1, l)
    | none => (p.2, p.1)) (m.active, m.shadow)
  { m with nextActive := active, nextShadow := shadow }

/-- The matrix unit with every command from `id` on that has not performed cancelled at an mc, with its owed writes (15 R280).  What
such a command has performed stands (07 R150); a plane load that it breaks off leaves a shadow without a tag.  `old` is the unit at the
rollback point: the busy bits, the tile rows in use, the engaged heads and walkers and the ports' mcs are those of its commands. -/
def Matrix.cancelFrom (m old : Matrix) (id mc : Nat) : Matrix :=
  let mmas := m.mmas.filter (·.id < id)
  let broken (p : Plane) : Bool := m.loads.any fun l => id ≤ l.plane.id && l.plane.id = p.id
  let mark (p : Plane) : Plane :=
    { p with
      claim := ((mmas.filter fun a => a.swap && a.plane.id = p.id).getLast?.map (·.start)).or (p.claim.filter (· ≤ mc))
      ok := p.ok && !broken p
      validAt := if broken p then mc else p.validAt }
  { m with
    active := mark m.active
    shadow := mark m.shadow
    fills := m.fills.filter (·.id < id)
    loads := (m.loads.filter (·.plane.id < id)).map fun l => { l with plane := mark l.plane }
    mmas := mmas
    awrs := m.awrs.filter (·.id < id)
    writes := m.writes.filter (·.id < id)
    busyTile := old.busyTile
    busySlot := old.busySlot
    uses := old.uses
    engaged := old.engaged.filter fun e => e.lastMc.all (mc ≤ ·)
    fillFree := old.fillFree
    loadFree := old.loadFree
    swapAt := old.swapAt
    inputFree := old.inputFree : Matrix }.planAhead mc

/-- The registers of a core that its shadow restores, the tile rows among them (15 R279), with the MTX commands issued from `id` on
cancelled. -/
def Core.restoreFrom (now old : Core) (id mc : Nat) : Core :=
  { now with
    s := old.s
    p := old.p
    b := old.b
    c := old.c
    w := old.w
    h := old.h
    pc := old.pc
    halted := old.halted
    waitDc := old.waitDc
    lc := old.lc
    fmt := old.fmt
    fmtNext := old.fmtNext
    tiles := old.tiles
    tallocmap := old.tallocmap
    winMem := old.winMem
    behind := old.behind
    busy := old.busy
    loadSeq := old.loadSeq
    timedSeq := old.timedSeq
    launchPrio := old.launchPrio
    mtx := now.mtx.cancelFrom old.mtx id mc
    seq := { now.seq with dim := old.seq.dim, idx := old.seq.idx, off := old.seq.off, str := old.seq.str, q := old.seq.q } }

/-- Whether an owed effect writes a register or a tile row, which the shadow holds (15 R279). -/
def Eff.inShadow : Eff → Bool
  | .scalar .. | .pred .. | .tileRow .. | .mtxRow .. | .seqRow .. | .headWrite .. | .table .. | .hwait .. | .opened ..
  | .sfbind .. | .sfrel .. => true
  | _ => false

/-- Drop the commands that were issued at or after the rollback point.  KSTAT goes on reporting the last command's P until one is
issued again: the spec says nothing else, and calls what it reports fixed by the schedule (09 R197; log 128). -/
def Engine.dropFrom (e : Engine) (id : Nat) : Engine :=
  { e with
    pending := e.pending.filter (·.id < id)
    running := e.running.bind fun r => if r.cmd.id < id then some r else none }

/-- Set a tape-table entry from its words (08 R152). -/
def TapeEntry.ofWords (w : List Word) : TapeEntry :=
  let g (i lo n : Nat) := bits (w.getD i 0) lo n
  { length := BitVec.ofNat 40 (g 0 0 40)
    capacity := BitVec.ofNat 40 (g 1 0 40)
    format := BitVec.ofNat 4 (g 1 40 4)
    state := BitVec.ofNat 2 (g 1 44 2)
    valid := g 1 46 1 = 1
    home := g 1 47 1 = 1
    mirror := g 1 48 1 = 1
    stale := g 1 49 1 = 1
    base := BitVec.ofNat 57 (g 2 0 57)
    mbase := BitVec.ofNat 57 (g 3 0 57)
    mash := BitVec.ofNat 8 (g 4 0 8)
    mashv := g 4 8 1 = 1
    lessee := BitVec.ofNat 10 (g 5 0 10)
    leased := g 5 10 1 = 1
    readers := BitVec.ofNat 16 (g 6 0 16)
    rcore := BitVec.ofNat 10 (g 6 16 10)
    rmulti := g 6 26 1 = 1 }

/-- The words of a tape-table entry (08 R152). -/
def TapeEntry.words (e : TapeEntry) : List Word :=
  [BitVec.ofNat 64 e.length.toNat,
   BitVec.ofNat 64 (e.capacity.toNat + e.format.toNat * 2 ^ 40 + e.state.toNat * 2 ^ 44 + e.valid.toNat * 2 ^ 46 +
     e.home.toNat * 2 ^ 47 + e.mirror.toNat * 2 ^ 48 + e.stale.toNat * 2 ^ 49),
   BitVec.ofNat 64 e.base.toNat, BitVec.ofNat 64 e.mbase.toNat,
   BitVec.ofNat 64 (e.mash.toNat + e.mashv.toNat * 2 ^ 8),
   BitVec.ofNat 64 (e.lessee.toNat + e.leased.toNat * 2 ^ 10),
   BitVec.ofNat 64 (e.readers.toNat + e.rcore.toNat * 2 ^ 16 + e.rmulti.toNat * 2 ^ 26), 0]

def State.tape (s : State) (ctx i : Nat) : TapeEntry := get (get s.ctxs Context.start ctx).tapes TapeEntry.start i

def State.setTape (s : State) (ctx i : Nat) (e : TapeEntry) : State :=
  { s with ctxs := upd s.ctxs Context.start ctx fun c => { c with tapes := put c.tapes i e } }

/-- Undo what a table operation changed, or a byte that a head wrote for a core (15 R282, 08 R169, R171). -/
def State.undoOne (s : State) (t : Nat) (u : Nat × Undo) : State :=
  match u.2 with
  | .tape ctx i ws ops =>
    let followed := (s.tapeOps.drop ops).any fun p => p.ctx = ctx && p.tape = i && p.task ≠ t
    let s1 := if followed then s.recordEvent t u.1 0x0D (((s.tapeOps[ops - 1]?).map (·.pc)).getD 0) else s
    let was := TapeEntry.ofWords ws
    (s1.setTape ctx i was).setTask t fun k =>
      { k with fromEmpty := if was.state = 0 then k.fromEmpty.filter (· ≠ i) else k.fromEmpty }
  | .stream n old => { s with streams := put s.streams n old }
  | .length ctx i old => s.setTape ctx i { s.tape ctx i with length := old }
  | .byte va old lost =>
    match s.physOf (s.task t).ctx va with
    | some pa =>
      let s1 := s.writeLine t u.1 va pa [old]
      if lost then s1.markPoison pa (BitVec.ofNat 64 (2 ^ (pa % 64))) else s1
    | none => s

/-- The command timeline of an owned channel as it stood at the rollback point; what runs in real time goes on (15 R280). -/
def TimelineRun.restoreFrom (now old : TimelineRun) : TimelineRun :=
  { now with
    act := old.act
    pre := old.pre
    busyUntil := old.busyUntil
    refUntil := old.refUntil
    lines := old.lines
    moves := old.moves
    refAll := old.refAll
    rows := old.rows }

/-- The results that a core of a task still waits for, by id: table operations, waits for a head's writes, queued accesses, and the
counts of a closed stream. -/
def Task.awaited (k : Task) (c : Nat) (queue : List QAcc) : List Nat :=
  (k.owed.filterMap fun o => match o.eff with
    | .table .. | .hwait .. => if o.core = c then some o.id else none
    | _ => none) ++ queue.map (·.id) ++ k.qsyncs.map (·.2.1)

/-- Roll a domain back to its rollback point (15 R280, R282): every write still behind a gate and every other access issued since is
discarded, engine commands, the matrix engine's among them, and table operations issued since are cancelled or undone, each core takes
its shadow, DCYC takes M.  The result of an atomic that has left the gate goes nowhere, since its instruction issues again; a register
that waits for an atomic that was issued before M and is discarded keeps its old value and is no longer busy (log 105), nor is one whose
result has come since M. -/
def State.rollback (s : State) (t : Nat) : State :=
  let id := (s.task t).rollId
  let q := s.queue
  let stays (a : QAcc) : Bool := a.task ≠ t || (if a.kind.isWrite then pastGate q a else a.id < id)
  let muted (a : QAcc) : QAcc := if a.task = t && id ≤ a.id then { a with dest := 0 } else a
  let s := { s with queue := (q.filter stays).map muted }
  let s := (s.task t).undo.foldl (fun (s : State) u => s.undoOne t u) s
  s.setTask t fun k =>
    let owed := k.snapOwed ++ k.owed.filter (fun (o : Owed) => o.id < id && !k.snapOwed.any (·.id = o.id))
    let left := { k with owed := owed, qsyncs := k.qsyncs.filter fun q => q.2.1 < id }
    { left with
      cores := mapVals k.cores fun c now =>
        let was := now.restoreFrom (get k.snap Core.start c) id k.mc
        { was with
          engines := mapVals now.engines fun _ e => e.dropFrom id
          busy := was.busy.filter fun r =>
            (left.awaited c (s.queue.filter fun a => a.task = t && a.core = c && a.dest = r.reg)).contains r.id }
      timelines := mapVals k.timelines fun ch r => r.restoreFrom (get k.snapRuns r ch)
      posts := k.posts.filter fun p => p.id < id || p.applied
      debts := k.debts.filter fun d => d.cmd < id
      loadMarks := k.loadMarks.map fun l => { l with rolled := true }
      refill := none
      dc := k.rollDc
      lastHalt := 0
      closed := false
      undo := []
      counts := [] }

/-! ### Taking a trap and returning from it (17 R303 to R309) -/

/-- Whether Floor may resume the domain after this cause (17 R303). -/
def Trap.resumable (tr : Trap) : Bool := tr.cause = 0x04 || tr.cause = 0x15 || (tr.cause = 0x1A && tr.engine < 4)

/-- One trap for a core from all that it raised: a bundle-wide cause first, else its lowest slot.  Traps of the issue of a bundle
take the mask of every slot that trapped; one that is raised later keeps its own slot's bit (02 R23, 17 R305, R306). -/
def mergeTraps (late : Bool) (l : List Trap) : Option Trap :=
  match l with
  | [] => none
  | first :: _ =>
    let wide := l.filter fun tr => tr.engine = 0xF && 4 ≤ tr.slot
    match wide with
    | w :: _ => some { w with slot := leastOr 0 ((List.range 4).filter fun i => bitAt w.mask i) }
    | [] =>
      let low := l.foldl (fun a b => if b.slot < a.slot then b else a) first
      let same := l.filter fun tr => tr.engine = low.engine && tr.pc = low.pc
      some (if late then low else { low with mask := same.foldl (fun m tr => m ||| tr.mask) 0 })

/-- How a served trap goes on (17 R309). -/
def serviceKind (trs : List Trap) : ServiceKind :=
  if trs.any (·.cause = 0x15) then .pageFault
  else if trs.any (·.cause = 0x1A) then .copyError else .brk

/-- 1,000 ms of the 2.4 GHz reference clock (17 R309, 03 R47). -/
def serviceLimit : Nat := 2400000000

/-- Take the traps a task raised: every trapping core's record goes to its FRPTR with the domain stopped; if every cause
is resumable the domain waits for Floor (a page fault rolls it back first), and otherwise the kernel fails with the cause
of the lowest trapping core (17 R304, R305, R308). -/
def State.takeTraps (s : State) (t : Nat) (trs : List Trap) (late : Bool := true) : State :=
  let cores := sortBy id (nubNat (trs.map (·.core)))
  let each := cores.filterMap fun c => mergeTraps late (trs.filter (·.core = c))
  match each with
  | [] => s
  | first :: _ =>
    let multi := 1 < each.length
    let served := each.all (·.resumable)
    let s := each.foldl (fun s tr => s.writeRecord t tr multi (!served) false served) s
    if served then
      let s := s.setTask t fun k =>
        { k with
          status := .service
          service := some ⟨serviceKind each, each, s.gcyc + serviceLimit, k.status = .frozen && serviceKind each = .copyError⟩ }
      if each.any (·.cause = 0x15) then s.rollback t else s
    else (s.failKernel t first).setTask t fun k => { k with trapped := trs }

/-- Return from a served trap (17 R308, R309): the records say RESUMED and the domain goes on, at n + 1 after BRK, from
the rollback point after a page fault, with the drain of its freeze where a copy of that met the error (03 R58). -/
def State.resumeService (s : State) (t : Nat) : State :=
  match (s.task t).service with
  | none => s
  | some v => (s.rewriteRecords t v.traps false true).setTask t fun k =>
    { k with status := if v.draining then .frozen else .running, service := none }

/-- Fail a served trap with its own cause (17 R309, R310). -/
def State.failService (s : State) (t : Nat) : State :=
  match (s.task t).service with
  | none => s
  | some v =>
    match v.traps with
    | [] => s
    | tr :: _ => ((s.rewriteRecords t v.traps true false).failKernel t tr).setTask t fun k => { k with trapped := v.traps }

end Sys2Proof.Machine
end

