-- ==== Sys2Proof/Machine/Flags.lean ====
section
/-!
DEFINITION. The fields of FMT, CMPAT, LC, TWIN and WHEELMAP, the modes they select, and the special registers as the CSR
instructions read and write them.
-/

namespace Sys2Proof.Machine

/-! ### FMT (05 R97, 04 R79) -/

/-- The image in force for a bundle issued at a dc: that of the latest FMTSET issued 5 dc before or earlier. -/
def Core.fmtAt (k : Core) (dc : Nat) : BitVec 22 :=
  k.fmtNext.foldl (fun img e => if e.1 + 5 ≤ dc then e.2 else img) k.fmt

/-- A FMTSET issued at `dc`, images already in force folded in. -/
def Core.setFmt (k : Core) (dc : Nat) (img : BitVec 22) : Core :=
  { k with fmt := k.fmtAt dc, fmtNext := (k.fmtNext.filter fun e => dc < e.1 + 5) ++ [(dc, img)] }

def fmtElem (f : BitVec 22) : Nat := bits f 0 4
def fmtAct (f : BitVec 22) : Nat := bits f 4 4
def fmtOut (f : BitVec 22) : Nat := bits f 8 4
def fmtRnd (f : BitVec 22) : Nat := bits f 12 2
def fmtSub (f : BitVec 22) : Bool := bitAt f 14
def fmtAcc (f : BitVec 22) : Nat := bits f 16 2

/-! ### CMPAT (02 R38) -/

def compatFp8rtz (c : Word) : Bool := bitAt c 8
def compatSubflush (c : Word) : Bool := bitAt c 9
def compatNancanon (c : Word) : Bool := bitAt c 10
def compatArdE4sat (c : Word) : Bool := bitAt c 32

/-- The modes of a FMT image under a CMPAT (05 R100, R102). -/
def modesOf (f : BitVec 22) (cmpat : Word) : Modes :=
  ⟨fmtRnd f, fmtSub f || compatSubflush cmpat, compatNancanon cmpat, compatFp8rtz cmpat⟩

/-- The FMT image of the bundle being run, its element format and its modes. -/
def State.myFmt (s : State) : BitVec 22 := s.me.fmtAt s.dc
def State.elem (s : State) : Nat := fmtElem s.myFmt
def State.modes (s : State) : Modes := modesOf s.myFmt s.me.cmpat

/-! ### LC (04 R69) -/

def lcPasses (l : Word) : Nat := bits l 0 34
def lcBrot (l : Word) : Nat := bits l 34 3
def lcStages (l : Word) : Nat := bits l 37 2
def lcOf (stages brot passes : Nat) : Word :=
  BitVec.ofNat 64 (stages % 4 * 2 ^ 37 + brot % 8 * 2 ^ 34 + passes % 2 ^ 34)

/-! ### TWIN (04 R69) -/

def twinEn (t : Word) : Bool := bitAt t 0
def twinCount (t : Word) : Bool := bitAt t 1
def twinMismatches (t : Word) : Nat := bits t 16 16

/-- TWIN with one more mismatch, saturating. -/
def twinAdd (t : Word) : Word :=
  BitVec.ofNat 64 (min 0xFFFF (twinMismatches t + 1) * 2 ^ 16 + bits t 0 2)

/-! ### Special registers by CSR number (02 R31) -/

/-- Bits of a special register that a CSR write changes (04 R69). -/
def csrMask (c : Nat) : Word :=
  match c with
  | 0x002 => 0x7FFFFFFFFF
  | 0x009 => 0x01FFFFFFFFFFFF80
  | 0x00A => 0xFFFF0003
  | _ => 0

/-- The value of a special register as the bundle being run reads it. -/
def State.csrValue (s : State) (c : Nat) : Word :=
  let k := s.me
  match c with
  | 0x000 => s.myFmt.zeroExtend 64
  | 0x001 => k.cmpat
  | 0x002 => k.lc
  | 0x003 => BitVec.ofNat 64 s.dc
  | 0x004 => BitVec.ofNat 64 s.gcyc
  | 0x005 => k.wheelmap
  | 0x006 => k.dgst
  | 0x007 => BitVec.ofNat 64 k.tallocmap.toNat
  | 0x008 => BitVec.ofNat 64 (k.tallocmap.toNat / 2 ^ 64)
  | 0x009 => k.frptr
  | 0x00A => k.twin
  | _ => get k.detc 0 (c - 0x010)

/-- A special register's new value, bits that are reserved or read-only kept (04 R81). -/
def csrMerge (c : Nat) (old new : Word) : Word := (old &&& ~~~csrMask c) ||| (new &&& csrMask c)

end Sys2Proof.Machine
end

