-- ==== Sys2Proof/Machine/Operands.lean ====
section
/-!
DEFINITION. Every operand form: row sources and row destinations through cursors, walkers (raw and leaf space), heads,
broadcast, the sequence row and predicates; scratchpad banks and the early-read checker.
-/

namespace Sys2Proof.Machine

/-- Why an operand cannot be used: cause, sub-reason and what the fault record says of it. -/
structure Fail where
  cause : Nat
  sub : Nat
  addr : Nat := 0
  kind : Nat := 0
  d7 : Nat := 0
  d8 : Nat := 0
  d9 : Nat := 0
  deriving DecidableEq, Repr

abbrev Res (α : Type) := Except Fail α

def Fail.fill (f : Fail) (tr : Trap) : Trap :=
  { tr with addr := f.addr, kind := f.kind, d7 := BitVec.ofNat 64 f.d7, d8 := BitVec.ofNat 64 f.d8, d9 := BitVec.ofNat 64 f.d9 }

/-- The slot being run traps for this reason. -/
def State.fail (s : State) (f : Fail) : State := s.trap f.cause f.sub f.fill

/-! ### Scratchpad banks (09 R173, R176) -/

/-- The lines, numbered over the whole space, that `n` bytes at a scratchpad address touch. -/
def spadLines (a n : Nat) : List Nat := (List.range ((a % 64 + n + 63) / 64)).map fun i => a / 64 + i

/-- Core, kind and PC of a requester as a fault record holds them (17 R307). -/
def requester (core kind pc : Nat) : Nat := core % 512 + kind % 8 * 2 ^ 9 + pc % 2 ^ 32 * 2 ^ 32

/-- Request every bank of the lines; a bank that another requester has in this dc is the precise schedule fault 0x4. -/
def State.claim (s : State) (t core kind pc : Nat) (lines : List Nat) : Res State :=
  let mine := lines.map fun ln => (ln / 2 ^ 16, ln % 32)
  match (sortBy (fun e => e.1 * 32 + e.2) mine).findSome? fun e =>
      s.banks.find? fun b => b.task = t && b.slice = e.1 && b.bank = e.2 with
  | some b => .error { cause := 6, sub := 4, d7 := b.bank, d8 := requester b.core b.kind b.pc, d9 := requester core kind pc }
  | none => .ok { s with banks := s.banks ++ mine.map fun e => ⟨t, e.1, e.2, core, kind, pc⟩ }

/-! ### The early-read checker (09 R194) -/

/-- Index `i` of an index list as its bytes hold it (09 R191). -/
def indexAt (l : List Byte) (i : Nat) : Nat := leNat ((l.drop (4 * i)).take 4)

/-- The scratchpad ranges that a copy command's destination covers, the bytes of its index list given. -/
def CmdOp.spadDest (op : CmdOp) (indices : List Byte) : List (Nat × Nat) :=
  let range (a n : Nat) : List (Nat × Nat) := if inWindow a && n ≠ 0 then [(a % 2 ^ 32, n)] else []
  match op with
  | .copy _ d n | .fill d n _ | .reduce _ d n _ => range d n
  | .gather _ d _ k r => range d (k * 2 ^ r)
  | .scatter _ d _ k r => if inWindow d then (List.range k).map fun i => ((d + indexAt indices i) % 2 ^ 32, 2 ^ r) else []
  | _ => []

/-- Commands of the copy engines of a task, each with its core, its engine and the index bytes it has read. -/
def Task.copies (k : Task) : List (Nat × Nat × Cmd × List Byte) :=
  k.cores.flatMap fun e => (List.range 4).flatMap fun n =>
    let g := e.2.engine n
    g.pending.map (fun c => (e.1, n, c, [])) ++ g.running.toList.map fun r => (e.1, n, r.cmd, r.indices)

/-- Commands issued in this dc and not yet committed. -/
def State.newCopies (s : State) : List (Nat × Nat × Cmd × List Byte) :=
  s.issued.filterMap fun o =>
    match o.eff with
    | .command e c => if e < 4 then some (o.core, e, c, []) else none
    | _ => none

/-- The index list of a command: what it has read, and the rest as it stands (log 98). -/
def Task.indicesOf (k : Task) (op : CmdOp) (read : List Byte) : List Byte :=
  match op with
  | .gather _ _ list n _ | .scatter _ _ list n _ => read ++ (k.spadBytes list (4 * n)).drop read.length
  | _ => []

/-- Of scratchpad ranges that a core reads, the lines of the bytes over which its checker is armed. -/
def Task.armedLines (k : Task) (core : Nat) (ranges : List (Nat × Nat)) : List Nat :=
  match (k.core core).checker with
  | none => []
  | some (lo, n) => ranges.flatMap fun r =>
      let a := max r.1 lo
      let b := min (r.1 + r.2) (lo + n)
      if a < b then spadLines a (b - a) else []

/-- The precise schedule fault 0x2 of a read at a dc of lines that one of these copies still owes. -/
def Task.owedFail (k : Task) (dc : Nat) (copies : List (Nat × Nat × Cmd × List Byte)) (lines : List Nat) : Option Fail :=
  if lines.isEmpty then none
  else copies.findSome? fun e =>
    let dest := e.2.2.1.op.spadDest (k.indicesOf e.2.2.1.op e.2.2.2)
    if dc < e.2.2.1.perform && dest.any (fun d => lines.any fun ln => rangesMeet (ln * 64) 64 d.1 d.2) then
      some { cause := 6, sub := 2, d7 := e.2.2.1.perform, d8 := e.1 % 512 + e.2.1 % 4 * 2 ^ 12, kind := 1 }
    else none

/-- The precise schedule fault 0x2 of a read at a dc of scratchpad ranges by a core whose checker is armed over bytes of them:
the lines of those bytes that a copy still owes. -/
def State.early (s : State) (t core dc : Nat) (ranges : List (Nat × Nat)) : Option Fail :=
  let k := s.task t
  k.owedFail dc (k.copies ++ (if s.cur.task = t then s.newCopies else [])) (k.armedLines core ranges)

/-- Keep a read for the copies that issue after it in the same dc. -/
def State.noteRead (s : State) (t core engine slot pc : Nat) (ranges : List (Nat × Nat)) : State :=
  let lines := (s.task t).armedLines core ranges
  if lines.isEmpty then s else { s with reads := s.reads ++ [⟨t, core, engine, slot, pc, lines⟩] }

/-- The SRAM error of a read of a place that holds a double-bit error (17 R303). -/
def Core.sramFail (k : Core) (array i : Nat) : Option Fail :=
  if k.sram.contains (array, i) then some { cause := 0x1B, sub := 0, kind := 1 } else none

/-- A timed read of `n` bytes of scratchpad, aligned to `al`; the checker sees walker pops, SLD and engine sources. -/
def State.readTimed (s : State) (t core a n al kind pc : Nat) : Res (List Byte × State) :=
  let k := s.task t
  match k.spadFault core a n al with
  | some sub => .error { cause := 0x0D, sub := sub, addr := a, kind := 1 }
  | none =>
    match s.claim t core kind pc (spadLines a n) with
    | .error f => .error f
    | .ok s' =>
      match (if kind = 0 || kind = 2 then s.early t core k.dc [(a, n)] else none) with
      | some f => .error { f with addr := a }
      | none =>
        match (spadLines (spadOff a) n).findSome? ((k.core (spadCore a)).sramFail 3) with
        | some f => .error { f with addr := a }
        | none => .ok (k.spadBytes a n, if kind = 0 || kind = 2 then s'.noteRead t core 0xF s.cur.slot pc [(a, n)] else s')

/-! ### Rows in memory (05 R90, 09 R179) -/

/-- Bytes of a row at a walker's WIDTH. -/
def widthBytes (w : Nat) : Nat :=
  match w with
  | 0 => 32
  | 1 => 128
  | 2 => 256
  | _ => 512

/-- Element `i`, of `b` bits, of bytes. -/
def elemAt (l : List Byte) (b i : Nat) : Nat :=
  if b = 2 then (l.getD (i / 4) 0).toNat / 4 ^ (i % 4) % 4 else leNat ((l.drop (i * (b / 8))).take (b / 8))

/-- Bits of an element at a walker's WIDTH. -/
def widthBits (w : Nat) : Nat := if w = 0 then 2 else 8 * 2 ^ (w - 1)

/-- The row that bytes hold at a WIDTH, zero-extended. -/
def rowOfBytes (w : Nat) (l : List Byte) : Row := rowOf fun i => BitVec.ofNat 32 (elemAt l (widthBits w) i)

/-- The bytes of elements of `b` bits, in order. -/
def bytesOfElems (b : Nat) (l : List Nat) : List Byte :=
  if b = 2 then (chunk 4 l.length l).map fun q => BitVec.ofNat 8 (total ((List.range 4).map fun j => q.getD j 0 % 4 * 4 ^ j))
  else l.flatMap fun v => leBytes (b / 8) (v % 2 ^ b)

/-- The bytes of a row at a WIDTH: the low bits of each lane. -/
def bytesOfRow (w : Nat) (r : Row) : List Byte := bytesOfElems (widthBits w) (r.map (·.toNat))

/-! ### Leaves (09 R181 to R183) -/

/-- The stored form of a logical line: mode and payload. -/
def encodeLine (l : List Byte) : Nat × List Byte :=
  let first := l.getD 0 0
  if l.all (· = 0) then (0, [])
  else if l.all (· = first) then (1, [first])
  else
    let hi (i : Nat) := (l.getD (2 * i + 1) 0).toNat
    let delta (i : Nat) : Int := (hi i : Int) - hi 0
    if (List.range 32).all fun i => -8 ≤ delta i && delta i ≤ 7 then
      (2, BitVec.ofNat 8 (hi 0) ::
        ((List.range 16).map fun k => BitVec.ofNat 8 ((delta (2 * k) % 16).toNat + (delta (2 * k + 1) % 16).toNat * 16)) ++
        (List.range 32).map fun i => l.getD (2 * i) 0)
    else (3, l)

/-- Payload bytes of a mode. -/
def modeSize (m : Nat) : Nat :=
  match m with
  | 0 => 0
  | 1 => 1
  | 2 => 49
  | _ => 64

/-- The logical line of a mode and payload. -/
def decodeLine (m : Nat) (p : List Byte) : List Byte :=
  match m with
  | 0 => List.replicate 64 0
  | 1 => List.replicate 64 (p.getD 0 0)
  | 2 => (List.range 32).flatMap fun i =>
      let nib := (p.getD (1 + i / 2) 0).toNat / 16 ^ (i % 2) % 16
      [p.getD (17 + i) 0, BitVec.ofNat 8 (((p.getD 0 0).toNat : Int) + sext 4 nib + 256).toNat]
  | _ => p.take 64

/-- The line modes of a leaf's header. -/
def lineModes (header : List Byte) : List Nat := (List.range 64).map fun i => leNat header / 4 ^ i % 4

/-- Where the payload of logical line `i` starts in the stored form. -/
def payloadAt (modes : List Nat) (i : Nat) : Nat := 16 + total ((modes.take i).map modeSize)

/-- First stored byte of a leaf, as a scratchpad address. -/
def leafBase (core : Nat) (e : LeafEntry) : Nat := core * 2 ^ 22 + e.offset.toNat * 64

/-- Lines of the slice that stored bytes `lo` to `lo + n - 1` of a leaf lie on, its header line with them. -/
def storedLines (base lo n : Nat) : List Nat := nubNat (base / 64 :: if n = 0 then [] else spadLines (base + lo) n)

/-- The leaf and its tags as a fault record holds them (17 R307). -/
def LeafEntry.tags (e : LeafEntry) (leaf : Nat) : Nat := leaf + e.tag.toNat * 2 ^ 16 + e.expect.toNat * 2 ^ 32

/-- The checks of a read of `n` bytes in leaf space, and the stored bytes it takes beside the header, as an address and a length;
`first` says whether this counts as the first read of the leaf. -/
def Task.leafPlan (k : Task) (core a n : Nat) (first : Bool) : Res (Nat × Nat × Nat) :=
  let slice := spadCore a
  let leaf := bits (BitVec.ofNat 32 a) 12 10
  let e := (k.core slice).leafEntry leaf
  let lo := a % 2 ^ 12
  let base := leafBase slice e
  let modes := lineModes (k.spadBytes base 16)
  let l0 := lo / 64
  let l1 := (lo + n + 63) / 64
  let bad (sub : Nat) : Res (Nat × Nat × Nat) := .error { cause := 0x0D, sub := sub, addr := a, kind := 1 }
  match k.sliceFault core a with
  | some sub => bad sub
  | none =>
    if !e.valid then bad 4
    else if first && e.tag ≠ e.expect then .error { cause := 6, sub := 1, addr := a, d7 := e.tags leaf }
    else if e.lines.toNat < l1 then bad 5
    else if e.cap.toNat < ceilDiv (payloadAt modes 64) 64 then bad 7
    else .ok (base, payloadAt modes l0, payloadAt modes l1 - payloadAt modes l0)

/-- The bytes of leaf space that `n` bytes at an address hold, decoded from the stored lines. -/
def Task.leafBytes (k : Task) (a n : Nat) : List Byte :=
  let slice := spadCore a
  let base := leafBase slice ((k.core slice).leafEntry (bits (BitVec.ofNat 32 a) 12 10))
  let modes := lineModes (k.spadBytes base 16)
  let lo := a % 2 ^ 12
  let l0 := lo / 64
  let line (i : Nat) := decodeLine (modes.getD i 0) (k.spadBytes (base + payloadAt modes i) (modeSize (modes.getD i 0)))
  let all := (List.range ((lo + n + 63) / 64 - l0)).flatMap fun i => line (l0 + i)
  (all.drop (lo % 64)).take n

/-- The row bytes that a walker reads in leaf space. -/
def State.readLeaf (s : State) (t core a n pc : Nat) (first : Bool) : Res (List Byte × State) :=
  match (s.task t).leafPlan core a n first with
  | .error f => .error f
  | .ok (base, lo, m) =>
    let lines := storedLines base lo m
    match s.claim t core 0 pc lines with
    | .error f => .error f
    | .ok s' =>
      match (s.early t core (s.task t).dc [(base, 16), (base + lo, m)]).or
          (lines.findSome? fun ln => ((s.task t).core (ln / 2 ^ 16)).sramFail 3 (ln % 2 ^ 16)) with
      | some f => .error { f with addr := a }
      | none => .ok ((s.task t).leafBytes a n, s'.noteRead t core 0xF s.cur.slot pc [(base, 16), (base + lo, m)])

/-! ### Walkers (09 R177 to R179, R183) -/

def Walker.leaf (w : Walker) : Bool := bitAt w.cfg 6
def Walker.width (w : Walker) : Nat := bits w.cfg 4 2
def Walker.ldb (w : Walker) : Bool := bitAt w.cfg 3
def Walker.baseReg (w : Walker) : Nat := bits w.cfg 0 3

/-- The address of the walker's next use. -/
def Core.walkerAddr (k : Core) (w : Walker) : Nat :=
  (k.base w.baseReg + w.l0.index * w.l0.stride + w.l1.index * w.l1.stride + w.l2.index * w.l2.stride +
    w.l3.index * w.l3.stride).toNat

/-- A level counted up, and whether it wrapped. -/
def Level.bump (l : Level) : Level × Bool :=
  if l.index + 1 = l.count then ({ l with index := 0 }, true) else ({ l with index := l.index + 1 }, false)

/-- The walker after a use. -/
def Walker.advance (w : Walker) : Walker :=
  let (a, ca) := w.l0.bump
  let (b, cb) := if ca then w.l1.bump else (w.l1, false)
  let (c, cc) := if cb then w.l2.bump else (w.l2, false)
  let d := if cc then (w.l3.bump).1 else w.l3
  { w with l0 := a, l1 := b, l2 := c, l3 := d }

/-- Every index zero. -/
def Walker.rewind (w : Walker) : Walker :=
  { w with
    l0 := { w.l0 with index := 0 }
    l1 := { w.l1 with index := 0 }
    l2 := { w.l2 with index := 0 }
    l3 := { w.l3 with index := 0 }
    lastLeaf := none }

/-- Whether an MTX command engages the head or walker (07 R137). -/
def Core.engages (k : Core) (isHead : Bool) (n : Nat) : Bool := k.mtx.engaged.any fun e => e.isHead = isHead && e.n = n

/-- The address of a use of walker `n`, and the walker after it; `kind` is that of the access (17 R306): 1 a read, 2 a write. -/
def Core.useWalker (k : Core) (n kind : Nat) : Res (Nat × Walker) :=
  let w := k.walker n
  let a := k.walkerAddr w
  if !w.loaded then .error { cause := 0x0E, sub := 1 }
  else if a % min (widthBytes w.width) 64 ≠ 0 then .error { cause := 0x0D, sub := 3, addr := a, kind := kind }
  else .ok (a, w.advance)

/-- A row read at an address through a walker's configuration; `w` is the walker after the use. -/
def State.walkerRow (s : State) (t core a pc : Nat) (w : Walker) : Res (Row × Walker × State) :=
  let n := widthBytes w.width
  if w.leaf then
    let place := spadCore a * 1024 + a / 2 ^ 12 % 1024
    match s.readLeaf t core a n pc (w.lastLeaf ≠ some place) with
    | .error f => .error f
    | .ok (l, s') => .ok (rowOfBytes w.width l, { w with lastLeaf := some place }, s')
  else
    match s.readTimed t core a n 1 0 pc with
    | .error f => .error f
    | .ok (l, s') => .ok (rowOfBytes w.width l, w, s')

/-- A pop of walker `n` by a core. -/
def State.popWalker (s : State) (t core n pc : Nat) : Res (Row × Walker × State) :=
  match (s.core t core).useWalker n 1 with
  | .error f => .error f
  | .ok (a, w) => s.walkerRow t core a pc w

/-- What a write of a row at an address through a walker owes, checked at issue; a delivery of the matrix engine goes through the
slice's engine write port (09 R176, R192; log 120). -/
def State.walkerStore (s : State) (t core a : Nat) (w : Walker) (row : Row) (port : Bool := false) : Res (List Eff) :=
  let k := s.task t
  let n := widthBytes w.width
  let data := bytesOfRow w.width row
  let bad (sub : Nat) : Res (List Eff) := .error { cause := 0x0D, sub := sub, addr := a, kind := 2 }
  if w.leaf then
    match k.sliceFault core a with
    | some sub => bad sub
    | none =>
      let slice := spadCore a
      let leaf := a / 2 ^ 12 % 1024
      let lo := a % 2 ^ 12
      let e := (k.core slice).leafEntry leaf
      if !e.valid then bad 4
      else if n < 64 || lo % 64 ≠ 0 || (lo ≠ 0 && lo ≠ e.next) || 4096 < lo + n then bad 6
      else .ok [.leafNext slice leaf (lo + n), .leafWrite slice leaf lo data port]
  else
    match k.spadFault core a n 1 with
    | some sub => bad sub
    | none => .ok [.spad a data (if port then 7 else 1)]

/-- When an effect of a walker's write takes place: NEXT at issue, bytes at n + max(L, 2) (09 R179, R183). -/
def walkerDelay (lat : Nat) : Eff → Nat
  | .leafNext .. => 0
  | _ => max lat 2

/-! ### Heads (08 R156 to R158) -/

def Head.dir (h : Head) : Int := if h.back then -1 else 1

/-- The position as a signed number. -/
def Head.at (h : Head) : Int := h.pos.toInt

def Head.entry (s : State) (t : Nat) (h : Head) : TapeEntry := s.tape (s.task t).ctx (h.handle.toNat % 2 ^ 16)

/-- What a head, tape or poison trap records (17 R307). -/
def headFail (cause sub n : Nat) (h : Head) (pos : Word) : Fail :=
  { cause := cause, sub := sub, d7 := n, d8 := h.handle.toNat, d9 := pos.toNat }

/-- First and last byte, from BASE, of element `e`. -/
def elemBytes (f e : Nat) : Nat × Nat := (e * elemBits f / 8, (e * elemBits f + elemBits f - 1) / 8)

/-- Lines, from BASE, that a head's window holds (08 R162). -/
def Head.held (h : Head) : List Nat := h.win.map (·.1)

/-- A byte of a tape beneath a core's windows: what its heads have written and not yet sent to memory, else memory; and whether it
is lost. -/
def State.beneath (s : State) (t core va : Nat) : Byte × Bool :=
  match find? (s.core t core).winMem va with
  | some b => (b, false)
  | none =>
    match s.physOf (s.task t).ctx va with
    | some pa => (Memory.byte s.mem pa, s.lostByte pa)
    | none => (Config.emptyByte, false)

/-- A head with the lines that have come from the mirror by cycle `g` held. -/
def Head.arrive (h : Head) (g : Nat) : Head :=
  { h with
    win := (h.coming.filter fun e => e.2.1 ≤ g).foldl (fun w e => put w e.1 e.2.2) h.win
    coming := h.coming.filter fun e => g < e.2.1 }

/-- The byte at an offset from BASE as the window of head `h` holds it: a line that has come from the mirror by now is held (08 R167). -/
def State.windowByte (s : State) (t core h base off : Nat) : Byte × Bool :=
  match find? (((s.core t core).head h).arrive s.gcyc).win (off / 64) with
  | some l => (l.bytes.getD (off % 64) 0, bitAt l.lost (off % 64))
  | none => s.beneath t core (base + off)

/-- Element `e` of a tape through a head's window: its bits, and whether it is poisoned. -/
def State.windowElem (s : State) (t core h base f e : Nat) : Nat × Bool :=
  let (lo, hi) := elemBytes f e
  let l := (List.range (hi - lo + 1)).map fun i => s.windowByte t core h base (lo + i)
  let v := leNat (l.map (·.1)) / 2 ^ (e * elemBits f % 8) % 2 ^ elemBits f
  (v, l.any (·.2))

/-- The row a head delivers (08 R157) and the head after it. -/
def State.deliver (s : State) (t core n : Nat) : Res (Row × Head) :=
  let h := (s.core t core).head n
  let e := h.entry s t
  let len : Int := e.length.toNat
  let p := h.at
  if h.status ≠ .opened then .error (headFail 0x0B 1 n h h.pos)
  else if h.mode = .append then .error (headFail 0x0B 3 n h h.pos)
  else if p < 0 || len ≤ p then .error (headFail 0x0B 4 n h h.pos)
  else
    let elems := (List.range 128).map fun (l : Nat) =>
      let i := p + (l : Int) * h.dir
      if l < h.grain && 0 ≤ i && i < len then some (i.toNat, s.windowElem t core n e.base.toNat h.fmt i.toNat) else none
    let sram := elems.findSome? fun x => x.bind fun y => (s.core t core).sramFail 4 (2 ^ 51 * n + (elemBytes h.fmt y.1).1 / 64)
    match sram.or (elems.findSome? fun x => x.bind fun y =>
        if y.2.2 && h.fmt ≠ 9 then some (headFail 8 0 n h (BitVec.ofNat 64 y.1)) else none) with
    | some f => .error f
    | none =>
      let row := elems.map fun x =>
        match x with
        | some (_, v, lost) => if lost then 2 else extend h.fmt v
        | none => (0 : Lane)
      .ok (row, if h.mode = .read then { h with pos := BitVec.ofInt 64 (p + h.grain * h.dir) } else h)

/-- What a write of a row through a head owes (08 R158), and the head after it. -/
def State.headStore (s : State) (t core n : Nat) (row : Row) : Res (Eff × Head) :=
  let h := (s.core t core).head n
  let e := h.entry s t
  let p := h.at
  let len : Int := e.length.toNat
  if h.status ≠ .opened then .error (headFail 0x0B 1 n h h.pos)
  else
    match h.mode with
    | .read => .error (headFail 0x0B 3 n h h.pos)
    | .append =>
      if (e.capacity.toNat : Int) < p + h.grain then .error (headFail 0x0B 4 n h h.pos)
      else
        let elems := (List.range h.grain).map fun (l : Nat) => ((p + (l : Int)).toNat, lane row l)
        .ok (.headWrite h.oid h.handle h.fmt elems false n h.pos, { h with pos := BitVec.ofInt 64 (p + h.grain) })
    | .update =>
      if p < 0 || len ≤ p then .error (headFail 0x0B 4 n h h.pos)
      else
        let elems := (List.range h.grain).filterMap fun (l : Nat) =>
          let i := p + (l : Int) * h.dir
          if 0 ≤ i && i < len then some (i.toNat, lane row l) else none
        .ok (.headWrite h.oid h.handle h.fmt elems true n h.pos, { h with pos := BitVec.ofInt 64 (p + h.grain * h.dir) })

/-! ### Cursors (06 R117) -/

/-- The linear row index of a cursor. -/
def Cursor.linear (c : Cursor) : Nat := 16 * c.tile.toNat + c.row.toNat

/-- The next position of a cursor, with the twin halves kept apart when TWIN.EN is 1. -/
def Cursor.next (c : Cursor) (twin : Bool) : Cursor :=
  let x := c.linear
  let move (d : Nat) : Cursor :=
    let y := if twin && x < 1280 then x / 640 * 640 + (x % 640 + (if d = 1 then 1 else 639)) % 640
      else (x + (if d = 1 then 1 else 1279)) % 1280
    { c with tile := BitVec.ofNat 7 (y / 16), row := BitVec.ofNat 4 (y % 16) }
  match c.step.toNat with
  | 0 => c
  | 1 => move 1
  | 2 => move 2
  | _ => { c with row := c.row + 1 }

/-- The cursor after `n` steps. -/
def Cursor.after (c : Cursor) (twin : Bool) : Nat → Cursor
  | 0 => c
  | n + 1 => (c.next twin).after twin n

/-- The tile trap of a row that lies in a tile that is not allocated (06 R112). -/
def Core.tileFail (k : Core) (tile : Nat) : Option Fail := if k.allocated tile then none else some { cause := 9, sub := 1 }

/-! ### Row sources and destinations (06 R120, R121) -/

/-- The register number of a broadcast (01 R10); without an ext byte it is s0 (log 94). -/
def extReg (x : Ext) : Nat := (x.getD 0).toNat % 32

/-- What a predicate source gives for a lane that is set, in a format (06 R120). -/
def oneIn (f : Nat) : Lane :=
  if isFloatFmt f then BitVec.ofNat 32 (expBias f * 2 ^ fracBits f) else 1

/-- The row that a source code delivers to the slot being run, read in format `f`; a resource it pops or a cursor it
names moves when the bundle commits. -/
def State.readRow (s : State) (code : BitVec 6) (x : Ext) (f : Nat) : Row × State :=
  let k := s.me
  let c := code.toNat
  if c < 0x10 then
    if k.engages true c then (Row.zero, s.fail { cause := 0x0A, sub := 7 })
    else
      match s.deliver s.cur.task s.cur.core c with
      | .error e => (Row.zero, s.fail e)
      | .ok (r, h) => (r, s.issue 0 (.head c h))
  else if c < 0x18 then
    let n := c - 0x10
    if k.engages false n then (Row.zero, s.fail { cause := 0x0A, sub := 7 })
    else
      match s.popWalker s.cur.task s.cur.core n k.pc with
      | .error e => (Row.zero, s.fail e)
      | .ok (r, w, s') => (r, s'.issue 0 (.walker n w))
  else if c < 0x20 then
    let cu := k.cursor (c - 0x18)
    match k.tileFail cu.tile.toNat with
    | some e => (Row.zero, s.fail e)
    | none =>
      match k.sramFail 0 cu.linear with
      | some e => (Row.zero, s.fail e)
      | none => (k.tileRow cu.tile.toNat cu.row.toNat, s.issue 0 (.step (c - 0x18)))
  else if c = 0x21 then (List.replicate 128 ((k.reg (extReg x)).truncate 32), s)
  else if c = 0x22 then (k.seq.q, s)
  else if 0x30 ≤ c then
    let p := k.pred (c - 0x30)
    (rowOf fun i => if laneOn p i then oneIn f else 0, s)
  else (Row.zero, s)

/-- A row written through a destination code `lat` domain cycles after the slot's issue, in the lanes of a mask: a cursor
leaves the other lanes, a head or walker takes zero there. -/
def State.writeRow (s : State) (code : BitVec 6) (lat : Nat) (mask : Pred) (row : Row) : State :=
  let k := s.me
  let c := code.toNat
  if c < 0x10 then
    if k.engages true c then s.fail { cause := 0x0A, sub := 7 }
    else
      match s.headStore s.cur.task s.cur.core c (blend mask Row.zero row) with
      | .error e => s.fail e
      | .ok (eff, h) => (s.issue 0 (.head c h)).issue (max lat 3) eff
  else if c < 0x18 then
    let n := c - 0x10
    if k.engages false n then s.fail { cause := 0x0A, sub := 7 }
    else
      match k.useWalker n 2 with
      | .error e => s.fail e
      | .ok (a, w) =>
        match s.walkerStore s.cur.task s.cur.core a w (blend mask Row.zero row) with
        | .error e => s.fail e
        | .ok effs => effs.foldl (fun s e => s.issue (walkerDelay lat e) e) (s.issue 0 (.walker n w))
  else if c < 0x20 then
    let cu := k.cursor (c - 0x18)
    match k.tileFail cu.tile.toNat with
    | some e => s.fail e
    | none => (s.issue 0 (.step (c - 0x18))).issue lat (.tileRow cu.tile.toNat cu.row.toNat mask row)
  else s

/-- Lanes of a predicate destination written where a mask is set (06 R121). -/
def State.writePred (s : State) (code : BitVec 6) (lat : Nat) (mask v : Pred) : State :=
  s.issue lat (.pred (code.toNat - 0x30) mask v)

/-! ### Immediates with an ext byte (01 R9) -/

/-- A sign-extended immediate of `n` bits, widened by the ext byte of a header. -/
def immS {n : Nat} (x : Ext) (i : BitVec n) : Int :=
  match x with
  | none => i.toInt
  | some e => sext (n + 8) (e.toNat * 2 ^ n + i.toNat)

/-- A zero-extended immediate, widened by the ext byte of a header. -/
def immU {n : Nat} (x : Ext) (i : BitVec n) : Nat :=
  match x with
  | none => i.toNat
  | some e => e.toNat * 2 ^ n + i.toNat

/-- The widened immediate of a ROWX slot, which a broadcast leaves narrow (01 R10). -/
def rowImm (a : BitVec 6) (x : Ext) : Ext := if a = 0x21 then none else x

end Sys2Proof.Machine
end

