-- ==== Sys2Proof/Machine/Matrix.lean ====
section
/-!
DEFINITION. Class MTX as a slot issues it (07 R134 to R149).  The matrix engine runs by its own count mc, so the mc of
every start, pop and write follows at issue; Array makes them happen.
-/

namespace Sys2Proof.Machine

/-! ### Accumulators (07 R134, 05 R110) -/

def Matrix.elem (m : Matrix) (z r l : Nat) : Int := (get (get m.acc [] (64 * z + r)) 0 l).toInt
def Matrix.rowExpOf (m : Matrix) (z r : Nat) : Int := (get m.rowExp 0 (64 * z + r)).toInt
def Matrix.laneExpOf (m : Matrix) (z l : Nat) : Int := (get m.laneExp 0 (128 * z + l)).toInt

/-- Row `r` of a tile's elements set. -/
def Matrix.setRow (m : Matrix) (z r : Nat) (f : Nat → Int) : Matrix :=
  { m with acc := put m.acc (64 * z + r) ((List.range 128).map fun l => (l, BitVec.ofInt 40 (f l))) }

def Matrix.setRowExp (m : Matrix) (z r : Nat) (v : Int) : Matrix :=
  { m with rowExp := put m.rowExp (64 * z + r) (BitVec.ofInt 8 v) }

def Matrix.setLaneExp (m : Matrix) (z l : Nat) (v : Int) : Matrix :=
  { m with laneExp := put m.laneExp (128 * z + l) (BitVec.ofInt 8 v) }

/-- A tile of zeros: elements, exponents and ACCOVF. -/
def Matrix.clearTile (m : Matrix) (z : Nat) : Matrix :=
  { m with
    acc := m.acc.filter fun e => e.1 / 64 ≠ z
    rowExp := m.rowExp.filter fun e => e.1 / 64 ≠ z
    laneExp := m.laneExp.filter fun e => e.1 / 128 ≠ z
    ovf := m.ovf &&& ~~~BitVec.ofNat 24 (2 ^ z) }

/-! ### Segments (07 R138) -/

def WbSlot.header (w : WbSlot) : Nat := leNat (w.bytes.take 8)

def segPlanes (h : Nat) : Nat := h % 64
def segSp (h : Nat) : Bool := h / 2 ^ 6 % 2 = 1
def segExp (h : Nat) : Bool := h / 2 ^ 7 % 2 = 1
def segWidth (h : Nat) : Nat := h / 2 ^ 8 % 4
def segLive (h : Nat) : Nat := h / 2 ^ 16 % 256
def segRecord (h : Nat) : Nat := if segSp h then 64 else 32
def segExpBytes (h : Nat) : Nat := if segExp h then ceilDiv (segLive h) 64 * 64 else 0

/-- Bytes of the segment that a header announces. -/
def segLength (h : Nat) : Nat := 64 + segExpBytes h + popcount 6 (segPlanes h) * segLive h * segRecord h

/-- Whether the first 64 bytes of popped bytes form a legal header of a segment they hold (07 R141). -/
def segOk (l : List Byte) : Bool :=
  let h := leNat (l.take 8)
  h / 2 ^ 10 % 2 ^ 6 = 0 && h / 2 ^ 24 = 0 && ((l.take 64).drop 8).all (· = 0) && segPlanes h ≠ 0 && segLive h ≤ 128 &&
    segLength h ≤ 16384 && segLength h ≤ l.length

/-- The live columns of a bitmap, in increasing order. -/
def liveCols (b : BitVec 512) : List Nat := (List.range 512).filter (bitAt b ·)

/-- Trit `i` of a record. -/
def recordTrit (l : List Byte) (i : Nat) : Nat := (l.getD (i / 4) 0).toNat / 4 ^ (i % 4) % 4

/-- K position of value `i` of a record (07 R138). -/
def recordPos (sp : Bool) (l : List Byte) (i : Nat) : Nat := if sp then 4 * (i / 2) + recordTrit l (128 + i) else i

/-- A plane of a slot, as a load takes it, with what forbids it: the checks of 07 R143; and whether it holds poison in a
live column. -/
def Core.segmentPlane (c : Core) (wb k : Nat) : Res (Plane × Nat × Bool) :=
  let w := get c.mtx.slots WbSlot.start wb
  let h := w.header
  let live := liveCols w.bitmap
  let base := 64 + segExpBytes h + popcount k (segPlanes h) * segLive h * segRecord h
  let recs := (List.range live.length).map fun j => (w.bytes.drop (base + j * segRecord h)).take (segRecord h)
  let ordered (l : List Byte) : Bool := (List.range 64).all fun g => recordTrit l (128 + 2 * g) < recordTrit l (129 + 2 * g)
  if !w.valid || segPlanes h / 2 ^ k % 2 = 0 then .error { cause := 0x0A, sub := 3 }
  else if live.length ≠ segLive h || live.any (128 * (segWidth h + 1) ≤ ·) then .error { cause := 0x0A, sub := 2 }
  else if segSp h && !recs.all ordered then .error { cause := 0x0A, sub := 8 }
  else
    match c.sramFail 2 wb with
    | some f => .error f
    | none =>
      let trits (l : List Byte) : List (Nat × Bool) := (List.range 128).filterMap fun i =>
        match recordTrit l i with
        | 1 => some (recordPos (segSp h) l i, false)
        | 3 => some (recordPos (segSp h) l i, true)
        | _ => none
      let y (j : Nat) : Int := if segExp h then sext 8 (w.bytes.getD (64 + j) 0).toNat else 0
      .ok ({ Plane.start with
          wb := wb, k := k, ok := true, sp := segSp h, bitmap := w.bitmap
          cols := (List.range live.length).map fun j => (live.getD j 0, y j, trits (recs.getD j [])) },
        segWidth h, recs.any fun l => (List.range 128).any fun i => recordTrit l i = 2)

/-! ### Queues and sources (07 R137) -/

/-- The slot being run's mc of issue. -/
def State.mc (s : State) : Nat := s.myTask.mc

/-- Commands of the matrix engine that have issued and not started at an mc: WBFILL, MLDW, MMA and MMAZ.  An implicit load is part of its
MMA, and AWR, ANORM, the AEXP write, AZERO and MBMAP wait in no queue (07 R137; log 122). -/
def Matrix.waiting (m : Matrix) (mc : Nat) : Nat :=
  (m.fills.filter fun f => mc < f.start).length + (m.loads.filter fun l => mc < l.start && !l.implicit).length +
    (m.mmas.filter fun f => mc < f.start).length

/-- Whether a fifth waiting command would be refused (07 R137). -/
def State.queueFull (s : State) : Bool := 4 ≤ s.me.mtx.waiting s.mc

/-- The rows that a command pops at given mcs: their source, the tile uses and the engagement it makes, and the state in
which its cursor steps. -/
def State.mtxSource (s : State) (code : BitVec 6) (x : Ext) (whens : List Nat) :
    RowSource × List (Nat × Nat) × List Engaged × State :=
  let c := code.toNat
  let k := s.me
  let last := whens.foldl max 0
  if c < 0x18 then
    let isHead := c < 0x10
    let n := if isHead then c else c - 0x10
    let s' := if k.engages isHead n then s.fail { cause := 0x0A, sub := 7 } else s
    ((if isHead then .head n else .walker n), [], [⟨isHead, n, some last, none⟩], s')
  else if c < 0x20 then
    let cu := k.cursor (c - 0x18)
    let places := (List.range whens.length).map fun j => cu.after (twinEn k.twin) j
    let s' := match places.findSome? fun p => k.tileFail p.tile.toNat with
      | some f => s.fail f
      | none => s.issue 0 (.mtxSteps (c - 0x18) whens.length)
    (.tileRows (places.map Cursor.linear), (places.zip whens).map fun e => (e.1.tile.toNat, e.2), [], s')
  else
    let (row, s') := s.readRow code x 0
    (.fixed row, [], [], s')

/-- One row popped at issue, for MBMAP, ANORM and the AEXP write: a cursor steps once for it beside any row slot's step (log 123). -/
def State.mtxPop (s : State) (code : BitVec 6) (x : Ext) : Row × State :=
  let c := code.toNat
  if 0x18 ≤ c && c < 0x20 then
    let cu := s.me.cursor (c - 0x18)
    match s.me.tileFail cu.tile.toNat, s.me.sramFail 0 cu.linear with
    | some f, _ | none, some f => (Row.zero, s.fail f)
    | none, none => (s.me.tileRow cu.tile.toNat cu.row.toNat, s.issue 0 (.mtxSteps (c - 0x18) 1))
  else s.readRow code x 0

/-- One row of a read form owed through a head or a walker; the second state only follows where the resource stands. -/
def State.mtxPut (s : State) (isHead : Bool) (i lat : Nat) (acc : State × State) (e : Nat × Row) : State × State :=
  let (st, scratch) := acc
  if isHead then
    match scratch.headStore s.cur.task s.cur.core i e.2 with
    | .error f => (st.fail f, scratch)
    | .ok (eff, h) =>
      (st.issue (max (lat + e.1) 3) eff, scratch.setCore s.cur.task s.cur.core fun q => { q with h := Machine.put q.h i h })
  else
    match (scratch.core s.cur.task s.cur.core).useWalker i 2 with
    | .error f => (st.fail f, scratch)
    | .ok (a, w) =>
      match scratch.walkerStore s.cur.task s.cur.core a w e.2 true with
      | .error f => (st.fail f, scratch)
      | .ok effs =>
        let next := effs.foldl (fun sc f => match f with
          | .leafNext core leaf v => sc.setCore s.cur.task core fun q => { q with
              leaf := upd q.leaf LeafEntry.start leaf fun l => { l with next := v } }
          | _ => sc) scratch
        (effs.foldl (fun st f => st.issue (walkerDelay (lat + e.1) f) f) st,
          next.setCore s.cur.task s.cur.core fun q => { q with w := Machine.put q.w i w })

/-- The rows of a read form written through a head or a walker at dc n + lat + j. -/
def State.mtxThrough (s : State) (isHead : Bool) (i lat : Nat) (rows : List Row) (g : Matrix → Matrix) : State :=
  let k := s.me
  let n := rows.length
  if k.engages isHead i then s.fail { cause := 0x0A, sub := 7 }
  else
    let (s1, scratch) := ((List.range n).zip rows).foldl (s.mtxPut isHead i lat) (s, s)
    let moved := scratch.core s.cur.task s.cur.core
    (s1.issue 0 (if isHead then .head i (moved.head i) else .walker i (moved.walker i))).issue 0 (.matrix (g { k.mtx with
      engaged := k.mtx.engaged ++ [⟨isHead, i, none, some (s.dc + max (lat + n - 1) (if isHead then 3 else 2))⟩] }))

/-- The rows of a read form written through a destination at dc n + lat + j (07 R147, R148); `g` is what else the
instruction makes of the matrix unit. -/
def State.mtxStore (s : State) (code : BitVec 6) (lat : Nat) (rows : List Row) (g : Matrix → Matrix := id) : State :=
  let c := code.toNat
  let k := s.me
  let n := rows.length
  if c < 0x10 then s.mtxThrough true c lat rows g
  else if c < 0x18 then s.mtxThrough false (c - 0x10) lat rows g
  else
    let cu := k.cursor (c - 0x18)
    let places := (List.range n).map fun j => cu.after (twinEn k.twin) j
    match places.findSome? fun p => k.tileFail p.tile.toNat with
    | some f => s.fail f
    | none =>
      let s1 := ((List.range n).zip (places.zip rows)).foldl (fun st e =>
        st.issue (lat + e.1) (.mtxRow e.2.1.tile.toNat e.2.1.row.toNat e.2.2)) (s.issue 0 (.mtxSteps (c - 0x18) n))
      s1.issue 0 (.matrix (g { k.mtx with
        uses := k.mtx.uses ++ ((List.range n).zip places).map fun e => (e.2.tile.toNat, s.mc + lat + e.1) }))

/-! ### Filling (07 R141 to R143) -/

/-- A WBFILL or MBMAP clears the tag of every plane that names the slot, but that of a claimed shadow not yet swapped
(07 R139). -/
def Plane.clearTag (p : Plane) (wb mc : Nat) : Plane :=
  let kept := match p.claim with
    | some c => mc < c
    | none => false
  if p.wb = wb && !kept then { p with ok := false } else p

def Matrix.clearTags (m : Matrix) (wb mc : Nat) : Matrix :=
  { m with
    active := m.active.clearTag wb mc
    shadow := m.shadow.clearTag wb mc
    nextActive := m.nextActive.clearTag wb mc
    nextShadow := m.nextShadow.clearTag wb mc
    loads := m.loads.map fun l => { l with plane := l.plane.clearTag wb mc } }

/-- The mc at which every load of a slot issued so far has finished reading. -/
def Matrix.readsEnd (m : Matrix) (wb : Nat) : Nat :=
  (m.loads.filter fun l => l.plane.wb = wb).foldl (fun e l => max e (l.start + 32)) 0

/-- WBFILL (07 R141). -/
def execWbfill (sc : BitVec 6) (w : BitVec 4) (n : BitVec 3) (x : Ext) (s : State) : Out :=
  let m := s.me.mtx
  let rows := 2 ^ n.toNat
  let start := max (s.mc + 1) (max m.fillFree (m.readsEnd w.toNat))
  let (src, uses, engaged, s1) := s.mtxSource sc x ((List.range rows).map (start + ·))
  let m1 := m.clearTags w.toNat s.mc
  .next (if s.queueFull then s.trap 5 2
    else s1.issue 0 (.matrix { m1 with
      fills := m1.fills ++ [⟨s.nextId, s.me.pc, s.cur.slot, w.toNat, rows, src, start, []⟩]
      busySlot := m1.busySlot ++ [(w.toNat, start + rows)]
      fillFree := start + rows
      engaged := m1.engaged ++ engaged
      uses := m1.uses ++ uses }))

/-- Queue a plane load at an mc of issue: it starts once the decompressor is idle and the shadow unclaimed. -/
def Matrix.queueLoad (m : Matrix) (id mc : Nat) (p : Plane) (implicit : Bool) : Matrix × Plane :=
  let start := max (mc + 1) (max m.loadFree m.swapAt)
  let p' := { p with id := id, validAt := start + 32 }
  ({ m with loads := m.loads ++ [⟨p', start, implicit⟩], loadFree := start + 32, nextShadow := p' }, p')

/-- MLDW (07 R143): the load is queued whether or not the plane lookup would find the plane in place (07 R139; log 126). -/
def execMldw (w : BitVec 4) (k : BitVec 3) (s : State) : Out :=
  .next (if s.queueFull then s.trap 5 2
    else match s.me.segmentPlane w.toNat k.toNat with
      | .error f => s.fail f
      | .ok (p, _, _) => s.issue 0 (.matrix (s.me.mtx.queueLoad s.nextId s.mc p false).1))

/-- MBMAP (07 R142): one row popped at issue; the bitmap takes effect at issue + 1 mc. -/
def execMbmap (sc : BitVec 6) (w : BitVec 4) (x : Ext) (s : State) : Out :=
  let (row, s1) := s.mtxPop sc x
  let b := BitVec.ofNat 512 (total ((List.range 16).map fun i => (lane row i).toNat * 2 ^ (32 * i)))
  let m := s.me.mtx.clearTags w.toNat s.mc
  .next (s1.issue 0 (.matrix { m with writes := m.writes ++ [⟨s.nextId, s.me.pc, s.cur.slot, w.toNat, s.mc + 1, .bitmap b⟩] }))

/-! ### MMA (07 R139, R144) -/

/-- The plane that an MMA uses: the active one, the shadow, or an implicit load; the matrix with it claimed or queued, its
mc of validity, whether a swap is made, the tiles it spans beyond the first, and whether a live column holds poison (the
active plane holds none: the MMA that swapped it in looked).  WIDTH and the poison of a plane that is in place are those of what its slot
holds now (07 R144; log 127). -/
def State.planeFor (s : State) (wb k : Nat) : Res (Plane × Matrix × Bool × Nat × Bool) :=
  let m := s.me.mtx
  let named (p : Plane) : Bool := p.ok && p.wb = wb && p.k = k
  match s.me.segmentPlane wb k with
  | .error f =>
    if named m.nextActive || named m.nextShadow then
      let p := if named m.nextActive then m.nextActive else m.nextShadow
      .ok (p, m, !named m.nextActive, segWidth (get m.slots WbSlot.start wb).header, false)
    else .error f
  | .ok (p, width, poison) =>
    if named m.nextActive then .ok (m.nextActive, m, false, width, false)
    else if named m.nextShadow then .ok (m.nextShadow, m, true, width, poison)
    else
      let (m', p') := m.queueLoad s.nextId s.mc p true
      .ok (p', m', true, width, poison)

/-- Mark the plane that an MMA swaps in at an mc: it becomes the active one, the old active one the shadow, which an earlier MMA
may have claimed and not yet swapped in. -/
def Matrix.claim (m : Matrix) (p : Plane) (start : Nat) : Matrix :=
  let p' := { p with claim := some start }
  let mark (q : Plane) : Plane := if q.id = p.id && p.id ≠ 0 then { q with claim := some start } else q
  { m with
    active := mark m.active
    shadow := mark m.shadow
    loads := m.loads.map fun l => { l with plane := mark l.plane }
    nextActive := p'
    nextShadow := mark m.nextActive
    swapAt := start }

/-- Whether a plane has no live column, or only zero trits in its live columns. -/
def Plane.empty (p : Plane) : Bool := p.cols.all fun c => c.2.2.isEmpty

/-- MMA or MMAZ (07 R144). -/
def State.mma (s : State) (zero : Bool) (z : BitVec 5) (sc : BitVec 6) (w : BitVec 4) (k : BitVec 3) (p : BitVec 1)
    (n : BitVec 3) (x : Ext) : Out :=
  .next (if s.queueFull then s.trap 5 2
    else match s.planeFor w.toNat k.toNat with
      | .error f => s.fail f
      | .ok (plane, m, swap, width, poison) =>
        if 23 < z.toNat + width then s.trap 0x0A 5
        else if (p = 1) ≠ (plane.sp = true) then s.trap 0x0A 6
        else if poison then s.trap 8 0
        else
          let rows := 2 ^ n.toNat
          let act := fmtAct s.myFmt
          let step := if act = 2 || act = 6 || act = 7 then 2 else 1
          let start := max (s.mc + 1) (max plane.validAt m.inputFree)
          let each := if plane.sp then 2 else 1
          let whens := (List.range (rows * each)).map fun i => start + step * (i / each)
          let (src, uses, engaged, s1) := s.mtxSource sc x whens
          let m1 := if swap then m.claim plane start else m
          let done := if plane.empty then start + step * rows else start + step * (rows - 1) + 257
          s1.issue 0 (.matrix { m1 with
            mmas := m1.mmas ++ [⟨s.nextId, s.me.pc, s.cur.slot, zero, z.toNat, width, plane, swap, rows, step, src,
              s.myFmt, start, [], [], []⟩]
            busyTile := m1.busyTile ++ (List.range (width + 1)).map fun i => (z.toNat + i, done, true)
            inputFree := start + step * (rows - 1) + 1
            engaged := m1.engaged ++ engaged
            uses := m1.uses ++ uses }))

/-- MMA (07 R144): accumulates onto the tiles. -/
def execMma (z : BitVec 5) (sc : BitVec 6) (w : BitVec 4) (k : BitVec 3) (p : BitVec 1) (n : BitVec 3) (x : Ext)
    (s : State) : Out := s.mma false z sc w k p n x

/-- MMAZ (07 R144): zeroes the tiles first. -/
def execMmaz (z : BitVec 5) (sc : BitVec 6) (w : BitVec 4) (k : BitVec 3) (p : BitVec 1) (n : BitVec 3) (x : Ext)
    (s : State) : Out := s.mma true z sc w k p n x

/-! ### Accumulators in and out (07 R146 to R148) -/

/-- An owed accumulator write at issue + 2 mc, the tile busy until it has performed. -/
def State.accWrite (s1 : State) (s : State) (z : Nat) (op : AccOp) : State :=
  let m := s.me.mtx
  s1.issue 0 (.matrix { m with
    writes := m.writes ++ [⟨s.nextId, s.me.pc, s.cur.slot, z, s.mc + 2, op⟩]
    busyTile := m.busyTile ++ [(z, s.mc + 3, false)] })

/-- ANORM (07 R146): it reads the accumulators' row exponents at issue. -/
def execAnorm (z : BitVec 5) (sc : BitVec 6) (x : Ext) (s : State) : Out :=
  let (row, s1) := s.mtxPop sc x
  let shifts := (List.range 64).map fun r => (lane row r).toNat % 64
  .next (match s.me.sramFail 1 z.toNat with
  | some e => s.fail e
  | none => if (List.range 64).any fun r => 127 < s.me.mtx.rowExpOf z.toNat r + (shifts.getD r 0 : Nat) then s.trap 0x0A 4
    else s1.accWrite s z.toNat (.norm shifts))

/-- The element that ARD gives (07 R147, 05 R110). -/
def State.ardElem (s : State) (z r l : Nat) (ieee : Bool) : Lane :=
  let m := s.me.mtx
  let out := fmtOut s.myFmt
  let e := m.elem z r l
  let v := convert s.modes out (!ieee) (.fin (e < 0) e.natAbs (m.rowExpOf z r + m.laneExpOf z l))
  extend out (if ieee && out = 4 && compatArdE4sat s.me.cmpat && v % 128 = 0x7F then 0x7E + signBit 4 (e < 0) else v)

/-- ARD (07 R147): accumulator rows converted to FMT.OUT, row j written at n + 4 + j. -/
def execArd (z : BitVec 5) (d : BitVec 6) (r : BitVec 7) (e : BitVec 1) (n : BitVec 3) (s : State) : Out :=
  .next (match s.me.sramFail 1 z.toNat with
    | some f => s.fail f
    | none => s.mtxStore d 4 ((List.range (2 ^ n.toNat)).map fun j =>
        rowOf fun l => s.ardElem z.toNat (r.toNat + j) l (e = 1)))

/-- AWR (07 R148): row j pops at issue + 1 + j mc and is written one mc later. -/
def execAwr (z : BitVec 5) (sc : BitVec 6) (r : BitVec 7) (g : BitVec 1) (n : BitVec 3) (x : Ext) (s : State) : Out :=
  let rows := 2 ^ n.toNat
  let start := s.mc + 1
  let (src, uses, engaged, s1) := s.mtxSource sc x ((List.range rows).map (start + ·))
  let m := s.me.mtx
  .next (s1.issue 0 (.matrix { m with
    awrs := m.awrs ++ [⟨s.nextId, s.me.pc, s.cur.slot, z.toNat, r.toNat, rows, g = 1, src, start⟩]
    busyTile := m.busyTile ++ [(z.toNat, s.mc + rows + 2, false)]
    engaged := m.engaged ++ engaged
    uses := m.uses ++ uses }))

/-- AEXP, write form (07 R148): its row is popped at issue, its write is at issue + 2 mc (log 123). -/
def execAexpWrite (z : BitVec 5) (sc : BitVec 6) (y : BitVec 1) (x : Ext) (s : State) : Out :=
  let (row, s1) := s.mtxPop sc x
  .next (s1.accWrite s z.toNat (.writeExps (y = 1) row))

/-- A read form: one row written through a destination at n + 2. -/
def State.readForm (s : State) (z : Nat) (d : BitVec 6) (f : Nat → Lane) (g : Matrix → Matrix := id) : State :=
  match s.me.sramFail 1 z with
  | some e => s.fail e
  | none => s.mtxStore d 2 [rowOf f] g

/-- AEXP, read form (07 R148). -/
def execAexpRead (z : BitVec 5) (d : BitVec 6) (y : BitVec 1) (s : State) : Out :=
  let m := s.me.mtx
  .next (s.readForm z.toNat d fun l =>
    if y = 1 then BitVec.ofInt 32 (m.laneExpOf z.toNat l)
    else if l < 64 then BitVec.ofInt 32 (m.rowExpOf z.toNat l) else 0)

/-- AGRD (07 R148): mantissas or guards of one row. -/
def execAgrd (z : BitVec 5) (d : BitVec 6) (r : BitVec 7) (p : BitVec 1) (s : State) : Out :=
  .next (s.readForm z.toNat d fun l =>
    let e := BitVec.ofInt 40 (s.me.mtx.elem z.toNat r.toNat l)
    if p = 1 then BitVec.ofInt 32 (sext 8 (bits e 32 8)) else e.truncate 32)

/-- AZERO (07 R148). -/
def execAzero (z : BitVec 5) (s : State) : Out := .next (s.accWrite s z.toNat .clear)

/-- A plane's tag as MSTAT shows it. -/
def Plane.tag (p : Plane) (mc : Nat) (shadow : Bool) : Nat :=
  let claimed := match p.claim with
    | some c => mc < c
    | none => false
  p.wb + p.k * 2 ^ 4 + (p.ok && p.validAt ≤ mc).toNat * 2 ^ 7 + p.sp.toNat * 2 ^ 8 +
    (shadow && (mc < p.validAt || claimed)).toNat * 2 ^ 9

/-- The header lane of MSTAT. -/
def WbSlot.lane (w : WbSlot) : Nat :=
  let h := w.header
  if w.valid then segLive h + segWidth h * 2 ^ 8 + segPlanes h * 2 ^ 10 + (segSp h).toNat * 2 ^ 16 + 2 ^ 17 else 0

/-- MSTAT (07 R148). -/
def execMstat (z : BitVec 5) (d : BitVec 6) (w : BitVec 4) (c : BitVec 1) (s : State) : Out :=
  let m := s.me.mtx
  let slot := get m.slots WbSlot.start w.toNat
  let status (l : Nat) : Lane := BitVec.ofNat 32 (match l with
    | 0 => (bitAt m.ovf z.toNat).toNat
    | 1 => m.active.tag s.mc false
    | 2 => m.shadow.tag s.mc true
    | 3 => popcount 512 slot.bitmap.toNat
    | 4 => slot.lane
    | _ => 0)
  .next (match s.me.sramFail 2 w.toNat with
  | some e => s.fail e
  | none => s.readForm z.toNat d status fun m' =>
    if c = 1 then { m' with writes := m'.writes ++ [⟨s.nextId, s.me.pc, s.cur.slot, z.toNat, s.mc + 1, .clearOvf⟩] } else m')

/-- MWAIT (07 R148): the wait is its whole effect, and it is over when the bundle issues. -/
def execMwait (_z : BitVec 5) (_w : BitVec 4) (_s : BitVec 3) (s : State) : Out := .next s

end Sys2Proof.Machine
end

