-- ==== Sys2Proof/Machine/Array.lean ====
section
/-!
DEFINITION. The matrix engine at one mc (07 R135, R141 to R148): pops, fills, plane loads, input starts, row performs and
accumulator writes.
-/

namespace Sys2Proof.Machine

def State.setMtx (s : State) (t c : Nat) (f : Matrix → Matrix) : State := s.setCore t c fun k => { k with mtx := f k.mtx }

/-! ### Pops (07 R137) -/

/-- Row `j` of a source, popped by the engine for a command of a slot; a read of scratchpad through a walker is kept as the engine's. -/
def State.popSource (s : State) (t c pc slot : Nat) (src : RowSource) (j : Nat) : Res (Row × State) :=
  match src with
  | .fixed r => .ok (r, s)
  | .tileRows l =>
    let x := l.getD j 0
    match (s.core t c).sramFail 0 x with
    | some f => .error f
    | none => .ok ((s.core t c).tileRow (x / 16) (x % 16), s)
  | .head h =>
    match s.deliver t c h with
    | .error f => .error f
    | .ok (r, hd) => .ok (r, s.setCore t c fun k => { k with h := put k.h h hd })
  | .walker w =>
    match s.popWalker t c w pc with
    | .error f => .error f
    | .ok (r, wk, s') =>
      let new := (s'.reads.drop s.reads.length).map fun x => { x with engine := 4, slot := slot }
      .ok (r, { s' with reads := s.reads ++ new }.setCore t c fun k => { k with w := put k.w w wk })

/-- A trap of an MTX command at an mc (17 R306). -/
def State.mtxTrap (s : State) (t c pc slot : Nat) (f : Fail) : State := s.trapAt t c pc slot 4 f.cause f.sub f.fill

/-- The 512 bytes of a popped row (07 R141). -/
def rowBytes (r : Row) : List Byte := r.flatMap fun l => leBytes 4 l.toNat

/-- Pop the row that a fill takes at an mc. -/
def State.popFill (s : State) (t c mc : Nat) (f : FillCmd) : State :=
  if f.start ≤ mc && mc < f.start + f.rows then
    match s.popSource t c f.pc f.slot f.src (mc - f.start) with
    | .error e => s.mtxTrap t c f.pc f.slot e
    | .ok (row, s') => s'.setMtx t c fun m => { m with
        fills := m.fills.map fun g => if g.id = f.id then { g with bytes := g.bytes ++ rowBytes row } else g }
  else s

/-- Pop the row that an AWR takes at an mc; it is written one mc later. -/
def State.popAwr (s : State) (t c mc : Nat) (a : AwrCmd) : State :=
  if a.start ≤ mc && mc < a.start + a.rows then
    match s.popSource t c a.pc a.slot a.src (mc - a.start) with
    | .error e => s.mtxTrap t c a.pc a.slot e
    | .ok (row, s') => s'.setMtx t c fun m => { m with
        writes := m.writes ++ [⟨a.id, a.pc, a.slot, a.tile, mc + 1, .writeRow (a.row0 + (mc - a.start)) a.guard row⟩] }
  else s

/-- Activations aligned to integers (05 R108); none where one is not finite. -/
def alignRow (act : Nat) (flush : Bool) (l : List Nat) : Option (List Int × Int) :=
  if isFloatFmt act then
    let vs := l.map fun v => floatValue act flush v
    if vs.any fun v => match v with
      | .fin .. => false
      | _ => true
    then none
    else
      let tops := vs.filterMap fun v => match v with
        | .fin _ m e => if m = 0 then none else some ((log2 m : Int) + e)
        | _ => none
      match tops with
      | [] => some (l.map fun _ => 0, 0)
      | x :: rest =>
        let w : Int := if act = 4 || act = 5 then 6 else 14
        let xr := max (rest.foldl max x - w) (-128)
        some (vs.map fun v => match v with
          | .fin neg m e => roundInt 0 neg m (e - xr)
          | _ => 0, xr)
  else some (l.map fun v => intOf act v, 0)

/-- The rows that an MMA consumes at an mc: aligned, and owed to the tiles 256 mc later (07 R144). -/
def State.popMma (s : State) (t c mc : Nat) (a : MmaCmd) : State :=
  let j := (mc - a.start) / a.step
  if a.start ≤ mc && (mc - a.start) % a.step = 0 && j < a.rows then
    let each := if a.plane.sp then 2 else 1
    let act := fmtAct a.fmt
    let popped := (List.range each).foldl (fun (r : Res (List Nat × State)) i =>
      match r with
      | .error e => .error e
      | .ok (l, st) =>
        match st.popSource t c a.pc a.slot a.src (each * j + i) with
        | .error e => .error e
        | .ok (row, st') => .ok (l ++ row.map (elemOf act ·), st')) (.ok ([], s))
    match popped with
    | .error e => s.mtxTrap t c a.pc a.slot e
    | .ok (l, s') =>
      match alignRow act (modesOf a.fmt (s.core t c).cmpat).flush l with
      | none => s'.mtxTrap t c a.pc a.slot { cause := 7, sub := 2 }
      | some (q, x) => s'.setMtx t c fun m => { m with
          mmas := m.mmas.map fun b => if b.id = a.id then { b with
            scales := b.scales ++ [x]
            inFlight := if b.plane.empty then b.inFlight else b.inFlight ++ [⟨j, mc + 256, q, x⟩] } else b }
  else s

/-- Every pop of a core's matrix engine at an mc. -/
def State.mtxPops (s : State) (t c : Nat) : State :=
  let mc := (s.task t).mc
  let m := (s.core t c).mtx
  let s1 := m.fills.foldl (fun s f => s.popFill t c mc f) s
  let s2 := m.awrs.foldl (fun s a => s.popAwr t c mc a) s1
  m.mmas.foldl (fun s a => s.popMma t c mc a) s2

/-- Heads that a core's matrix engine pops at an mc, with the rows it pops (08 R163). -/
def Matrix.headPops (m : Matrix) (mc : Nat) : List (Nat × Nat) :=
  let of' (src : RowSource) (n : Nat) : List (Nat × Nat) := match src with
    | .head h => [(h, n)]
    | _ => []
  (m.fills.flatMap fun f => if f.start ≤ mc && mc < f.start + f.rows then of' f.src 1 else []) ++
    (m.awrs.flatMap fun f => if f.start ≤ mc && mc < f.start + f.rows then of' f.src 1 else []) ++
    m.mmas.flatMap fun f => if f.start ≤ mc && (mc - f.start) % f.step = 0 && (mc - f.start) / f.step < f.rows then
      of' f.src (if f.plane.sp then 2 else 1) else []

/-! ### Fills and plane loads (07 R141, R143) -/

/-- WBFILL_COMPLETE: the first 16,384 bytes popped become the slot's content; a bad header is the matrix trap 0x1. -/
def execWbfillComplete (t c id : Nat) (s : State) : Out :=
  let m := (s.core t c).mtx
  .next (match m.fills.find? (·.id = id) with
    | none => s
    | some f =>
      if (s.task t).mc < f.start + f.rows then s
      else
        let s1 := s.setMtx t c fun m => { m with fills := m.fills.filter (·.id ≠ id) }
        if segOk (f.bytes.take 16384) then
          s1.setMtx t c fun m => { m with
            slots := upd m.slots WbSlot.start f.wb fun w => { w with bytes := f.bytes.take 16384, valid := true } }
        else s1.mtxTrap t c f.pc f.slot { cause := 0x0A, sub := 1 })

/-- A load starts: its plane takes the shadow, not yet valid. -/
def Matrix.startLoads (m : Matrix) (mc : Nat) : Matrix :=
  match m.loads.find? (·.start = mc) with
  | some l => { m with shadow := l.plane }
  | none => m

/-- PLANE_LOAD_COMPLETE: the shadow's new tag is valid from here on. -/
def execPlaneLoadComplete (t c id : Nat) (s : State) : Out :=
  .next (match (s.core t c).mtx.loads.find? fun l => l.plane.id = id && l.plane.validAt ≤ (s.task t).mc with
    | none => s
    | some _ => s.setMtx t c fun m => { m with loads := m.loads.filter (·.plane.id ≠ id) })

/-! ### MMA (07 R144) -/

def sat40 (v : Int) : Int := clamp (-((2 ^ 39 : Nat) : Int)) (((2 ^ 39 : Nat) : Int) - 1) v

/-- Sat40 of an element of a tile, a clamp setting its ACCOVF. -/
def Matrix.setElem (m : Matrix) (z r l : Nat) (v : Int) : Matrix :=
  { m with
    acc := upd m.acc [] (64 * z + r) fun row => put row l (BitVec.ofInt 40 (sat40 v))
    ovf := if sat40 v = v then m.ovf else m.ovf ||| BitVec.ofNat 24 (2 ^ z) }

/-- Accumulate(tz, r, lane, T, xr, y). -/
def Matrix.accumulate (m : Matrix) (z r l : Nat) (v xr y : Int) : Matrix :=
  let shl (m : Matrix) (r l : Nat) (d : Int) : Matrix := m.setElem z r l (m.elem z r l * ((2 ^ d.toNat : Nat) : Int))
  let m1 := if xr < m.rowExpOf z r then
      ((List.range 128).foldl (fun a i => shl a r i (m.rowExpOf z r - xr)) m).setRowExp z r xr
    else m
  let m2 := if y < m1.laneExpOf z l then
      ((List.range 64).foldl (fun a i => shl a i l (m1.laneExpOf z l - y)) m1).setLaneExp z l y
    else m1
  m2.setElem z r l (m2.elem z r l + v * ((2 ^ (xr - m2.rowExpOf z r + y - m2.laneExpOf z l).toNat : Nat) : Int))

/-- The exact column sum T of an activation row (07 R144). -/
def columnSum (k : Nat) (sub : Bool) (q : List Int) (trits : List (Nat × Bool)) : Int :=
  let sum := trits.foldl (fun a e => if e.2 then a - q.getD e.1 0 else a + q.getD e.1 0) (0 : Int)
  (if sub then -1 else 1) * ((3 ^ k : Nat) : Int) * sum

/-- One live column of a row: MMAZ zeroes the tile at its first write and sets the row's exponent at the row's first. -/
def Matrix.column (acc : Matrix × List Nat × List Nat) (a : MmaCmd) (row : MmaRow) (col : Nat × Int × List (Nat × Bool)) :
    Matrix × List Nat × List Nat :=
  let (m, touched, rowed) := acc
  let z := a.z + col.1 / 128
  let m1 := if a.zero && !touched.contains z then
      (a.plane.cols.filter fun e => a.z + e.1 / 128 = z).foldl (fun m e => m.setLaneExp z (e.1 % 128) e.2.1) (m.clearTile z)
    else m
  let m2 := if a.zero && !rowed.contains z then m1.setRowExp z row.row row.scale else m1
  (m2.accumulate z row.row (col.1 % 128) (columnSum a.plane.k (fmtAcc a.fmt = 1) row.q col.2.2) row.scale col.2.1,
    if touched.contains z then touched else touched ++ [z], if rowed.contains z then rowed else rowed ++ [z])

/-- Tiles of an MMAZ that no live column with a write has zeroed, zeroed with the row scales as exponents. -/
def Matrix.zeroRest (m : Matrix) (a : MmaCmd) (touched : List Nat) : Matrix :=
  ((List.range (a.width + 1)).map (a.z + ·)).foldl (fun m z =>
    if a.zero && !touched.contains z then
      (List.range a.scales.length).foldl (fun m j => m.setRowExp z j (a.scales.getD j 0)) (m.clearTile z)
    else m) m

/-- MMA_INPUT_START: the claimed shadow is swapped in; a later MMA may have claimed either plane already (07 R139). -/
def execMmaInputStart (t c id : Nat) (s : State) : Out :=
  .next (match (s.core t c).mtx.mmas.find? fun a => a.id = id && a.start = (s.task t).mc && a.swap with
    | none => s
    | some a => s.setMtx t c fun m => { m with
        active := { a.plane with
          ok := m.shadow.ok && m.shadow.id = a.plane.id
          claim := if m.shadow.id = a.plane.id then m.shadow.claim else some a.start }
        shadow := m.active })

/-- The SRAM error of accumulator tiles that are read (17 R303). -/
def Core.accFail (k : Core) (tiles : List Nat) : Option Fail := tiles.findSome? (k.sramFail 1)

/-- The tiles whose elements a row of a command reads: those of its live columns, but for one that it zeroes first. -/
def MmaCmd.reads (a : MmaCmd) : List Nat :=
  (a.plane.cols.map fun col => a.z + col.1 / 128).filter fun z => !a.zero || a.touched.contains z

/-- MMA_ROW_PERFORM: the row due at this mc accumulates into its tiles; with the last row the command ends. -/
def execMmaRowPerform (t c id : Nat) (s : State) : Out :=
  let mc := (s.task t).mc
  .next (match (s.core t c).mtx.mmas.find? (·.id = id) with
    | none => s
    | some a =>
      let due := a.inFlight.filter (·.mc ≤ mc)
      let m := (s.core t c).mtx
      match (if due.isEmpty then none else (s.core t c).accFail a.reads) with
      | some f => s.mtxTrap t c a.pc a.slot f
      | none =>
      let (m1, touched) := due.foldl (fun (acc : Matrix × List Nat) row =>
        let r := a.plane.cols.foldl (fun x col => Matrix.column x a row col) (acc.1, acc.2, [])
        (r.1, r.2.1)) (m, a.touched)
      let left := a.inFlight.filter (mc < ·.mc)
      let ended := if a.plane.empty then decide (a.start + a.step * a.rows ≤ mc) else a.scales.length = a.rows && left.isEmpty
      let m2 := if ended then { m1.zeroRest a touched with mmas := m1.mmas.filter (·.id ≠ id) }
        else { m1 with mmas := m1.mmas.map fun b => if b.id = id then { b with inFlight := left, touched := touched } else b }
      s.setMtx t c fun _ => m2)

/-! ### Accumulator writes (07 R146, R148) -/

/-- What an owed accumulator write does to a tile. -/
def Matrix.apply (m : Matrix) (w : AccWrite) : Matrix :=
  let z := w.tile
  match w.op with
  | .norm shifts => (List.range 64).foldl (fun m r =>
      let k := shifts.getD r 0
      (m.setRow z r fun l =>
        let e := m.elem z r l
        if 40 ≤ k then 0 else roundInt 0 (e < 0) e.natAbs (-(k : Int))).setRowExp z r (m.rowExpOf z r + (k : Int))) m
  | .writeRow r guard lanes => m.setRow z r fun l =>
      if guard then sext 40 (bits (BitVec.ofInt 40 (m.elem z r l)) 0 32 + (lane lanes l).toNat % 256 * 2 ^ 32)
      else (lane lanes l).toInt
  | .writeExps false lanes => (List.range 64).foldl (fun m r => m.setRowExp z r (sext 8 (lane lanes r).toNat)) m
  | .writeExps true lanes => (List.range 128).foldl (fun m l => m.setLaneExp z l (sext 8 (lane lanes l).toNat)) m
  | .clear => m.clearTile z
  | .clearOvf => { m with ovf := m.ovf &&& ~~~BitVec.ofNat 24 (2 ^ z) }
  | .bitmap v => { m with slots := upd m.slots WbSlot.start z fun w => { w with bitmap := v } }

/-- Whether an accumulator write reads what the tile holds. -/
def AccOp.reads : AccOp → Bool
  | .norm _ | .writeRow _ true _ => true
  | _ => false

/-- ACCUMULATOR_WRITE_PERFORM: the writes of a command that are due at this mc. -/
def execAccumulatorWritePerform (t c id : Nat) (s : State) : Out :=
  let mc := (s.task t).mc
  let due := (s.core t c).mtx.writes.filter fun w => w.id = id && w.mc ≤ mc
  .next (match due.findSome? fun w => (if w.op.reads then (s.core t c).accFail [w.tile] else none).map fun f => (w, f) with
    | some (w, f) => s.mtxTrap t c w.pc w.slot f
    | none => s.setMtx t c fun m =>
      { due.foldl Matrix.apply m with writes := m.writes.filter fun w => !(w.id = id && w.mc ≤ mc) })

/-! ### One mc -/

/-- What a core's engine does at an mc before its events: planes begin to load. -/
def State.mtxBegin (s : State) (t c : Nat) : State := s.setMtx t c fun m => m.startLoads (s.task t).mc

/-- Events of a core's matrix engine at an mc, in order. -/
def Matrix.due (m : Matrix) (t c mc : Nat) : List Event :=
  (m.fills.filter fun f => f.start + f.rows ≤ mc).map (fun f => .wbfillComplete t c f.id) ++
    (m.loads.filter fun l => l.plane.validAt ≤ mc).map (fun l => .planeLoadComplete t c l.plane.id) ++
    (m.mmas.filter fun a => a.swap && a.start = mc).map (fun a => .mmaInputStart t c a.id) ++
    (m.mmas.filter fun a => a.inFlight.any (·.mc ≤ mc) || (a.plane.empty && a.start + a.step * a.rows ≤ mc)).map
      (fun a => .mmaRowPerform t c a.id) ++
    ((m.writes.filter (·.mc ≤ mc)).map (·.id)).eraseDups.map fun i => .accumulatorWritePerform t c i

/-- Forget what an mc has brought to an end. -/
def Matrix.prune (m : Matrix) (mc dc : Nat) : Matrix :=
  { m with
    awrs := m.awrs.filter fun a => mc < a.start + a.rows
    busyTile := m.busyTile.filter fun b => mc < b.2.1
    busySlot := m.busySlot.filter fun b => mc < b.2
    uses := m.uses.filter fun u => mc < u.2
    engaged := m.engaged.filter fun e => (match e.lastMc with
      | some l => mc ≤ l
      | none => false) || match e.lastDc with
      | some l => dc ≤ l
      | none => false }

/-- Whether a core's matrix engine has nothing in hand at an mc; what a drain has completed early is done at its own mc. -/
def Matrix.idle (m : Matrix) (mc : Nat) : Bool :=
  m.fills.isEmpty && m.loads.isEmpty && m.mmas.isEmpty && m.awrs.isEmpty && m.writes.isEmpty &&
    m.busyTile.all (·.2.1 ≤ mc) && m.busySlot.all (·.2 ≤ mc)

/-! ### The drain of a freeze (03 R58, 07 R150) -/

/-- What a core's engine does at an mc, event by event. -/
def State.runMatrix (s : State) (e : Event) : State :=
  let go (o : Out) : State := match o with
    | .next s' => s'
    | _ => s
  match e with
  | .wbfillComplete t c id => go (execWbfillComplete t c id s)
  | .planeLoadComplete t c id => go (execPlaneLoadComplete t c id s)
  | .mmaInputStart t c id => go (execMmaInputStart t c id s)
  | .mmaRowPerform t c id => go (execMmaRowPerform t c id s)
  | .accumulatorWritePerform t c id => go (execAccumulatorWritePerform t c id s)
  | _ => s

/-- Pops at an mc, as (command's PC, slot, source, first row, rows). -/
def Matrix.popsAt (m : Matrix) (mc : Nat) : List (Nat × Nat × RowSource × Nat × Nat) :=
  (m.fills.filterMap fun (f : FillCmd) => if f.start ≤ mc && mc < f.start + f.rows then some (f.pc, f.slot, f.src, mc - f.start, 1) else none) ++
    (m.awrs.filterMap fun (f : AwrCmd) => if f.start ≤ mc && mc < f.start + f.rows then some (f.pc, f.slot, f.src, mc - f.start, 1) else none) ++
    m.mmas.filterMap fun (f : MmaCmd) =>
      let each := if f.plane.sp then 2 else 1
      let j := (mc - f.start) / f.step
      if f.start ≤ mc && (mc - f.start) % f.step = 0 && j < f.rows then some (f.pc, f.slot, f.src, each * j, each) else none

/-- The reads that a pop makes ahead of its dc (03 R61): tile rows of its core, or the scratchpad ranges of a walker. -/
def State.capturePop (s : State) (t c dc : Nat) (p : Nat × Nat × RowSource × Nat × Nat) : List Capture :=
  let (pc, slot, src, j, n) := p
  match src with
  | .tileRows l => [⟨c, 4, slot, pc, 0, dc, [], (List.range n).map fun i => l.getD (j + i) 0⟩]
  | .walker w =>
    let one (q : Core) : List (Nat × Nat) × Core :=
      match q.useWalker w 1 with
      | .error _ => ([], q)
      | .ok (a, wk) =>
        let k := s.task t
        let r := if wk.leaf then match k.leafPlan c a (widthBytes wk.width) false with
            | .ok (base, lo, m) => [(base, 16), (base + lo, m)]
            | .error _ => []
          else [(a, widthBytes wk.width)]
        (r, { q with w := put q.w w wk })
    let (rs, _) := (List.range n).foldl (fun (acc : List (Nat × Nat) × Core) _ =>
      let (r, q) := one acc.2
      (acc.1 ++ r, q)) ([], s.core t c)
    [⟨c, 4, slot, pc, 0, dc, rs, []⟩]
  | _ => []

/-- The commands of a core's engine that have started by an mc, and those that have not. -/
def Matrix.started (m : Matrix) (mc : Nat) : Matrix × Matrix :=
  ({ m with fills := m.fills.filter (·.start < mc), awrs := m.awrs.filter (·.start < mc), mmas := m.mmas.filter (·.start < mc), loads := [] },
   { m with fills := m.fills.filter (mc ≤ ·.start), awrs := m.awrs.filter (mc ≤ ·.start), mmas := m.mmas.filter (mc ≤ ·.start) })

/-- The mc by which every started command is done. -/
def Matrix.doneBy (m : Matrix) : Nat :=
  ((m.fills.map fun (f : FillCmd) => f.start + f.rows) ++ (m.awrs.map fun (a : AwrCmd) => a.start + a.rows + 1) ++
    (m.mmas.map fun (a : MmaCmd) => a.start + a.step * a.rows + 257) ++ m.writes.map (·.mc)).foldl max 0

end Sys2Proof.Machine
end

