-- ==== Sys2Proof/WellFormed.lean ====
section
/-!
DEFINITION. Which slot instructions are well formed: the bounded fields of 02 R29 and R30 and the limits each
instruction's own rule names.  `Instr.faults` lists the scanner's reason codes (02 R34) that an instruction earns;
reserved bits (0x03) that belong to no field are checked where the bits are read, in Decode.
-/

namespace Sys2Proof

/-- A source operand code (02 R30). -/
def isSource (c : BitVec 6) : Bool := c.toNat ≤ 0x22 || (0x30 ≤ c.toNat && c.toNat ≤ 0x3B)

/-- A destination through a head, a walker or a cursor (02 R30). -/
def isRowDest (c : BitVec 6) : Bool := c.toNat < 0x20

/-- A predicate destination p1 to p11 (02 R30). -/
def isPredDest (c : BitVec 6) : Bool := 0x31 ≤ c.toNat && c.toNat ≤ 0x3B

/-- A cursor code (02 R30). -/
def isCursor (c : BitVec 6) : Bool := 0x18 ≤ c.toNat && c.toNat < 0x20

/-- A source code of class MTX (07 R140). -/
def isMtxSource (c : BitVec 6) : Bool := c.toNat ≤ 0x22

/-- The scalar-broadcast code (01 R10). -/
def isBcast (c : BitVec 6) : Bool := c = 0x21

/-- Reason 0x05 unless a bounded field is inside its range (02 R34). -/
def bound (ok : Bool) : List Nat := if ok then [] else [0x05]

/-- Reason 0x03 unless an unused field is zero (02 R28, R34). -/
def unused (ok : Bool) : List Nat := if ok then [] else [0x03]

/-- The ext byte's rule (02 R27): a broadcast takes a register number, in VCVT and VTRIT too (log 95), anything else takes zero. -/
def extUse (bcast : Bool) (x : Ext) : List Nat :=
  match x with
  | none => []
  | some e => if bcast then (if e.toNat < 32 then [] else [0x06]) else (if e = 0 then [] else [0x06])

/-- The ext byte's rule where the instruction has a widened immediate (02 R27). -/
def extImm (bcast : Bool) (x : Ext) : List Nat := if bcast then extUse true x else []

/-- An unsigned immediate with the ext byte in front (01 R9); a broadcast leaves it narrow (01 R10). -/
def wide (bcast : Bool) (x : Ext) (n imm : Nat) : Nat :=
  if bcast then imm else (x.getD 0).toNat * 2 ^ n + imm

/-- A predicate field (02 R29). -/
def predField (p : BitVec 4) : List Nat := bound (p.toNat < 12)

/-- A scalar field that names a predicate source (04 R67). -/
def predSource (a : BitVec 5) : List Nat := bound (a.toNat < 12)

/-- A scalar field that names a predicate destination (04 R66, R73). -/
def predDest (d : BitVec 5) : List Nat := bound (1 ≤ d.toNat && d.toNat < 12)

/-- A binary row operation (06 R120, R121). -/
def rowBin (d a b : BitVec 6) (p : BitVec 4) (x : Ext) : List Nat :=
  bound (isRowDest d && isSource a && isSource b) ++ predField p ++ extUse (isBcast a || isBcast b) x

/-- A unary row operation (06 R124). -/
def rowUn (d a : BitVec 6) (p : BitVec 4) (x : Ext) : List Nat :=
  bound (isRowDest d && isSource a) ++ predField p ++ extUse (isBcast a) x

/-- A row comparison (06 R126). -/
def rowCmp (d a b : BitVec 6) (p : BitVec 4) (x : Ext) : List Nat :=
  bound (isPredDest d && isSource a && isSource b) ++ predField p ++ extUse (isBcast a || isBcast b) x

/-- A CSR number that R31 assigns. -/
def isCsr (c : BitVec 12) : Bool := c.toNat ≤ 0x00A || (0x010 ≤ c.toNat && c.toNat ≤ 0x01F)

/-- A CSR that CSRW, CSRS and CSRC may write (02 R31). -/
def isWritableCsr (c : BitVec 12) : Bool := c = 0x002 || c = 0x009 || c = 0x00A

/-- Reason 0x08 unless a CSR may be used so (02 R34). -/
def csr (ok : Bool) : List Nat := if ok then [] else [0x08]

/-- The tape operand of HOPEN, HNEW, HLEASE and HFREE (08 R159). -/
def tapeOperand (t : BitVec 6) (x : Ext) : List Nat := bound (t = 0x20 || t = 0x21) ++ extImm (isBcast t) x

/-- The reason codes a slot instruction earns from its fields.  An event of the device has none. -/
def Instr.faults : Instr → List Nat
  | .nop => []
  | .add _ _ _ p _ => predField p
  | .sub _ _ _ p _ => predField p
  | .addw _ _ _ p _ => predField p
  | .subw _ _ _ p _ => predField p
  | .mul _ _ _ p _ => predField p
  | .mulh _ _ _ p _ => predField p
  | .mulhu _ _ _ p _ => predField p
  | .div _ _ _ p _ => predField p
  | .divu _ _ _ p _ => predField p
  | .rem _ _ _ p _ => predField p
  | .remu _ _ _ p _ => predField p
  | .and _ _ _ p _ => predField p
  | .or _ _ _ p _ => predField p
  | .xor _ _ _ p _ => predField p
  | .andn _ _ _ p _ => predField p
  | .shl _ _ _ p _ => predField p
  | .shr _ _ _ p _ => predField p
  | .sra _ _ _ p _ => predField p
  | .min _ _ _ p _ => predField p
  | .max _ _ _ p _ => predField p
  | .minu _ _ _ p _ => predField p
  | .maxu _ _ _ p _ => predField p
  | .clz _ _ p _ => predField p
  | .popc _ _ p _ => predField p
  | .sel _ _ _ p _ => predField p
  | .peq d _ _ p _ => predDest d ++ predField p
  | .pne d _ _ p _ => predDest d ++ predField p
  | .plt d _ _ p _ => predDest d ++ predField p
  | .pltu d _ _ p _ => predDest d ++ predField p
  | .pand d a b p _ => predDest d ++ predSource a ++ predSource b ++ predField p
  | .por d a b p _ => predDest d ++ predSource a ++ predSource b ++ predField p
  | .pxor d a b p _ => predDest d ++ predSource a ++ predSource b ++ predField p
  | .pandn d a b p _ => predDest d ++ predSource a ++ predSource b ++ predField p
  | .pmov d a p _ => predDest d ++ predSource a ++ predField p
  | .pfrom d _ _ p _ => predDest d ++ predField p
  | .sfromp _ a _ p _ => predSource a ++ predField p
  | .addi _ _ _ _ => []
  | .andi _ _ _ _ => []
  | .ori _ _ _ _ => []
  | .xori _ _ _ _ => []
  | .shli _ _ _ => []
  | .shri _ _ _ => []
  | .srai _ _ _ => []
  | .lim _ _ _ => []
  | .limh _ _ _ => []
  | .peqi d _ _ _ => predDest d
  | .plti d _ _ _ => predDest d
  | .pltui d _ _ _ => predDest d
  | .muli _ _ _ _ => []
  | .br _ => []
  | .brp p _ => predField p
  | .brnp p _ => predField p
  | .call _ => []
  | .ret => []
  | .jr _ _ => []
  | .loopi _ _ _ => []
  | .loop _ => []
  | .waitc _ _ => []
  | .fmtset c _ _ o a e => bound (c.toNat ≤ 1 && o.toNat ≤ 10 && o != 9 && (a = 0 || a = 2 || (4 ≤ a.toNat && a.toNat ≤ 7)) && e.toNat ≤ 10)
  | .fmtget _ => []
  | .halt => []
  | .trap _ => []
  | .csrr _ c => csr (isCsr c)
  | .csrw _ _ c => csr (isWritableCsr c)
  | .csrs _ _ c => csr (isWritableCsr c)
  | .csrc _ _ c => csr (isWritableCsr c)
  | .rdcyc _ => []
  | .rdgcy _ => []
  | .rdwhl _ => []
  | .twincmp a => bound (1 ≤ a.toNat && a.toNat ≤ 15)
  | .twincmpTile k => bound (k.toNat ≤ 39)
  | .fence _ => []
  | .fencec d _ => bound (d != 0)
  | .scfence d s => if s = 3 then bound (d != 0) else unused (d = 0)
  | .brk _ => []
  | .detn _ _ => []
  | .dgst _ => []
  | .dgstFold _ => []
  | .vmov d a p x => rowUn d a p x
  | .vadd d a b p x => rowBin d a b p x
  | .vsub d a b p x => rowBin d a b p x
  | .vmul d a b p x => rowBin d a b p x
  | .vmac d a b p x => rowBin d a b p x ++ bound (isCursor d)
  | .vadds d a b p x => rowBin d a b p x
  | .vsubs d a b p x => rowBin d a b p x
  | .vmin d a b p x => rowBin d a b p x
  | .vmax d a b p x => rowBin d a b p x
  | .vabs d a p x => rowUn d a p x
  | .vneg d a p x => rowUn d a p x
  | .vand d a b p x => rowBin d a b p x
  | .vor d a b p x => rowBin d a b p x
  | .vxor d a b p x => rowBin d a b p x
  | .vshl d a b p x => rowBin d a b p x
  | .vshr d a b p x => rowBin d a b p x
  | .vsra d a b p x => rowBin d a b p x
  | .vmullo d a b p x => rowBin d a b p x
  | .vmulhi d a b p x => rowBin d a b p x
  | .vpeq d a b p x => rowCmp d a b p x
  | .vpne d a b p x => rowCmp d a b p x
  | .vplt d a b p x => rowCmp d a b p x
  | .vple d a b p x => rowCmp d a b p x
  | .vsel d a b p x => rowBin d a b p x
  | .vrcp d a p x => rowUn d a p x
  | .vrsq d a p x => rowUn d a p x
  | .vexp2 d a p x => rowUn d a p x
  | .vlog2 d a p x => rowUn d a p x
  | .vrsum d a p x => rowUn d a p x
  | .vrmax d a p x => rowUn d a p x
  | .vrmin d a p x => rowUn d a p x
  | .vperm d a b p x => rowBin d a b p x
  | .vlsh d a b p x => rowBin d a b p x
  | .vbcst d a b p x => rowBin d a b p x
  | .vpopc d a p x => rowUn d a p x
  | .vclz d a p x => rowUn d a p x
  | .vrint d a p x => rowUn d a p x
  | .vcvt d a f _ p x => rowUn d a p x ++ bound (f.toNat ≤ 10)
  | .vsplat d _ p _ => bound (isRowDest d) ++ predField p
  | .vsplats d _ _ p x => bound (isRowDest d) ++ predField p ++ extUse true x
  | .vaddi d a _ p x => bound (isRowDest d && isSource a) ++ predField p ++ extImm (isBcast a) x
  | .vshli d a _ p x => bound (isRowDest d && isSource a) ++ predField p ++ extImm (isBcast a) x
  | .vshri d a _ p x => bound (isRowDest d && isSource a) ++ predField p ++ extImm (isBcast a) x
  | .viota d _ p _ => bound (isRowDest d) ++ predField p
  | .vcur _ t _ _ => bound (t.toNat ≤ 79)
  | .vcurs d x => bound (isCursor d) ++ extUse true x
  | .vextr d a l p x => bound (isRowDest d && isSource a && wide (isBcast a) x 6 l.toNat ≤ 127) ++ predField p ++ extImm (isBcast a) x
  | .vinsr d a l p x => bound (isCursor d && isSource a && wide (isBcast a) x 6 l.toNat ≤ 127) ++ predField p ++ extImm (isBcast a) x
  | .talloc n x => bound (wide false x 6 n.toNat ≤ 80)
  | .trel k x => bound (wide false x 6 k.toNat ≤ 79)
  | .tzero k x => bound (wide false x 6 k.toNat ≤ 79)
  | .vtrit d a k p x => rowUn d a p x ++ bound (k.toNat ≤ 5)
  | .wbfill s _ n x => bound (isMtxSource s && n.toNat ≤ 5) ++ extUse (isBcast s) x
  | .mldw _ k => bound (k.toNat ≤ 5)
  | .mma z s _ k _ n x => bound (z.toNat ≤ 23 && isMtxSource s && k.toNat ≤ 5 && n.toNat ≤ 6) ++ extUse (isBcast s) x
  | .mmaz z s _ k _ n x => bound (z.toNat ≤ 23 && isMtxSource s && k.toNat ≤ 5 && n.toNat ≤ 6) ++ extUse (isBcast s) x
  | .mbmap s _ x => bound (isMtxSource s) ++ extUse (isBcast s) x
  | .anorm z s x => bound (z.toNat ≤ 23 && isMtxSource s) ++ extUse (isBcast s) x
  | .ard z d r _ n => bound (z.toNat ≤ 23 && isRowDest d && n.toNat ≤ 6 && r.toNat + 2 ^ n.toNat ≤ 64)
  | .awr z s r _ n x => bound (z.toNat ≤ 23 && isMtxSource s && n.toNat ≤ 6 && r.toNat + 2 ^ n.toNat ≤ 64) ++ extUse (isBcast s) x
  | .aexpWrite z s _ x => bound (z.toNat ≤ 23 && isMtxSource s) ++ extUse (isBcast s) x
  | .aexpRead z d _ => bound (z.toNat ≤ 23 && isRowDest d)
  | .agrd z d r _ => bound (z.toNat ≤ 23 && isRowDest d && r.toNat ≤ 63)
  | .azero z => bound (z.toNat ≤ 23)
  | .mstat z d _ _ => bound (z.toNat ≤ 23 && isRowDest d)
  | .mwait z w s => bound (z.toNat ≤ 23 && s.toNat ≤ 2) ++ unused ((s = 0 || z = 0) && (s = 1 || w = 0))
  | .hopen _ t b a _ x => tapeOperand t x ++ bound (!(b = 1 && a = 1))
  | .hclose _ _ => []
  | .hrd h o p => bound (isRowDest o && o.toNat != h.toNat) ++ predField p
  | .hwr h o p x => bound (isSource o && o.toNat != h.toNat) ++ predField p ++ extUse (isBcast o) x
  | .hupd h o p x => bound (isSource o && o.toNat != h.toNat) ++ predField p ++ extUse (isBcast o) x
  | .hstep _ _ _ => []
  | .hskip _ x => extUse true x
  | .hmark _ => []
  | .hrwd _ _ => []
  | .hdrop _ => []
  | .hpos _ _ => []
  | .hrev _ => []
  | .hnew _ t _ x => tapeOperand t x
  | .hseal _ _ => []
  | .hlease _ t _ _ x => tapeOperand t x
  | .hfree t x => tapeOperand t x
  | .hwait _ _ => []
  | .wset w _ _ => bound (w.toNat ≤ 7)
  | .wloop w _ _ v => bound (w.toNat ≤ 7 && v.toNat ≤ 3)
  | .wrst w => bound (w.toNat ≤ 7)
  | .kcopy _ _ _ _ _ => []
  | .kcopyr _ _ _ _ _ => []
  | .kgath _ _ _ _ _ => []
  | .kscat _ _ _ _ _ => []
  | .kfill _ _ _ _ _ => []
  | .ktag _ _ => []
  | .kchk _ _ => []
  | .sld _ _ _ => []
  | .sst _ _ _ => []
  | .ltset _ _ => []
  | .kstat _ _ => []
  | .ld _ _ _ _ c s _ => bound (c = 0 || s = 1)
  | .st _ _ _ _ c s _ => bound (c = 0 || s = 1)
  | .lda _ _ _ _ _ _ _ => []
  | .stl _ _ _ _ _ _ _ => []
  | .ldv _ _ _ _ _ => []
  | .stv _ _ _ _ _ => []
  | .amoadd _ _ _ _ _ _ _ => []
  | .amoand _ _ _ _ _ _ _ => []
  | .amoor _ _ _ _ _ _ _ => []
  | .amoxor _ _ _ _ _ _ _ => []
  | .amomin _ _ _ _ _ _ _ => []
  | .amomax _ _ _ _ _ _ _ => []
  | .amoswp _ _ _ _ _ _ _ => []
  | .amocas d _ _ _ _ _ _ => bound (1 ≤ d.toNat && d.toNat ≤ 30)
  | .vamoor _ _ _ _ _ => []
  | .vamoadd _ _ _ _ _ => []
  | .barriv _ _ _ _ _ => []
  | .barwait _ _ _ _ _ => []
  | .barinit _ _ _ _ _ => []
  | .sfbind _ _ _ => []
  | .sfgo _ _ _ => []
  | .sfstat _ _ s => bound (s.toNat ≤ 6)
  | .sfrel _ => []
  | .sfmash _ _ => []
  | .qdim _ _ => []
  | .qidx _ b y => unused (y = 1 || b = 0)
  | .qstr _ => []
  | .qgen _ _ => []
  | .qgenv _ _ => []
  | .qdir _ _ => []
  | .qscr _ _ => []
  | .qscrShift _ => []
  | .qsave _ _ _ => []
  | .qload _ _ _ => []
  | .klaunch _ _ => []
  | .klaunchc _ _ _ => []
  | .gsig _ _ => []
  | .qsync _ => []
  | .gprio _ => []
  | .garg _ i => bound (i.toNat ≤ 31 || (0x40 ≤ i.toNat && i.toNat ≤ 0x42))
  | .boot _ => []
  | .imageFetch _ _ => []
  | .decodeTableReload _ _ => []
  | .floorRequest _ => []
  | .codeScan _ _ => []
  | .folioLoad _ => []
  | .tlbInvalidation _ _ _ => []
  | .contextDigestReport _ => []
  | .doorbellWrite _ _ => []
  | .cqheadWrite _ _ => []
  | .registerWrite _ _ _ => []
  | .hostBar2Write _ _ _ => []
  | .hostBar2Read _ _ _ => []
  | .schedulerDecision => []
  | .priorityAging => []
  | .condNodeComplete _ => []
  | .copyNodeComplete _ => []
  | .preemptFreeze _ => []
  | .preemptSave _ => []
  | .taskEndCloses _ => []
  | .taskEnd _ => []
  | .kernelNodeComplete _ => []
  | .nowLaunchArrival _ _ => []
  | .qsyncComplete _ _ => []
  | .wheelGroupIssue _ => []
  | .powerGateExit _ => []
  | .engineCommandStart _ _ _ => []
  | .copyPerform _ _ _ => []
  | .copySuspend _ _ _ => []
  | .sequenceEnginePerform _ _ => []
  | .timedWritePerform _ _ => []
  | .walkerLeafWritePerform _ _ => []
  | .wbfillComplete _ _ _ => []
  | .planeLoadComplete _ _ _ => []
  | .mmaInputStart _ _ _ => []
  | .mmaRowPerform _ _ _ => []
  | .accumulatorWritePerform _ _ _ => []
  | .tableOperationPerform _ _ => []
  | .headCloseTableWrite _ _ => []
  | .headWritePerform _ _ => []
  | .hwaitComplete _ _ => []
  | .headRefillFetch _ => []
  | .sfbindPerform _ _ => []
  | .streamRunPerform _ _ => []
  | .sfrelPerform _ _ => []
  | .streamDeadlineFault _ _ _ => []
  | .queuedLoadPerform _ => []
  | .queuedWritePerform _ => []
  | .atomicPerform _ => []
  | .barrierPerform _ => []
  | .fencecComplete _ => []
  | .scfenceComplete _ => []
  | .translationWalk _ => []
  | .faultServiceResume _ _ => []
  | .serviceTimeout _ => []
  | .deviceFatal _ => []
  | .dumpExport => []
  | .floorRestart => []
  | .timelineFill _ _ _ => []
  | .timelineStream _ _ _ => []
  | .timelineRefpb _ _ _ => []
  | .timelineRefab _ _ _ => []
  | .forcedRefresh _ _ => []
  | .guardedModeEntry _ => []
  | .guardedRefresh _ _ _ => []
  | .longStallPrecharge _ => []
  | .patrolScrub _ _ _ _ => []
  | .tierEviction => []
  | .flitReceive _ _ => []
  | .laneRemoval _ _ => []
  | .readRequest _ _ _ => []
  | .writeRequest _ _ _ => []
  | .atomicRequest _ _ _ => []
  | .readResponse _ _ _ => []
  | .writeAcknowledgement _ _ _ => []
  | .atomicResponse _ _ _ => []
  | .grant _ _ => []
  | .recall _ _ => []
  | .recallAcknowledgement _ _ => []
  | .recallTimeout _ => []
  | .nack _ _ _ _ => []
  | .peerFailure _ => []
  | .powerWindow _ => []
  | .rateChange _ _ => []
  | .clockSwallow _ => []
  | .powerHold => []
  | .powerHoldEnd _ => []
  | .retrainComplete _ => []
  | .linkReset _ => []
  | .pageMoveComplete _ _ => []
  | .allocationHintChange _ _ _ _ => []
  | .copyReplayCaughtUp _ _ _ => []
  | .completionQueueSetup _ _ _ => []

/-- A well-formed instruction: the scanner finds nothing wrong with its fields. -/
def Instr.wellFormed (i : Instr) : Bool := i.faults.isEmpty

/-- An SC operation: a QMEM slot whose sc bit is set (02 R26). -/
def Instr.isSc : Instr → Bool
  | .ld _ _ _ _ _ s _ => s = 1
  | .st _ _ _ _ _ s _ => s = 1
  | .lda _ _ _ _ _ s _ => s = 1
  | .stl _ _ _ _ _ s _ => s = 1
  | .amoadd _ _ _ _ _ s _ => s = 1
  | .amoand _ _ _ _ _ s _ => s = 1
  | .amoor _ _ _ _ _ s _ => s = 1
  | .amoxor _ _ _ _ _ s _ => s = 1
  | .amomin _ _ _ _ _ s _ => s = 1
  | .amomax _ _ _ _ _ s _ => s = 1
  | .amoswp _ _ _ _ _ s _ => s = 1
  | .amocas _ _ _ _ _ s _ => s = 1
  | _ => false

end Sys2Proof
end

