-- ==== Sys2Proof/Decode.lean ====
section
/-!
DEFINITION. The decoder and the encoder.

A slot is read by class and op (02 R32); a bit that belongs to no field must hold its fixed value, and a word that does
not is rejected with the scanner's reason code (02 R34).  Bounded fields are not tested here, as the device's own
decoder does not test them (02 R33): `Instr.faults` says what is wrong with them, and a step refuses such a slot.
-/

namespace Sys2Proof

/-- Bits `lo` to `lo + n - 1` of a slot. -/
def fld (w : BitVec 32) (lo n : Nat) : BitVec n := BitVec.ofNat n (w.toNat / 2 ^ lo)

/-- The reasons of those (bit, width, value, reason) entries whose bits do not hold that value. -/
def badBits (w : BitVec 32) (gaps : List (Nat × Nat × Nat × Nat)) : List Nat :=
  match gaps with
  | [] => []
  | (lo, n, v, why) :: rest =>
    if w.toNat / 2 ^ lo % 2 ^ n = v then badBits w rest else why :: badBits w rest

/-- The instruction, when every bit outside its fields holds its value; otherwise every reason for which the slot
fails, each once, the limits of its fields among them: each failure has an entry of its own (02 R33). -/
def fixed (w : BitVec 32) (gaps : List (Nat × Nat × Nat × Nat)) (i : Instr) : Except (List Nat) Instr :=
  match badBits w gaps with
  | [] => .ok i
  | l => .error (l.eraseDups ++ i.faults)

/-- `fixed` for an instruction with no use for an ext byte, which must then be absent or zero (02 R27) or fails with
the reason given. -/
def noExt (why : Nat) (x : Ext) (w : BitVec 32) (gaps : List (Nat × Nat × Nat × Nat)) (i : Instr) :
    Except (List Nat) Instr :=
  if x.getD 0 = 0 then fixed w gaps i else .error ((why :: badBits w gaps).eraseDups ++ i.faults)

/-- `noExt` with reason 0x06, which check 0x06 of the scanner gives (02 R34). -/
def plain : Ext → BitVec 32 → List (Nat × Nat × Nat × Nat) → Instr → Except (List Nat) Instr := noExt 0x06

/-- Class SCAL (02 R32). -/
def readScal (op : Nat) (x : Ext) (w : BitVec 32) : Except (List Nat) Instr :=
  match op with
  | 0x00 => plain x w [(0, 1, 0x0, 3), (1, 2, 0x0, 3), (3, 4, 0x0, 3), (7, 5, 0x0, 3), (12, 5, 0x0, 3), (17, 5, 0x0, 3)] .nop
  | 0x01 => plain x w [(1, 2, 0x0, 3)] (.add (fld w 17 5) (fld w 12 5) (fld w 7 5) (fld w 3 4) (fld w 0 1))
  | 0x02 => plain x w [(1, 2, 0x0, 3)] (.sub (fld w 17 5) (fld w 12 5) (fld w 7 5) (fld w 3 4) (fld w 0 1))
  | 0x03 => plain x w [(1, 2, 0x0, 3)] (.addw (fld w 17 5) (fld w 12 5) (fld w 7 5) (fld w 3 4) (fld w 0 1))
  | 0x04 => plain x w [(1, 2, 0x0, 3)] (.subw (fld w 17 5) (fld w 12 5) (fld w 7 5) (fld w 3 4) (fld w 0 1))
  | 0x05 => plain x w [(1, 2, 0x0, 3)] (.mul (fld w 17 5) (fld w 12 5) (fld w 7 5) (fld w 3 4) (fld w 0 1))
  | 0x06 => plain x w [(1, 2, 0x0, 3)] (.mulh (fld w 17 5) (fld w 12 5) (fld w 7 5) (fld w 3 4) (fld w 0 1))
  | 0x07 => plain x w [(1, 2, 0x0, 3)] (.mulhu (fld w 17 5) (fld w 12 5) (fld w 7 5) (fld w 3 4) (fld w 0 1))
  | 0x08 => plain x w [(1, 2, 0x0, 3)] (.div (fld w 17 5) (fld w 12 5) (fld w 7 5) (fld w 3 4) (fld w 0 1))
  | 0x09 => plain x w [(1, 2, 0x0, 3)] (.divu (fld w 17 5) (fld w 12 5) (fld w 7 5) (fld w 3 4) (fld w 0 1))
  | 0x0A => plain x w [(1, 2, 0x0, 3)] (.rem (fld w 17 5) (fld w 12 5) (fld w 7 5) (fld w 3 4) (fld w 0 1))
  | 0x0B => plain x w [(1, 2, 0x0, 3)] (.remu (fld w 17 5) (fld w 12 5) (fld w 7 5) (fld w 3 4) (fld w 0 1))
  | 0x0C => plain x w [(1, 2, 0x0, 3)] (.and (fld w 17 5) (fld w 12 5) (fld w 7 5) (fld w 3 4) (fld w 0 1))
  | 0x0D => plain x w [(1, 2, 0x0, 3)] (.or (fld w 17 5) (fld w 12 5) (fld w 7 5) (fld w 3 4) (fld w 0 1))
  | 0x0E => plain x w [(1, 2, 0x0, 3)] (.xor (fld w 17 5) (fld w 12 5) (fld w 7 5) (fld w 3 4) (fld w 0 1))
  | 0x0F => plain x w [(1, 2, 0x0, 3)] (.andn (fld w 17 5) (fld w 12 5) (fld w 7 5) (fld w 3 4) (fld w 0 1))
  | 0x10 => plain x w [(1, 2, 0x0, 3)] (.shl (fld w 17 5) (fld w 12 5) (fld w 7 5) (fld w 3 4) (fld w 0 1))
  | 0x11 => plain x w [(1, 2, 0x0, 3)] (.shr (fld w 17 5) (fld w 12 5) (fld w 7 5) (fld w 3 4) (fld w 0 1))
  | 0x12 => plain x w [(1, 2, 0x0, 3)] (.sra (fld w 17 5) (fld w 12 5) (fld w 7 5) (fld w 3 4) (fld w 0 1))
  | 0x13 => plain x w [(1, 2, 0x0, 3)] (.min (fld w 17 5) (fld w 12 5) (fld w 7 5) (fld w 3 4) (fld w 0 1))
  | 0x14 => plain x w [(1, 2, 0x0, 3)] (.max (fld w 17 5) (fld w 12 5) (fld w 7 5) (fld w 3 4) (fld w 0 1))
  | 0x15 => plain x w [(1, 2, 0x0, 3)] (.minu (fld w 17 5) (fld w 12 5) (fld w 7 5) (fld w 3 4) (fld w 0 1))
  | 0x16 => plain x w [(1, 2, 0x0, 3)] (.maxu (fld w 17 5) (fld w 12 5) (fld w 7 5) (fld w 3 4) (fld w 0 1))
  | 0x17 => plain x w [(1, 2, 0x0, 3), (7, 5, 0x0, 3)] (.clz (fld w 17 5) (fld w 12 5) (fld w 3 4) (fld w 0 1))
  | 0x18 => plain x w [(1, 2, 0x0, 3), (7, 5, 0x0, 3)] (.popc (fld w 17 5) (fld w 12 5) (fld w 3 4) (fld w 0 1))
  | 0x19 => plain x w [(1, 2, 0x0, 3)] (.sel (fld w 17 5) (fld w 12 5) (fld w 7 5) (fld w 3 4) (fld w 0 1))
  | 0x1A => plain x w [(1, 2, 0x0, 3)] (.peq (fld w 17 5) (fld w 12 5) (fld w 7 5) (fld w 3 4) (fld w 0 1))
  | 0x1B => plain x w [(1, 2, 0x0, 3)] (.pne (fld w 17 5) (fld w 12 5) (fld w 7 5) (fld w 3 4) (fld w 0 1))
  | 0x1C => plain x w [(1, 2, 0x0, 3)] (.plt (fld w 17 5) (fld w 12 5) (fld w 7 5) (fld w 3 4) (fld w 0 1))
  | 0x1D => plain x w [(1, 2, 0x0, 3)] (.pltu (fld w 17 5) (fld w 12 5) (fld w 7 5) (fld w 3 4) (fld w 0 1))
  | 0x1E => plain x w [(1, 2, 0x0, 3)] (.pand (fld w 17 5) (fld w 12 5) (fld w 7 5) (fld w 3 4) (fld w 0 1))
  | 0x1F => plain x w [(1, 2, 0x0, 3)] (.por (fld w 17 5) (fld w 12 5) (fld w 7 5) (fld w 3 4) (fld w 0 1))
  | 0x20 => plain x w [(1, 2, 0x0, 3)] (.pxor (fld w 17 5) (fld w 12 5) (fld w 7 5) (fld w 3 4) (fld w 0 1))
  | 0x21 => plain x w [(1, 2, 0x0, 3)] (.pandn (fld w 17 5) (fld w 12 5) (fld w 7 5) (fld w 3 4) (fld w 0 1))
  | 0x22 => plain x w [(1, 2, 0x0, 3), (7, 5, 0x0, 3)] (.pmov (fld w 17 5) (fld w 12 5) (fld w 3 4) (fld w 0 1))
  | 0x23 => plain x w [(1, 2, 0x0, 3)] (.pfrom (fld w 17 5) (fld w 12 5) (fld w 7 5) (fld w 3 4) (fld w 0 1))
  | 0x24 => plain x w [(1, 2, 0x0, 3), (8, 4, 0x0, 3)] (.sfromp (fld w 17 5) (fld w 12 5) (fld w 7 1) (fld w 3 4) (fld w 0 1))
  | _ => .error [0x02]

/-- Class SIMM (02 R32). -/
def readSimm (op : Nat) (x : Ext) (w : BitVec 32) : Except (List Nat) Instr :=
  match op with
  | 0x00 => fixed w [] (.addi (fld w 17 5) (fld w 12 5) (fld w 0 12) x)
  | 0x01 => fixed w [] (.andi (fld w 17 5) (fld w 12 5) (fld w 0 12) x)
  | 0x02 => fixed w [] (.ori (fld w 17 5) (fld w 12 5) (fld w 0 12) x)
  | 0x03 => fixed w [] (.xori (fld w 17 5) (fld w 12 5) (fld w 0 12) x)
  | 0x04 => noExt 3 x w [(6, 6, 0x0, 3)] (.shli (fld w 17 5) (fld w 12 5) (fld w 0 6))
  | 0x05 => noExt 3 x w [(6, 6, 0x0, 3)] (.shri (fld w 17 5) (fld w 12 5) (fld w 0 6))
  | 0x06 => noExt 3 x w [(6, 6, 0x0, 3)] (.srai (fld w 17 5) (fld w 12 5) (fld w 0 6))
  | 0x07 => fixed w [] (.lim (fld w 17 5) (fld w 0 17) x)
  | 0x08 => fixed w [] (.limh (fld w 17 5) (fld w 0 17) x)
  | 0x09 => fixed w [] (.peqi (fld w 17 5) (fld w 12 5) (fld w 0 12) x)
  | 0x0A => fixed w [] (.plti (fld w 17 5) (fld w 12 5) (fld w 0 12) x)
  | 0x0B => fixed w [] (.pltui (fld w 17 5) (fld w 12 5) (fld w 0 12) x)
  | 0x0C => fixed w [] (.muli (fld w 17 5) (fld w 12 5) (fld w 0 12) x)
  | _ => .error [0x02]

/-- Class CTRL (02 R32). -/
def readCtrl (op : Nat) (x : Ext) (w : BitVec 32) : Except (List Nat) Instr :=
  match op with
  | 0x00 => plain x w [] (.br (fld w 0 22))
  | 0x01 => plain x w [] (.brp (fld w 18 4) (fld w 0 18))
  | 0x02 => plain x w [] (.brnp (fld w 18 4) (fld w 0 18))
  | 0x03 => plain x w [] (.call (fld w 0 22))
  | 0x04 => plain x w [(0, 12, 0x0, 3), (12, 5, 0x0, 3), (17, 5, 0x0, 3)] .ret
  | 0x05 => plain x w [(17, 5, 0x0, 3)] (.jr (fld w 12 5) (fld w 0 12))
  | 0x06 => plain x w [(5, 7, 0x0, 3), (17, 5, 0x0, 3)] (.loopi (fld w 12 5) (fld w 3 2) (fld w 0 3))
  | 0x07 => plain x w [] (.loop (fld w 0 22))
  | 0x08 => plain x w [(17, 5, 0x0, 3)] (.waitc (fld w 12 5) (fld w 0 12))
  | 0x09 => plain x w [(15, 1, 0x0, 5), (18, 4, 0x0, 5)] (.fmtset (fld w 16 2) (fld w 14 1) (fld w 12 2) (fld w 8 4) (fld w 4 4) (fld w 0 4))
  | 0x0A => plain x w [(0, 12, 0x0, 3), (12, 5, 0x0, 3)] (.fmtget (fld w 17 5))
  | 0x0B => plain x w [(0, 12, 0x0, 3), (12, 5, 0x0, 3), (17, 5, 0x0, 3)] .halt
  | _ => .error [0x02]

/-- Class SYS (02 R32). -/
def readSys (op : Nat) (x : Ext) (w : BitVec 32) : Except (List Nat) Instr :=
  match op with
  | 0x00 => plain x w [(12, 5, 0x0, 3), (17, 5, 0x0, 3)] (.trap (fld w 0 12))
  | 0x01 => plain x w [(12, 5, 0x0, 3)] (.csrr (fld w 17 5) (fld w 0 12))
  | 0x02 => plain x w [] (.csrw (fld w 17 5) (fld w 12 5) (fld w 0 12))
  | 0x03 => plain x w [] (.csrs (fld w 17 5) (fld w 12 5) (fld w 0 12))
  | 0x04 => plain x w [] (.csrc (fld w 17 5) (fld w 12 5) (fld w 0 12))
  | 0x05 => plain x w [(0, 12, 0x0, 3), (12, 5, 0x0, 3)] (.rdcyc (fld w 17 5))
  | 0x06 => plain x w [(0, 12, 0x0, 3), (12, 5, 0x0, 3)] (.rdgcy (fld w 17 5))
  | 0x07 => plain x w [(0, 12, 0x0, 3), (12, 5, 0x0, 3)] (.rdwhl (fld w 17 5))
  | 0x08 => if fld w 11 1 = 1 then plain x w [(6, 6, 0x20, 5), (12, 5, 0x0, 5), (17, 5, 0x0, 5)] (.twincmpTile (fld w 0 6))
    else plain x w [(0, 12, 0x0, 5), (17, 5, 0x0, 5)] (.twincmp (fld w 12 5))
  | 0x09 => plain x w [(2, 10, 0x0, 3), (12, 5, 0x0, 3), (17, 5, 0x0, 3)] (.fence (fld w 0 2))
  | 0x0A => plain x w [(2, 10, 0x0, 3), (12, 5, 0x0, 3)] (.fencec (fld w 17 5) (fld w 0 2))
  | 0x0B => plain x w [(2, 10, 0x0, 3), (12, 5, 0x0, 3)] (.scfence (fld w 17 5) (fld w 0 2))
  | 0x0C => plain x w [(12, 5, 0x0, 3), (17, 5, 0x0, 3)] (.brk (fld w 0 12))
  | 0x0D => plain x w [(8, 4, 0x0, 3), (12, 5, 0x0, 3)] (.detn (fld w 17 5) (fld w 0 8))
  | 0x0E => if fld w 0 1 = 1 then plain x w [(0, 12, 0x1, 3), (17, 5, 0x0, 3)] (.dgstFold (fld w 12 5))
    else plain x w [(0, 12, 0x0, 3), (12, 5, 0x0, 3)] (.dgst (fld w 17 5))
  | _ => .error [0x02]

/-- Class ROW (02 R32). -/
def readRow (op : Nat) (x : Ext) (w : BitVec 32) : Except (List Nat) Instr :=
  match op with
  | 0x00 => fixed w [(4, 6, 0x20, 5)] (.vmov (fld w 16 6) (fld w 10 6) (fld w 0 4) x)
  | 0x01 => fixed w [] (.vadd (fld w 16 6) (fld w 10 6) (fld w 4 6) (fld w 0 4) x)
  | 0x02 => fixed w [] (.vsub (fld w 16 6) (fld w 10 6) (fld w 4 6) (fld w 0 4) x)
  | 0x03 => fixed w [] (.vmul (fld w 16 6) (fld w 10 6) (fld w 4 6) (fld w 0 4) x)
  | 0x04 => fixed w [] (.vmac (fld w 16 6) (fld w 10 6) (fld w 4 6) (fld w 0 4) x)
  | 0x05 => fixed w [] (.vadds (fld w 16 6) (fld w 10 6) (fld w 4 6) (fld w 0 4) x)
  | 0x06 => fixed w [] (.vsubs (fld w 16 6) (fld w 10 6) (fld w 4 6) (fld w 0 4) x)
  | 0x07 => fixed w [] (.vmin (fld w 16 6) (fld w 10 6) (fld w 4 6) (fld w 0 4) x)
  | 0x08 => fixed w [] (.vmax (fld w 16 6) (fld w 10 6) (fld w 4 6) (fld w 0 4) x)
  | 0x09 => fixed w [(4, 6, 0x20, 5)] (.vabs (fld w 16 6) (fld w 10 6) (fld w 0 4) x)
  | 0x0A => fixed w [(4, 6, 0x20, 5)] (.vneg (fld w 16 6) (fld w 10 6) (fld w 0 4) x)
  | 0x0B => fixed w [] (.vand (fld w 16 6) (fld w 10 6) (fld w 4 6) (fld w 0 4) x)
  | 0x0C => fixed w [] (.vor (fld w 16 6) (fld w 10 6) (fld w 4 6) (fld w 0 4) x)
  | 0x0D => fixed w [] (.vxor (fld w 16 6) (fld w 10 6) (fld w 4 6) (fld w 0 4) x)
  | 0x0E => fixed w [] (.vshl (fld w 16 6) (fld w 10 6) (fld w 4 6) (fld w 0 4) x)
  | 0x0F => fixed w [] (.vshr (fld w 16 6) (fld w 10 6) (fld w 4 6) (fld w 0 4) x)
  | 0x10 => fixed w [] (.vsra (fld w 16 6) (fld w 10 6) (fld w 4 6) (fld w 0 4) x)
  | 0x11 => fixed w [] (.vmullo (fld w 16 6) (fld w 10 6) (fld w 4 6) (fld w 0 4) x)
  | 0x12 => fixed w [] (.vmulhi (fld w 16 6) (fld w 10 6) (fld w 4 6) (fld w 0 4) x)
  | 0x13 => fixed w [] (.vpeq (fld w 16 6) (fld w 10 6) (fld w 4 6) (fld w 0 4) x)
  | 0x14 => fixed w [] (.vpne (fld w 16 6) (fld w 10 6) (fld w 4 6) (fld w 0 4) x)
  | 0x15 => fixed w [] (.vplt (fld w 16 6) (fld w 10 6) (fld w 4 6) (fld w 0 4) x)
  | 0x16 => fixed w [] (.vple (fld w 16 6) (fld w 10 6) (fld w 4 6) (fld w 0 4) x)
  | 0x17 => fixed w [] (.vsel (fld w 16 6) (fld w 10 6) (fld w 4 6) (fld w 0 4) x)
  | 0x18 => fixed w [(4, 6, 0x20, 5)] (.vrcp (fld w 16 6) (fld w 10 6) (fld w 0 4) x)
  | 0x19 => fixed w [(4, 6, 0x20, 5)] (.vrsq (fld w 16 6) (fld w 10 6) (fld w 0 4) x)
  | 0x1A => fixed w [(4, 6, 0x20, 5)] (.vexp2 (fld w 16 6) (fld w 10 6) (fld w 0 4) x)
  | 0x1B => fixed w [(4, 6, 0x20, 5)] (.vlog2 (fld w 16 6) (fld w 10 6) (fld w 0 4) x)
  | 0x1C => fixed w [(4, 6, 0x20, 5)] (.vrsum (fld w 16 6) (fld w 10 6) (fld w 0 4) x)
  | 0x1D => fixed w [(4, 6, 0x20, 5)] (.vrmax (fld w 16 6) (fld w 10 6) (fld w 0 4) x)
  | 0x1E => fixed w [(4, 6, 0x20, 5)] (.vrmin (fld w 16 6) (fld w 10 6) (fld w 0 4) x)
  | 0x1F => fixed w [] (.vperm (fld w 16 6) (fld w 10 6) (fld w 4 6) (fld w 0 4) x)
  | 0x20 => fixed w [] (.vlsh (fld w 16 6) (fld w 10 6) (fld w 4 6) (fld w 0 4) x)
  | 0x21 => fixed w [] (.vbcst (fld w 16 6) (fld w 10 6) (fld w 4 6) (fld w 0 4) x)
  | 0x22 => fixed w [(4, 6, 0x20, 5)] (.vpopc (fld w 16 6) (fld w 10 6) (fld w 0 4) x)
  | 0x23 => fixed w [(4, 6, 0x20, 5)] (.vclz (fld w 16 6) (fld w 10 6) (fld w 0 4) x)
  | 0x24 => fixed w [(4, 6, 0x20, 5)] (.vrint (fld w 16 6) (fld w 10 6) (fld w 0 4) x)
  | _ => .error [0x02]

/-- Class ROWX (02 R32). -/
def readRowx (op : Nat) (x : Ext) (w : BitVec 32) : Except (List Nat) Instr :=
  match op with
  | 0x00 => fixed w [(4, 1, 0x0, 3)] (.vcvt (fld w 16 6) (fld w 10 6) (fld w 6 4) (fld w 5 1) (fld w 0 4) x)
  | 0x01 => fixed w [(10, 6, 0x0, 3)] (.vsplat (fld w 16 6) (fld w 4 6) (fld w 0 4) x)
  | 0x02 => fixed w [(6, 4, 0x0, 3), (10, 6, 0x21, 5)] (.vsplats (fld w 16 6) (fld w 5 1) (fld w 4 1) (fld w 0 4) x)
  | 0x03 => fixed w [] (.vaddi (fld w 16 6) (fld w 10 6) (fld w 4 6) (fld w 0 4) x)
  | 0x04 => fixed w [] (.vshli (fld w 16 6) (fld w 10 6) (fld w 4 6) (fld w 0 4) x)
  | 0x05 => fixed w [] (.vshri (fld w 16 6) (fld w 10 6) (fld w 4 6) (fld w 0 4) x)
  | 0x06 => fixed w [(10, 6, 0x0, 3)] (.viota (fld w 16 6) (fld w 4 6) (fld w 0 4) x)
  | 0x07 => plain x w [(0, 6, 0x0, 3)] (.vcur (fld w 19 3) (fld w 12 7) (fld w 8 4) (fld w 6 2))
  | 0x08 => fixed w [(0, 4, 0x0, 3), (4, 6, 0x0, 3), (10, 6, 0x21, 5)] (.vcurs (fld w 16 6) x)
  | 0x09 => fixed w [] (.vextr (fld w 16 6) (fld w 10 6) (fld w 4 6) (fld w 0 4) x)
  | 0x0A => fixed w [] (.vinsr (fld w 16 6) (fld w 10 6) (fld w 4 6) (fld w 0 4) x)
  | 0x0B => fixed w [(0, 4, 0x0, 3), (10, 6, 0x0, 3), (16, 6, 0x0, 3)] (.talloc (fld w 4 6) x)
  | 0x0C => fixed w [(0, 4, 0x0, 3), (10, 6, 0x0, 3), (16, 6, 0x0, 3)] (.trel (fld w 4 6) x)
  | 0x0D => fixed w [(0, 4, 0x0, 3), (10, 6, 0x0, 3), (16, 6, 0x0, 3)] (.tzero (fld w 4 6) x)
  | 0x0E => fixed w [] (.vtrit (fld w 16 6) (fld w 10 6) (fld w 4 6) (fld w 0 4) x)
  | _ => .error [0x02]

/-- Class MTX (02 R32). -/
def readMtx (op : Nat) (x : Ext) (w : BitVec 32) : Except (List Nat) Instr :=
  match op with
  | 0x00 => fixed w [(3, 1, 0x0, 3), (4, 3, 0x0, 3), (17, 5, 0x0, 3)] (.wbfill (fld w 11 6) (fld w 7 4) (fld w 0 3) x)
  | 0x01 => plain x w [(0, 3, 0x0, 3), (3, 1, 0x0, 3), (11, 6, 0x0, 3), (17, 5, 0x0, 3)] (.mldw (fld w 7 4) (fld w 4 3))
  | 0x02 => fixed w [] (.mma (fld w 17 5) (fld w 11 6) (fld w 7 4) (fld w 4 3) (fld w 3 1) (fld w 0 3) x)
  | 0x03 => fixed w [] (.mmaz (fld w 17 5) (fld w 11 6) (fld w 7 4) (fld w 4 3) (fld w 3 1) (fld w 0 3) x)
  | 0x04 => fixed w [(0, 3, 0x0, 3), (3, 1, 0x0, 3), (4, 3, 0x0, 3), (17, 5, 0x0, 3)] (.mbmap (fld w 11 6) (fld w 7 4) x)
  | 0x05 => fixed w [(0, 3, 0x0, 3), (3, 1, 0x0, 3), (4, 3, 0x0, 3), (7, 4, 0x0, 3)] (.anorm (fld w 17 5) (fld w 11 6) x)
  | 0x06 => plain x w [] (.ard (fld w 17 5) (fld w 11 6) (fld w 4 7) (fld w 3 1) (fld w 0 3))
  | 0x07 => fixed w [] (.awr (fld w 17 5) (fld w 11 6) (fld w 4 7) (fld w 3 1) (fld w 0 3) x)
  | 0x08 => if fld w 5 1 = 1 then plain x w [(0, 3, 0x0, 3), (3, 1, 0x0, 3), (5, 2, 0x1, 5), (7, 4, 0x0, 3)] (.aexpRead (fld w 17 5) (fld w 11 6) (fld w 4 1))
    else fixed w [(0, 3, 0x0, 3), (3, 1, 0x0, 3), (5, 2, 0x0, 5), (7, 4, 0x0, 3)] (.aexpWrite (fld w 17 5) (fld w 11 6) (fld w 4 1) x)
  | 0x09 => plain x w [(0, 3, 0x0, 3)] (.agrd (fld w 17 5) (fld w 11 6) (fld w 4 7) (fld w 3 1))
  | 0x0A => plain x w [(0, 3, 0x0, 3), (3, 1, 0x0, 3), (4, 3, 0x0, 3), (7, 4, 0x0, 3), (11, 6, 0x0, 3)] (.azero (fld w 17 5))
  | 0x0B => plain x w [(0, 3, 0x0, 3), (4, 3, 0x0, 3)] (.mstat (fld w 17 5) (fld w 11 6) (fld w 7 4) (fld w 3 1))
  | 0x0C => plain x w [(0, 3, 0x0, 3), (3, 1, 0x0, 3), (11, 6, 0x0, 3)] (.mwait (fld w 17 5) (fld w 7 4) (fld w 4 3))
  | _ => .error [0x02]

/-- Class HEAD (02 R32). -/
def readHead (op : Nat) (x : Ext) (w : BitVec 32) : Except (List Nat) Instr :=
  match op with
  | 0x00 => fixed w [(0, 4, 0x0, 5), (9, 3, 0x0, 3)] (.hopen (fld w 18 4) (fld w 12 6) (fld w 8 1) (fld w 7 1) (fld w 4 3) x)
  | 0x01 => plain x w [(0, 4, 0x0, 5), (9, 3, 0x0, 3), (12, 6, 0x0, 3)] (.hclose (fld w 18 4) (fld w 4 5))
  | 0x02 => plain x w [(4, 3, 0x0, 3), (7, 1, 0x0, 3), (8, 1, 0x0, 3), (9, 3, 0x0, 3)] (.hrd (fld w 18 4) (fld w 12 6) (fld w 0 4))
  | 0x03 => fixed w [(4, 3, 0x0, 3), (7, 1, 0x0, 3), (8, 1, 0x0, 3), (9, 3, 0x0, 3)] (.hwr (fld w 18 4) (fld w 12 6) (fld w 0 4) x)
  | 0x04 => fixed w [(4, 3, 0x0, 3), (7, 1, 0x0, 3), (8, 1, 0x0, 3), (9, 3, 0x0, 3)] (.hupd (fld w 18 4) (fld w 12 6) (fld w 0 4) x)
  | 0x05 => fixed w [(0, 4, 0x0, 5), (12, 6, 0x0, 3)] (.hstep (fld w 18 4) (fld w 4 8) x)
  | 0x06 => fixed w [(0, 4, 0x0, 5), (4, 3, 0x0, 3), (7, 1, 0x0, 3), (8, 1, 0x0, 3), (9, 3, 0x0, 3), (12, 6, 0x21, 5)] (.hskip (fld w 18 4) x)
  | 0x07 => plain x w [(0, 4, 0x0, 5), (4, 3, 0x0, 3), (7, 1, 0x0, 3), (8, 1, 0x0, 3), (9, 3, 0x0, 3), (12, 6, 0x0, 3)] (.hmark (fld w 18 4))
  | 0x08 => plain x w [(0, 4, 0x0, 5), (5, 2, 0x0, 3), (7, 1, 0x0, 3), (8, 1, 0x0, 3), (9, 3, 0x0, 3), (12, 6, 0x0, 3)] (.hrwd (fld w 18 4) (fld w 4 1))
  | 0x09 => plain x w [(0, 4, 0x0, 5), (4, 3, 0x0, 3), (7, 1, 0x0, 3), (8, 1, 0x0, 3), (9, 3, 0x0, 3), (12, 6, 0x0, 3)] (.hdrop (fld w 18 4))
  | 0x0A => plain x w [(0, 4, 0x0, 5), (9, 3, 0x0, 3), (12, 6, 0x0, 3)] (.hpos (fld w 18 4) (fld w 4 5))
  | 0x0B => plain x w [(0, 4, 0x0, 5), (4, 3, 0x0, 3), (7, 1, 0x0, 3), (8, 1, 0x0, 3), (9, 3, 0x0, 3), (12, 6, 0x0, 3)] (.hrev (fld w 18 4))
  | 0x0C => fixed w [(0, 4, 0x0, 5), (7, 1, 0x0, 5), (8, 1, 0x0, 5), (9, 3, 0x0, 3)] (.hnew (fld w 18 4) (fld w 12 6) (fld w 4 3) x)
  | 0x0D => plain x w [(0, 4, 0x0, 5), (9, 3, 0x0, 3), (12, 6, 0x0, 3)] (.hseal (fld w 18 4) (fld w 4 5))
  | 0x0E => fixed w [(0, 4, 0x0, 5), (7, 1, 0x0, 5), (9, 3, 0x0, 3)] (.hlease (fld w 18 4) (fld w 12 6) (fld w 8 1) (fld w 4 3) x)
  | 0x0F => fixed w [(0, 4, 0x0, 5), (4, 3, 0x0, 3), (7, 1, 0x0, 3), (8, 1, 0x0, 3), (9, 3, 0x0, 3), (18, 4, 0x0, 3)] (.hfree (fld w 12 6) x)
  | 0x10 => plain x w [(0, 4, 0x0, 5), (9, 3, 0x0, 3), (12, 6, 0x0, 3)] (.hwait (fld w 18 4) (fld w 4 5))
  | _ => .error [0x02]

/-- Class COPY (02 R32). -/
def readCopy (op : Nat) (x : Ext) (w : BitVec 32) : Except (List Nat) Instr :=
  match op with
  | 0x00 => plain x w [(0, 2, 0x0, 3), (2, 5, 0x0, 3)] (.wset (fld w 17 5) (fld w 12 5) (fld w 7 5))
  | 0x01 => plain x w [(0, 2, 0x0, 3)] (.wloop (fld w 17 5) (fld w 12 5) (fld w 7 5) (fld w 2 5))
  | 0x02 => plain x w [(0, 2, 0x0, 3), (2, 5, 0x0, 3), (7, 5, 0x0, 3), (12, 5, 0x0, 3)] (.wrst (fld w 17 5))
  | 0x03 => plain x w [] (.kcopy (fld w 17 5) (fld w 12 5) (fld w 7 5) (fld w 2 5) (fld w 0 2))
  | 0x04 => plain x w [] (.kcopyr (fld w 17 5) (fld w 12 5) (fld w 7 5) (fld w 2 5) (fld w 0 2))
  | 0x05 => plain x w [] (.kgath (fld w 17 5) (fld w 12 5) (fld w 7 5) (fld w 2 5) (fld w 0 2))
  | 0x06 => plain x w [] (.kscat (fld w 17 5) (fld w 12 5) (fld w 7 5) (fld w 2 5) (fld w 0 2))
  | 0x07 => plain x w [] (.kfill (fld w 17 5) (fld w 12 5) (fld w 7 5) (fld w 2 5) (fld w 0 2))
  | 0x08 => plain x w [(0, 2, 0x0, 3), (2, 5, 0x0, 3), (7, 5, 0x0, 3)] (.ktag (fld w 17 5) (fld w 12 5))
  | 0x09 => plain x w [(0, 2, 0x0, 3), (2, 5, 0x0, 3), (7, 5, 0x0, 3)] (.kchk (fld w 17 5) (fld w 12 5))
  | 0x0A => plain x w [(2, 5, 0x0, 3), (7, 5, 0x0, 3)] (.sld (fld w 17 5) (fld w 12 5) (fld w 0 2))
  | 0x0B => plain x w [(2, 5, 0x0, 3), (7, 5, 0x0, 3)] (.sst (fld w 17 5) (fld w 12 5) (fld w 0 2))
  | 0x0C => plain x w [(0, 2, 0x0, 3), (2, 5, 0x0, 3), (7, 5, 0x0, 3)] (.ltset (fld w 17 5) (fld w 12 5))
  | 0x0D => plain x w [(2, 5, 0x0, 3), (7, 5, 0x0, 3), (17, 5, 0x0, 3)] (.kstat (fld w 12 5) (fld w 0 2))
  | _ => .error [0x02]

/-- Class QMEM (02 R32). -/
def readQmem (op : Nat) (x : Ext) (w : BitVec 32) : Except (List Nat) Instr :=
  match op with
  | 0x00 => fixed w [(0, 1, 0x0, 3)] (.ld (fld w 17 5) (fld w 12 5) (fld w 6 6) (fld w 4 2) (fld w 2 2) (fld w 1 1) x)
  | 0x01 => fixed w [(0, 1, 0x0, 3)] (.st (fld w 17 5) (fld w 12 5) (fld w 6 6) (fld w 4 2) (fld w 2 2) (fld w 1 1) x)
  | 0x02 => fixed w [(0, 1, 0x0, 3)] (.lda (fld w 17 5) (fld w 12 5) (fld w 6 6) (fld w 4 2) (fld w 2 2) (fld w 1 1) x)
  | 0x03 => fixed w [(0, 1, 0x0, 3)] (.stl (fld w 17 5) (fld w 12 5) (fld w 6 6) (fld w 4 2) (fld w 2 2) (fld w 1 1) x)
  | 0x04 => fixed w [(0, 1, 0x0, 3), (1, 1, 0x0, 5), (2, 2, 0x0, 5)] (.ldv (fld w 17 5) (fld w 12 5) (fld w 6 6) (fld w 4 2) x)
  | 0x05 => fixed w [(0, 1, 0x0, 3), (1, 1, 0x0, 5), (2, 2, 0x0, 5)] (.stv (fld w 17 5) (fld w 12 5) (fld w 6 6) (fld w 4 2) x)
  | 0x06 => fixed w [(0, 1, 0x0, 3), (5, 1, 0x1, 5)] (.amoadd (fld w 17 5) (fld w 12 5) (fld w 6 6) (fld w 4 1) (fld w 2 2) (fld w 1 1) x)
  | 0x07 => fixed w [(0, 1, 0x0, 3), (5, 1, 0x1, 5)] (.amoand (fld w 17 5) (fld w 12 5) (fld w 6 6) (fld w 4 1) (fld w 2 2) (fld w 1 1) x)
  | 0x08 => fixed w [(0, 1, 0x0, 3), (5, 1, 0x1, 5)] (.amoor (fld w 17 5) (fld w 12 5) (fld w 6 6) (fld w 4 1) (fld w 2 2) (fld w 1 1) x)
  | 0x09 => fixed w [(0, 1, 0x0, 3), (5, 1, 0x1, 5)] (.amoxor (fld w 17 5) (fld w 12 5) (fld w 6 6) (fld w 4 1) (fld w 2 2) (fld w 1 1) x)
  | 0x0A => fixed w [(0, 1, 0x0, 3), (5, 1, 0x1, 5)] (.amomin (fld w 17 5) (fld w 12 5) (fld w 6 6) (fld w 4 1) (fld w 2 2) (fld w 1 1) x)
  | 0x0B => fixed w [(0, 1, 0x0, 3), (5, 1, 0x1, 5)] (.amomax (fld w 17 5) (fld w 12 5) (fld w 6 6) (fld w 4 1) (fld w 2 2) (fld w 1 1) x)
  | 0x0C => fixed w [(0, 1, 0x0, 3), (5, 1, 0x1, 5)] (.amoswp (fld w 17 5) (fld w 12 5) (fld w 6 6) (fld w 4 1) (fld w 2 2) (fld w 1 1) x)
  | 0x0D => fixed w [(0, 1, 0x0, 3), (5, 1, 0x1, 5)] (.amocas (fld w 17 5) (fld w 12 5) (fld w 6 6) (fld w 4 1) (fld w 2 2) (fld w 1 1) x)
  | 0x0E => fixed w [(0, 1, 0x0, 3), (1, 1, 0x0, 5), (4, 2, 0x2, 5)] (.vamoor (fld w 17 5) (fld w 12 5) (fld w 6 6) (fld w 2 2) x)
  | 0x0F => fixed w [(0, 1, 0x0, 3), (1, 1, 0x0, 5), (4, 2, 0x2, 5)] (.vamoadd (fld w 17 5) (fld w 12 5) (fld w 6 6) (fld w 2 2) x)
  | 0x10 => fixed w [(0, 1, 0x0, 3), (1, 1, 0x0, 5), (4, 2, 0x3, 5)] (.barriv (fld w 17 5) (fld w 12 5) (fld w 6 6) (fld w 2 2) x)
  | 0x11 => fixed w [(0, 1, 0x0, 3), (1, 1, 0x0, 5), (4, 2, 0x3, 5)] (.barwait (fld w 17 5) (fld w 12 5) (fld w 6 6) (fld w 2 2) x)
  | 0x12 => fixed w [(0, 1, 0x0, 3), (1, 1, 0x0, 5), (4, 2, 0x3, 5)] (.barinit (fld w 17 5) (fld w 12 5) (fld w 6 6) (fld w 2 2) x)
  | _ => .error [0x02]

/-- Class FAB (02 R32). -/
def readFab (op : Nat) (x : Ext) (w : BitVec 32) : Except (List Nat) Instr :=
  match op with
  | 0x00 => plain x w [(1, 6, 0x0, 3), (7, 5, 0x0, 3)] (.sfbind (fld w 17 5) (fld w 12 5) (fld w 0 1))
  | 0x01 => plain x w [(1, 6, 0x0, 3), (17, 5, 0x0, 3)] (.sfgo (fld w 12 5) (fld w 7 5) (fld w 0 1))
  | 0x02 => plain x w [(3, 4, 0x0, 5), (7, 5, 0x0, 3)] (.sfstat (fld w 17 5) (fld w 12 5) (fld w 0 3))
  | 0x03 => plain x w [(0, 7, 0x0, 3), (7, 5, 0x0, 3), (17, 5, 0x0, 3)] (.sfrel (fld w 12 5))
  | 0x04 => plain x w [(0, 7, 0x0, 3), (17, 5, 0x0, 3)] (.sfmash (fld w 12 5) (fld w 7 5))
  | 0x05 => plain x w [(7, 5, 0x0, 3), (17, 5, 0x0, 3)] (.qdim (fld w 12 5) (fld w 0 7))
  | 0x06 => plain x w [(1, 6, 0x0, 5), (17, 5, 0x0, 3)] (.qidx (fld w 12 5) (fld w 7 5) (fld w 0 1))
  | 0x07 => plain x w [(0, 7, 0x0, 3), (7, 5, 0x0, 3), (17, 5, 0x0, 3)] (.qstr (fld w 12 5))
  | 0x08 => plain x w [(2, 5, 0x0, 5), (7, 5, 0x0, 3), (12, 5, 0x0, 3), (17, 5, 0x0, 3)] (.qgen (fld w 1 1) (fld w 0 1))
  | 0x09 => plain x w [(2, 5, 0x0, 5), (7, 5, 0x0, 3), (12, 5, 0x0, 3), (17, 5, 0x0, 3)] (.qgenv (fld w 1 1) (fld w 0 1))
  | 0x0A => plain x w [(5, 2, 0x0, 5), (7, 5, 0x0, 3), (17, 5, 0x0, 3)] (.qdir (fld w 12 5) (fld w 0 5))
  | 0x0B => if fld w 5 1 = 1 then plain x w [(0, 7, 0x20, 5), (7, 5, 0x0, 3), (17, 5, 0x0, 3)] (.qscrShift (fld w 12 5))
    else plain x w [(5, 2, 0x0, 5), (7, 5, 0x0, 3), (17, 5, 0x0, 3)] (.qscr (fld w 12 5) (fld w 0 5))
  | 0x0C => plain x w [(0, 7, 0x0, 3)] (.qsave (fld w 17 5) (fld w 12 5) (fld w 7 5))
  | 0x0D => plain x w [(0, 7, 0x0, 3)] (.qload (fld w 17 5) (fld w 12 5) (fld w 7 5))
  | _ => .error [0x02]

/-- Class GRAPH (02 R32). -/
def readGraph (op : Nat) (x : Ext) (w : BitVec 32) : Except (List Nat) Instr :=
  match op with
  | 0x00 => plain x w [(1, 6, 0x0, 5), (7, 5, 0x0, 3), (17, 5, 0x0, 3)] (.klaunch (fld w 12 5) (fld w 0 1))
  | 0x01 => plain x w [(1, 6, 0x0, 5), (17, 5, 0x0, 3)] (.klaunchc (fld w 12 5) (fld w 7 5) (fld w 0 1))
  | 0x02 => plain x w [(0, 7, 0x0, 3), (17, 5, 0x0, 3)] (.gsig (fld w 12 5) (fld w 7 5))
  | 0x04 => plain x w [(0, 7, 0x0, 3), (7, 5, 0x0, 3), (12, 5, 0x0, 3)] (.qsync (fld w 17 5))
  | 0x05 => plain x w [(0, 7, 0x0, 3), (7, 5, 0x0, 3), (17, 5, 0x0, 3)] (.gprio (fld w 12 5))
  | 0x06 => plain x w [(7, 5, 0x0, 3), (12, 5, 0x0, 3)] (.garg (fld w 17 5) (fld w 0 7))
  | _ => .error [0x02]

/-- A slot that is not a header: by class (02 R32).  Class 0xF in slots 1 to 3 is reason 0x04. -/
def readSlot (x : Ext) (w : BitVec 32) : Except (List Nat) Instr :=
  let op := w.toNat / 2 ^ 22 % 2 ^ 6
  match w.toNat / 2 ^ 28 with
  | 0x0 => readScal op x w
  | 0x1 => readSimm op x w
  | 0x2 => readCtrl op x w
  | 0x3 => readSys op x w
  | 0x4 => readRow op x w
  | 0x5 => readRowx op x w
  | 0x6 => readMtx op x w
  | 0x7 => readHead op x w
  | 0x8 => readCopy op x w
  | 0x9 => readQmem op x w
  | 0xA => readFab op x w
  | 0xB => readGraph op x w
  | 0xF => .error [0x04]
  | _ => .error [0x01]

/-- A header (02 R26): MARK, WHEEL and the ext bytes lent to slots 1 to 3. -/
structure Header where
  mark : Bool
  wheel : Bool
  e1 : BitVec 8
  e2 : BitVec 8
  e3 : BitVec 8
  deriving DecidableEq, Repr

/-- A bundle: its header, if slot 0 is one, whether a class QMEM slot has its sc bit set (02 R26), and what each slot
reads as.  A header stands for NOP in slot 0. -/
structure Bundle where
  hdr : Option Header
  sc : Bool
  s0 : Except (List Nat) Instr
  s1 : Except (List Nat) Instr
  s2 : Except (List Nat) Instr
  s3 : Except (List Nat) Instr

/-- The header that a slot holds, if its class is 0xF. -/
def readHeader (w : BitVec 32) : Option Header :=
  if w.toNat / 2 ^ 28 = 0xF then
    some ⟨fld w 27 1 = 1, fld w 26 1 = 1, fld w 16 8, fld w 8 8, fld w 0 8⟩
  else none

/-- The ext byte that a header lends to slot `k`. -/
def Header.ext (h : Header) (k : Nat) : BitVec 8 :=
  match k with
  | 1 => h.e1
  | 2 => h.e2
  | _ => h.e3

/-- Whether a slot word is of class QMEM with bit 1, the sc bit, set (02 R28, R34 check 0x07). -/
def scBit (w : BitVec 32) : Bool := w.toNat / 2 ^ 28 = 0x9 && w.toNat / 2 % 2 = 1

/-- The bundle of four slot words, slot 0 first. -/
def readBundle (w0 w1 w2 w3 : BitVec 32) : Bundle :=
  match readHeader w0 with
  | some h =>
    { hdr := some h
      sc := scBit w1 || scBit w2 || scBit w3
      s0 := if fld w0 24 2 = 0 then .ok .nop else .error [0x03]
      s1 := readSlot (some h.e1) w1
      s2 := readSlot (some h.e2) w2
      s3 := readSlot (some h.e3) w3 }
  | none =>
    { hdr := none
      sc := scBit w0 || scBit w1 || scBit w2 || scBit w3
      s0 := readSlot none w0
      s1 := readSlot none w1
      s2 := readSlot none w2
      s3 := readSlot none w3 }

/-- Slot `k` of a bundle. -/
def Bundle.slot (b : Bundle) (k : Nat) : Except (List Nat) Instr :=
  match k with
  | 0 => b.s0
  | 1 => b.s1
  | 2 => b.s2
  | _ => b.s3

/-- The slots of a bundle, slot 0 first. -/
def Bundle.slots (b : Bundle) : List (Except (List Nat) Instr) := [b.s0, b.s1, b.s2, b.s3]

/-- The instruction a slot reads as; a slot that is none reads as NOP where only the uses of good slots matter. -/
def slotInstr : Except (List Nat) Instr → Instr
  | .ok i => i
  | .error _ => .nop

/-- Whether the bundle carries an SC operation (02 R26). -/
def Bundle.hasSc (b : Bundle) : Bool := b.sc

/-- Whether the bundle is a restart bundle (02 R26). -/
def Bundle.isRestart (b : Bundle) : Bool := b.hdr.any (·.mark)

/-- Little-endian 32-bit word from four bytes (01 R7). -/
def wordOf (b0 b1 b2 b3 : Byte) : BitVec 32 :=
  BitVec.ofNat 32 (b0.toNat + b1.toNat * 2 ^ 8 + b2.toNat * 2 ^ 16 + b3.toNat * 2 ^ 24)

/-- The bundle of 16 bytes, lowest address first (01 R7); bytes missing at the end read as zero. -/
def bundleOf (l : List Byte) : Bundle :=
  let b (n : Nat) : Byte := l.getD n 0
  readBundle (wordOf (b 0) (b 1) (b 2) (b 3)) (wordOf (b 4) (b 5) (b 6) (b 7))
    (wordOf (b 8) (b 9) (b 10) (b 11)) (wordOf (b 12) (b 13) (b 14) (b 15))

/-- The scanner's reasons for one slot (02 R34, checks 0x01 to 0x06 and 0x08). -/
def slotFaults (s : Except (List Nat) Instr) : List Nat :=
  match s with
  | .error why => why
  | .ok i => i.faults

/-- Check 0x07 of the scanner (02 R34): WHEEL and the presence of an sc bit agree. -/
def Bundle.wheelFaults (b : Bundle) : List Nat :=
  if b.hdr.any (·.wheel) = b.hasSc then [] else [0x07]

/-- Every (slot, reason) that the scanner finds in a bundle by itself (02 R34). -/
def Bundle.faults (b : Bundle) : List (Nat × Nat) :=
  (slotFaults b.s0).map (0, ·) ++ (slotFaults b.s1).map (1, ·) ++ (slotFaults b.s2).map (2, ·) ++
    (slotFaults b.s3).map (3, ·) ++ b.wheelFaults.map (0, ·)

/-- Width of a row of fields, each a width and a value. -/
def span (l : List (Nat × Nat)) : Nat :=
  match l with
  | [] => 0
  | f :: rest => f.1 + span rest

/-- The number that fields make, the highest first. -/
def pack (l : List (Nat × Nat)) : Nat :=
  match l with
  | [] => 0
  | f :: rest => f.2 * 2 ^ span rest + pack rest

/-- A slot word: its fields from bit 31 down, a field that the instruction does not use at its fixed value. -/
def word (l : List (Nat × Nat)) : BitVec 32 := BitVec.ofNat 32 (pack l)

/-- The word of a slot instruction and the ext byte it needs, from the tables of 02 R28 and R32; an event of the
device has no encoding. -/
def Instr.encode : Instr → Option (Ext × BitVec 32)
  | .nop => some (none, word [(4, 0x0), (6, 0x0), (5, 0x0), (5, 0x0), (5, 0x0), (4, 0x0), (2, 0x0), (1, 0x0)])
  | .add d a b p i => some (none, word [(4, 0x0), (6, 0x1), (5, d.toNat), (5, a.toNat), (5, b.toNat), (4, p.toNat), (2, 0x0), (1, i.toNat)])
  | .sub d a b p i => some (none, word [(4, 0x0), (6, 0x2), (5, d.toNat), (5, a.toNat), (5, b.toNat), (4, p.toNat), (2, 0x0), (1, i.toNat)])
  | .addw d a b p i => some (none, word [(4, 0x0), (6, 0x3), (5, d.toNat), (5, a.toNat), (5, b.toNat), (4, p.toNat), (2, 0x0), (1, i.toNat)])
  | .subw d a b p i => some (none, word [(4, 0x0), (6, 0x4), (5, d.toNat), (5, a.toNat), (5, b.toNat), (4, p.toNat), (2, 0x0), (1, i.toNat)])
  | .mul d a b p i => some (none, word [(4, 0x0), (6, 0x5), (5, d.toNat), (5, a.toNat), (5, b.toNat), (4, p.toNat), (2, 0x0), (1, i.toNat)])
  | .mulh d a b p i => some (none, word [(4, 0x0), (6, 0x6), (5, d.toNat), (5, a.toNat), (5, b.toNat), (4, p.toNat), (2, 0x0), (1, i.toNat)])
  | .mulhu d a b p i => some (none, word [(4, 0x0), (6, 0x7), (5, d.toNat), (5, a.toNat), (5, b.toNat), (4, p.toNat), (2, 0x0), (1, i.toNat)])
  | .div d a b p i => some (none, word [(4, 0x0), (6, 0x8), (5, d.toNat), (5, a.toNat), (5, b.toNat), (4, p.toNat), (2, 0x0), (1, i.toNat)])
  | .divu d a b p i => some (none, word [(4, 0x0), (6, 0x9), (5, d.toNat), (5, a.toNat), (5, b.toNat), (4, p.toNat), (2, 0x0), (1, i.toNat)])
  | .rem d a b p i => some (none, word [(4, 0x0), (6, 0xA), (5, d.toNat), (5, a.toNat), (5, b.toNat), (4, p.toNat), (2, 0x0), (1, i.toNat)])
  | .remu d a b p i => some (none, word [(4, 0x0), (6, 0xB), (5, d.toNat), (5, a.toNat), (5, b.toNat), (4, p.toNat), (2, 0x0), (1, i.toNat)])
  | .and d a b p i => some (none, word [(4, 0x0), (6, 0xC), (5, d.toNat), (5, a.toNat), (5, b.toNat), (4, p.toNat), (2, 0x0), (1, i.toNat)])
  | .or d a b p i => some (none, word [(4, 0x0), (6, 0xD), (5, d.toNat), (5, a.toNat), (5, b.toNat), (4, p.toNat), (2, 0x0), (1, i.toNat)])
  | .xor d a b p i => some (none, word [(4, 0x0), (6, 0xE), (5, d.toNat), (5, a.toNat), (5, b.toNat), (4, p.toNat), (2, 0x0), (1, i.toNat)])
  | .andn d a b p i => some (none, word [(4, 0x0), (6, 0xF), (5, d.toNat), (5, a.toNat), (5, b.toNat), (4, p.toNat), (2, 0x0), (1, i.toNat)])
  | .shl d a b p i => some (none, word [(4, 0x0), (6, 0x10), (5, d.toNat), (5, a.toNat), (5, b.toNat), (4, p.toNat), (2, 0x0), (1, i.toNat)])
  | .shr d a b p i => some (none, word [(4, 0x0), (6, 0x11), (5, d.toNat), (5, a.toNat), (5, b.toNat), (4, p.toNat), (2, 0x0), (1, i.toNat)])
  | .sra d a b p i => some (none, word [(4, 0x0), (6, 0x12), (5, d.toNat), (5, a.toNat), (5, b.toNat), (4, p.toNat), (2, 0x0), (1, i.toNat)])
  | .min d a b p i => some (none, word [(4, 0x0), (6, 0x13), (5, d.toNat), (5, a.toNat), (5, b.toNat), (4, p.toNat), (2, 0x0), (1, i.toNat)])
  | .max d a b p i => some (none, word [(4, 0x0), (6, 0x14), (5, d.toNat), (5, a.toNat), (5, b.toNat), (4, p.toNat), (2, 0x0), (1, i.toNat)])
  | .minu d a b p i => some (none, word [(4, 0x0), (6, 0x15), (5, d.toNat), (5, a.toNat), (5, b.toNat), (4, p.toNat), (2, 0x0), (1, i.toNat)])
  | .maxu d a b p i => some (none, word [(4, 0x0), (6, 0x16), (5, d.toNat), (5, a.toNat), (5, b.toNat), (4, p.toNat), (2, 0x0), (1, i.toNat)])
  | .clz d a p i => some (none, word [(4, 0x0), (6, 0x17), (5, d.toNat), (5, a.toNat), (5, 0x0), (4, p.toNat), (2, 0x0), (1, i.toNat)])
  | .popc d a p i => some (none, word [(4, 0x0), (6, 0x18), (5, d.toNat), (5, a.toNat), (5, 0x0), (4, p.toNat), (2, 0x0), (1, i.toNat)])
  | .sel d a b p i => some (none, word [(4, 0x0), (6, 0x19), (5, d.toNat), (5, a.toNat), (5, b.toNat), (4, p.toNat), (2, 0x0), (1, i.toNat)])
  | .peq d a b p i => some (none, word [(4, 0x0), (6, 0x1A), (5, d.toNat), (5, a.toNat), (5, b.toNat), (4, p.toNat), (2, 0x0), (1, i.toNat)])
  | .pne d a b p i => some (none, word [(4, 0x0), (6, 0x1B), (5, d.toNat), (5, a.toNat), (5, b.toNat), (4, p.toNat), (2, 0x0), (1, i.toNat)])
  | .plt d a b p i => some (none, word [(4, 0x0), (6, 0x1C), (5, d.toNat), (5, a.toNat), (5, b.toNat), (4, p.toNat), (2, 0x0), (1, i.toNat)])
  | .pltu d a b p i => some (none, word [(4, 0x0), (6, 0x1D), (5, d.toNat), (5, a.toNat), (5, b.toNat), (4, p.toNat), (2, 0x0), (1, i.toNat)])
  | .pand d a b p i => some (none, word [(4, 0x0), (6, 0x1E), (5, d.toNat), (5, a.toNat), (5, b.toNat), (4, p.toNat), (2, 0x0), (1, i.toNat)])
  | .por d a b p i => some (none, word [(4, 0x0), (6, 0x1F), (5, d.toNat), (5, a.toNat), (5, b.toNat), (4, p.toNat), (2, 0x0), (1, i.toNat)])
  | .pxor d a b p i => some (none, word [(4, 0x0), (6, 0x20), (5, d.toNat), (5, a.toNat), (5, b.toNat), (4, p.toNat), (2, 0x0), (1, i.toNat)])
  | .pandn d a b p i => some (none, word [(4, 0x0), (6, 0x21), (5, d.toNat), (5, a.toNat), (5, b.toNat), (4, p.toNat), (2, 0x0), (1, i.toNat)])
  | .pmov d a p i => some (none, word [(4, 0x0), (6, 0x22), (5, d.toNat), (5, a.toNat), (5, 0x0), (4, p.toNat), (2, 0x0), (1, i.toNat)])
  | .pfrom d a b p i => some (none, word [(4, 0x0), (6, 0x23), (5, d.toNat), (5, a.toNat), (5, b.toNat), (4, p.toNat), (2, 0x0), (1, i.toNat)])
  | .sfromp d a h p i => some (none, word [(4, 0x0), (6, 0x24), (5, d.toNat), (5, a.toNat), (4, 0x0), (1, h.toNat), (4, p.toNat), (2, 0x0), (1, i.toNat)])
  | .addi d a i x => some (x, word [(4, 0x1), (6, 0x0), (5, d.toNat), (5, a.toNat), (12, i.toNat)])
  | .andi d a i x => some (x, word [(4, 0x1), (6, 0x1), (5, d.toNat), (5, a.toNat), (12, i.toNat)])
  | .ori d a i x => some (x, word [(4, 0x1), (6, 0x2), (5, d.toNat), (5, a.toNat), (12, i.toNat)])
  | .xori d a i x => some (x, word [(4, 0x1), (6, 0x3), (5, d.toNat), (5, a.toNat), (12, i.toNat)])
  | .shli d a c => some (none, word [(4, 0x1), (6, 0x4), (5, d.toNat), (5, a.toNat), (6, 0x0), (6, c.toNat)])
  | .shri d a c => some (none, word [(4, 0x1), (6, 0x5), (5, d.toNat), (5, a.toNat), (6, 0x0), (6, c.toNat)])
  | .srai d a c => some (none, word [(4, 0x1), (6, 0x6), (5, d.toNat), (5, a.toNat), (6, 0x0), (6, c.toNat)])
  | .lim d i x => some (x, word [(4, 0x1), (6, 0x7), (5, d.toNat), (17, i.toNat)])
  | .limh d i x => some (x, word [(4, 0x1), (6, 0x8), (5, d.toNat), (17, i.toNat)])
  | .peqi d a i x => some (x, word [(4, 0x1), (6, 0x9), (5, d.toNat), (5, a.toNat), (12, i.toNat)])
  | .plti d a i x => some (x, word [(4, 0x1), (6, 0xA), (5, d.toNat), (5, a.toNat), (12, i.toNat)])
  | .pltui d a i x => some (x, word [(4, 0x1), (6, 0xB), (5, d.toNat), (5, a.toNat), (12, i.toNat)])
  | .muli d a i x => some (x, word [(4, 0x1), (6, 0xC), (5, d.toNat), (5, a.toNat), (12, i.toNat)])
  | .br o => some (none, word [(4, 0x2), (6, 0x0), (22, o.toNat)])
  | .brp p o => some (none, word [(4, 0x2), (6, 0x1), (4, p.toNat), (18, o.toNat)])
  | .brnp p o => some (none, word [(4, 0x2), (6, 0x2), (4, p.toNat), (18, o.toNat)])
  | .call o => some (none, word [(4, 0x2), (6, 0x3), (22, o.toNat)])
  | .ret => some (none, word [(4, 0x2), (6, 0x4), (5, 0x0), (5, 0x0), (12, 0x0)])
  | .jr a i => some (none, word [(4, 0x2), (6, 0x5), (5, 0x0), (5, a.toNat), (12, i.toNat)])
  | .loopi a s b => some (none, word [(4, 0x2), (6, 0x6), (5, 0x0), (5, a.toNat), (7, 0x0), (2, s.toNat), (3, b.toNat)])
  | .loop o => some (none, word [(4, 0x2), (6, 0x7), (22, o.toNat)])
  | .waitc a i => some (none, word [(4, 0x2), (6, 0x8), (5, 0x0), (5, a.toNat), (12, i.toNat)])
  | .fmtset c s r o a e => some (none, word [(4, 0x2), (6, 0x9), (4, 0x0), (2, c.toNat), (1, 0x0), (1, s.toNat), (2, r.toNat), (4, o.toNat), (4, a.toNat), (4, e.toNat)])
  | .fmtget d => some (none, word [(4, 0x2), (6, 0xA), (5, d.toNat), (5, 0x0), (12, 0x0)])
  | .halt => some (none, word [(4, 0x2), (6, 0xB), (5, 0x0), (5, 0x0), (12, 0x0)])
  | .trap i => some (none, word [(4, 0x3), (6, 0x0), (5, 0x0), (5, 0x0), (12, i.toNat)])
  | .csrr d c => some (none, word [(4, 0x3), (6, 0x1), (5, d.toNat), (5, 0x0), (12, c.toNat)])
  | .csrw d a c => some (none, word [(4, 0x3), (6, 0x2), (5, d.toNat), (5, a.toNat), (12, c.toNat)])
  | .csrs d a c => some (none, word [(4, 0x3), (6, 0x3), (5, d.toNat), (5, a.toNat), (12, c.toNat)])
  | .csrc d a c => some (none, word [(4, 0x3), (6, 0x4), (5, d.toNat), (5, a.toNat), (12, c.toNat)])
  | .rdcyc d => some (none, word [(4, 0x3), (6, 0x5), (5, d.toNat), (5, 0x0), (12, 0x0)])
  | .rdgcy d => some (none, word [(4, 0x3), (6, 0x6), (5, d.toNat), (5, 0x0), (12, 0x0)])
  | .rdwhl d => some (none, word [(4, 0x3), (6, 0x7), (5, d.toNat), (5, 0x0), (12, 0x0)])
  | .twincmp a => some (none, word [(4, 0x3), (6, 0x8), (5, 0x0), (5, a.toNat), (12, 0x0)])
  | .twincmpTile k => some (none, word [(4, 0x3), (6, 0x8), (5, 0x0), (5, 0x0), (6, 0x20), (6, k.toNat)])
  | .fence s => some (none, word [(4, 0x3), (6, 0x9), (5, 0x0), (5, 0x0), (10, 0x0), (2, s.toNat)])
  | .fencec d s => some (none, word [(4, 0x3), (6, 0xA), (5, d.toNat), (5, 0x0), (10, 0x0), (2, s.toNat)])
  | .scfence d s => some (none, word [(4, 0x3), (6, 0xB), (5, d.toNat), (5, 0x0), (10, 0x0), (2, s.toNat)])
  | .brk i => some (none, word [(4, 0x3), (6, 0xC), (5, 0x0), (5, 0x0), (12, i.toNat)])
  | .detn d c => some (none, word [(4, 0x3), (6, 0xD), (5, d.toNat), (5, 0x0), (4, 0x0), (8, c.toNat)])
  | .dgst d => some (none, word [(4, 0x3), (6, 0xE), (5, d.toNat), (5, 0x0), (12, 0x0)])
  | .dgstFold a => some (none, word [(4, 0x3), (6, 0xE), (5, 0x0), (5, a.toNat), (12, 0x1)])
  | .vmov d a p x => some (x, word [(4, 0x4), (6, 0x0), (6, d.toNat), (6, a.toNat), (6, 0x20), (4, p.toNat)])
  | .vadd d a b p x => some (x, word [(4, 0x4), (6, 0x1), (6, d.toNat), (6, a.toNat), (6, b.toNat), (4, p.toNat)])
  | .vsub d a b p x => some (x, word [(4, 0x4), (6, 0x2), (6, d.toNat), (6, a.toNat), (6, b.toNat), (4, p.toNat)])
  | .vmul d a b p x => some (x, word [(4, 0x4), (6, 0x3), (6, d.toNat), (6, a.toNat), (6, b.toNat), (4, p.toNat)])
  | .vmac d a b p x => some (x, word [(4, 0x4), (6, 0x4), (6, d.toNat), (6, a.toNat), (6, b.toNat), (4, p.toNat)])
  | .vadds d a b p x => some (x, word [(4, 0x4), (6, 0x5), (6, d.toNat), (6, a.toNat), (6, b.toNat), (4, p.toNat)])
  | .vsubs d a b p x => some (x, word [(4, 0x4), (6, 0x6), (6, d.toNat), (6, a.toNat), (6, b.toNat), (4, p.toNat)])
  | .vmin d a b p x => some (x, word [(4, 0x4), (6, 0x7), (6, d.toNat), (6, a.toNat), (6, b.toNat), (4, p.toNat)])
  | .vmax d a b p x => some (x, word [(4, 0x4), (6, 0x8), (6, d.toNat), (6, a.toNat), (6, b.toNat), (4, p.toNat)])
  | .vabs d a p x => some (x, word [(4, 0x4), (6, 0x9), (6, d.toNat), (6, a.toNat), (6, 0x20), (4, p.toNat)])
  | .vneg d a p x => some (x, word [(4, 0x4), (6, 0xA), (6, d.toNat), (6, a.toNat), (6, 0x20), (4, p.toNat)])
  | .vand d a b p x => some (x, word [(4, 0x4), (6, 0xB), (6, d.toNat), (6, a.toNat), (6, b.toNat), (4, p.toNat)])
  | .vor d a b p x => some (x, word [(4, 0x4), (6, 0xC), (6, d.toNat), (6, a.toNat), (6, b.toNat), (4, p.toNat)])
  | .vxor d a b p x => some (x, word [(4, 0x4), (6, 0xD), (6, d.toNat), (6, a.toNat), (6, b.toNat), (4, p.toNat)])
  | .vshl d a b p x => some (x, word [(4, 0x4), (6, 0xE), (6, d.toNat), (6, a.toNat), (6, b.toNat), (4, p.toNat)])
  | .vshr d a b p x => some (x, word [(4, 0x4), (6, 0xF), (6, d.toNat), (6, a.toNat), (6, b.toNat), (4, p.toNat)])
  | .vsra d a b p x => some (x, word [(4, 0x4), (6, 0x10), (6, d.toNat), (6, a.toNat), (6, b.toNat), (4, p.toNat)])
  | .vmullo d a b p x => some (x, word [(4, 0x4), (6, 0x11), (6, d.toNat), (6, a.toNat), (6, b.toNat), (4, p.toNat)])
  | .vmulhi d a b p x => some (x, word [(4, 0x4), (6, 0x12), (6, d.toNat), (6, a.toNat), (6, b.toNat), (4, p.toNat)])
  | .vpeq d a b p x => some (x, word [(4, 0x4), (6, 0x13), (6, d.toNat), (6, a.toNat), (6, b.toNat), (4, p.toNat)])
  | .vpne d a b p x => some (x, word [(4, 0x4), (6, 0x14), (6, d.toNat), (6, a.toNat), (6, b.toNat), (4, p.toNat)])
  | .vplt d a b p x => some (x, word [(4, 0x4), (6, 0x15), (6, d.toNat), (6, a.toNat), (6, b.toNat), (4, p.toNat)])
  | .vple d a b p x => some (x, word [(4, 0x4), (6, 0x16), (6, d.toNat), (6, a.toNat), (6, b.toNat), (4, p.toNat)])
  | .vsel d a b p x => some (x, word [(4, 0x4), (6, 0x17), (6, d.toNat), (6, a.toNat), (6, b.toNat), (4, p.toNat)])
  | .vrcp d a p x => some (x, word [(4, 0x4), (6, 0x18), (6, d.toNat), (6, a.toNat), (6, 0x20), (4, p.toNat)])
  | .vrsq d a p x => some (x, word [(4, 0x4), (6, 0x19), (6, d.toNat), (6, a.toNat), (6, 0x20), (4, p.toNat)])
  | .vexp2 d a p x => some (x, word [(4, 0x4), (6, 0x1A), (6, d.toNat), (6, a.toNat), (6, 0x20), (4, p.toNat)])
  | .vlog2 d a p x => some (x, word [(4, 0x4), (6, 0x1B), (6, d.toNat), (6, a.toNat), (6, 0x20), (4, p.toNat)])
  | .vrsum d a p x => some (x, word [(4, 0x4), (6, 0x1C), (6, d.toNat), (6, a.toNat), (6, 0x20), (4, p.toNat)])
  | .vrmax d a p x => some (x, word [(4, 0x4), (6, 0x1D), (6, d.toNat), (6, a.toNat), (6, 0x20), (4, p.toNat)])
  | .vrmin d a p x => some (x, word [(4, 0x4), (6, 0x1E), (6, d.toNat), (6, a.toNat), (6, 0x20), (4, p.toNat)])
  | .vperm d a b p x => some (x, word [(4, 0x4), (6, 0x1F), (6, d.toNat), (6, a.toNat), (6, b.toNat), (4, p.toNat)])
  | .vlsh d a b p x => some (x, word [(4, 0x4), (6, 0x20), (6, d.toNat), (6, a.toNat), (6, b.toNat), (4, p.toNat)])
  | .vbcst d a b p x => some (x, word [(4, 0x4), (6, 0x21), (6, d.toNat), (6, a.toNat), (6, b.toNat), (4, p.toNat)])
  | .vpopc d a p x => some (x, word [(4, 0x4), (6, 0x22), (6, d.toNat), (6, a.toNat), (6, 0x20), (4, p.toNat)])
  | .vclz d a p x => some (x, word [(4, 0x4), (6, 0x23), (6, d.toNat), (6, a.toNat), (6, 0x20), (4, p.toNat)])
  | .vrint d a p x => some (x, word [(4, 0x4), (6, 0x24), (6, d.toNat), (6, a.toNat), (6, 0x20), (4, p.toNat)])
  | .vcvt d a f e p x => some (x, word [(4, 0x5), (6, 0x0), (6, d.toNat), (6, a.toNat), (4, f.toNat), (1, e.toNat), (1, 0x0), (4, p.toNat)])
  | .vsplat d i p x => some (x, word [(4, 0x5), (6, 0x1), (6, d.toNat), (6, 0x0), (6, i.toNat), (4, p.toNat)])
  | .vsplats d e u p x => some (x, word [(4, 0x5), (6, 0x2), (6, d.toNat), (6, 0x21), (4, 0x0), (1, e.toNat), (1, u.toNat), (4, p.toNat)])
  | .vaddi d a i p x => some (x, word [(4, 0x5), (6, 0x3), (6, d.toNat), (6, a.toNat), (6, i.toNat), (4, p.toNat)])
  | .vshli d a i p x => some (x, word [(4, 0x5), (6, 0x4), (6, d.toNat), (6, a.toNat), (6, i.toNat), (4, p.toNat)])
  | .vshri d a i p x => some (x, word [(4, 0x5), (6, 0x5), (6, d.toNat), (6, a.toNat), (6, i.toNat), (4, p.toNat)])
  | .viota d i p x => some (x, word [(4, 0x5), (6, 0x6), (6, d.toNat), (6, 0x0), (6, i.toNat), (4, p.toNat)])
  | .vcur c t r s => some (none, word [(4, 0x5), (6, 0x7), (3, c.toNat), (7, t.toNat), (4, r.toNat), (2, s.toNat), (6, 0x0)])
  | .vcurs d x => some (x, word [(4, 0x5), (6, 0x8), (6, d.toNat), (6, 0x21), (6, 0x0), (4, 0x0)])
  | .vextr d a l p x => some (x, word [(4, 0x5), (6, 0x9), (6, d.toNat), (6, a.toNat), (6, l.toNat), (4, p.toNat)])
  | .vinsr d a l p x => some (x, word [(4, 0x5), (6, 0xA), (6, d.toNat), (6, a.toNat), (6, l.toNat), (4, p.toNat)])
  | .talloc n x => some (x, word [(4, 0x5), (6, 0xB), (6, 0x0), (6, 0x0), (6, n.toNat), (4, 0x0)])
  | .trel k x => some (x, word [(4, 0x5), (6, 0xC), (6, 0x0), (6, 0x0), (6, k.toNat), (4, 0x0)])
  | .tzero k x => some (x, word [(4, 0x5), (6, 0xD), (6, 0x0), (6, 0x0), (6, k.toNat), (4, 0x0)])
  | .vtrit d a k p x => some (x, word [(4, 0x5), (6, 0xE), (6, d.toNat), (6, a.toNat), (6, k.toNat), (4, p.toNat)])
  | .wbfill s w n x => some (x, word [(4, 0x6), (6, 0x0), (5, 0x0), (6, s.toNat), (4, w.toNat), (3, 0x0), (1, 0x0), (3, n.toNat)])
  | .mldw w k => some (none, word [(4, 0x6), (6, 0x1), (5, 0x0), (6, 0x0), (4, w.toNat), (3, k.toNat), (1, 0x0), (3, 0x0)])
  | .mma z s w k p n x => some (x, word [(4, 0x6), (6, 0x2), (5, z.toNat), (6, s.toNat), (4, w.toNat), (3, k.toNat), (1, p.toNat), (3, n.toNat)])
  | .mmaz z s w k p n x => some (x, word [(4, 0x6), (6, 0x3), (5, z.toNat), (6, s.toNat), (4, w.toNat), (3, k.toNat), (1, p.toNat), (3, n.toNat)])
  | .mbmap s w x => some (x, word [(4, 0x6), (6, 0x4), (5, 0x0), (6, s.toNat), (4, w.toNat), (3, 0x0), (1, 0x0), (3, 0x0)])
  | .anorm z s x => some (x, word [(4, 0x6), (6, 0x5), (5, z.toNat), (6, s.toNat), (4, 0x0), (3, 0x0), (1, 0x0), (3, 0x0)])
  | .ard z d r e n => some (none, word [(4, 0x6), (6, 0x6), (5, z.toNat), (6, d.toNat), (7, r.toNat), (1, e.toNat), (3, n.toNat)])
  | .awr z s r g n x => some (x, word [(4, 0x6), (6, 0x7), (5, z.toNat), (6, s.toNat), (7, r.toNat), (1, g.toNat), (3, n.toNat)])
  | .aexpWrite z s y x => some (x, word [(4, 0x6), (6, 0x8), (5, z.toNat), (6, s.toNat), (4, 0x0), (2, 0x0), (1, y.toNat), (1, 0x0), (3, 0x0)])
  | .aexpRead z d y => some (none, word [(4, 0x6), (6, 0x8), (5, z.toNat), (6, d.toNat), (4, 0x0), (2, 0x1), (1, y.toNat), (1, 0x0), (3, 0x0)])
  | .agrd z d r m => some (none, word [(4, 0x6), (6, 0x9), (5, z.toNat), (6, d.toNat), (7, r.toNat), (1, m.toNat), (3, 0x0)])
  | .azero z => some (none, word [(4, 0x6), (6, 0xA), (5, z.toNat), (6, 0x0), (4, 0x0), (3, 0x0), (1, 0x0), (3, 0x0)])
  | .mstat z d w c => some (none, word [(4, 0x6), (6, 0xB), (5, z.toNat), (6, d.toNat), (4, w.toNat), (3, 0x0), (1, c.toNat), (3, 0x0)])
  | .mwait z w s => some (none, word [(4, 0x6), (6, 0xC), (5, z.toNat), (6, 0x0), (4, w.toNat), (3, s.toNat), (1, 0x0), (3, 0x0)])
  | .hopen h t b a w x => some (x, word [(4, 0x7), (6, 0x0), (4, h.toNat), (6, t.toNat), (3, 0x0), (1, b.toNat), (1, a.toNat), (3, w.toNat), (4, 0x0)])
  | .hclose h d => some (none, word [(4, 0x7), (6, 0x1), (4, h.toNat), (6, 0x0), (3, 0x0), (5, d.toNat), (4, 0x0)])
  | .hrd h o p => some (none, word [(4, 0x7), (6, 0x2), (4, h.toNat), (6, o.toNat), (3, 0x0), (1, 0x0), (1, 0x0), (3, 0x0), (4, p.toNat)])
  | .hwr h o p x => some (x, word [(4, 0x7), (6, 0x3), (4, h.toNat), (6, o.toNat), (3, 0x0), (1, 0x0), (1, 0x0), (3, 0x0), (4, p.toNat)])
  | .hupd h o p x => some (x, word [(4, 0x7), (6, 0x4), (4, h.toNat), (6, o.toNat), (3, 0x0), (1, 0x0), (1, 0x0), (3, 0x0), (4, p.toNat)])
  | .hstep h i x => some (x, word [(4, 0x7), (6, 0x5), (4, h.toNat), (6, 0x0), (8, i.toNat), (4, 0x0)])
  | .hskip h x => some (x, word [(4, 0x7), (6, 0x6), (4, h.toNat), (6, 0x21), (3, 0x0), (1, 0x0), (1, 0x0), (3, 0x0), (4, 0x0)])
  | .hmark h => some (none, word [(4, 0x7), (6, 0x7), (4, h.toNat), (6, 0x0), (3, 0x0), (1, 0x0), (1, 0x0), (3, 0x0), (4, 0x0)])
  | .hrwd h y => some (none, word [(4, 0x7), (6, 0x8), (4, h.toNat), (6, 0x0), (3, 0x0), (1, 0x0), (1, 0x0), (2, 0x0), (1, y.toNat), (4, 0x0)])
  | .hdrop h => some (none, word [(4, 0x7), (6, 0x9), (4, h.toNat), (6, 0x0), (3, 0x0), (1, 0x0), (1, 0x0), (3, 0x0), (4, 0x0)])
  | .hpos h d => some (none, word [(4, 0x7), (6, 0xA), (4, h.toNat), (6, 0x0), (3, 0x0), (5, d.toNat), (4, 0x0)])
  | .hrev h => some (none, word [(4, 0x7), (6, 0xB), (4, h.toNat), (6, 0x0), (3, 0x0), (1, 0x0), (1, 0x0), (3, 0x0), (4, 0x0)])
  | .hnew h t w x => some (x, word [(4, 0x7), (6, 0xC), (4, h.toNat), (6, t.toNat), (3, 0x0), (1, 0x0), (1, 0x0), (3, w.toNat), (4, 0x0)])
  | .hseal h d => some (none, word [(4, 0x7), (6, 0xD), (4, h.toNat), (6, 0x0), (3, 0x0), (5, d.toNat), (4, 0x0)])
  | .hlease h t b w x => some (x, word [(4, 0x7), (6, 0xE), (4, h.toNat), (6, t.toNat), (3, 0x0), (1, b.toNat), (1, 0x0), (3, w.toNat), (4, 0x0)])
  | .hfree t x => some (x, word [(4, 0x7), (6, 0xF), (4, 0x0), (6, t.toNat), (3, 0x0), (1, 0x0), (1, 0x0), (3, 0x0), (4, 0x0)])
  | .hwait h d => some (none, word [(4, 0x7), (6, 0x10), (4, h.toNat), (6, 0x0), (3, 0x0), (5, d.toNat), (4, 0x0)])
  | .wset w a b => some (none, word [(4, 0x8), (6, 0x0), (5, w.toNat), (5, a.toNat), (5, b.toNat), (5, 0x0), (2, 0x0)])
  | .wloop w a b v => some (none, word [(4, 0x8), (6, 0x1), (5, w.toNat), (5, a.toNat), (5, b.toNat), (5, v.toNat), (2, 0x0)])
  | .wrst w => some (none, word [(4, 0x8), (6, 0x2), (5, w.toNat), (5, 0x0), (5, 0x0), (5, 0x0), (2, 0x0)])
  | .kcopy s d l t e => some (none, word [(4, 0x8), (6, 0x3), (5, s.toNat), (5, d.toNat), (5, l.toNat), (5, t.toNat), (2, e.toNat)])
  | .kcopyr s d l t e => some (none, word [(4, 0x8), (6, 0x4), (5, s.toNat), (5, d.toNat), (5, l.toNat), (5, t.toNat), (2, e.toNat)])
  | .kgath s d l t e => some (none, word [(4, 0x8), (6, 0x5), (5, s.toNat), (5, d.toNat), (5, l.toNat), (5, t.toNat), (2, e.toNat)])
  | .kscat s d l t e => some (none, word [(4, 0x8), (6, 0x6), (5, s.toNat), (5, d.toNat), (5, l.toNat), (5, t.toNat), (2, e.toNat)])
  | .kfill s d l t e => some (none, word [(4, 0x8), (6, 0x7), (5, s.toNat), (5, d.toNat), (5, l.toNat), (5, t.toNat), (2, e.toNat)])
  | .ktag a b => some (none, word [(4, 0x8), (6, 0x8), (5, a.toNat), (5, b.toNat), (5, 0x0), (5, 0x0), (2, 0x0)])
  | .kchk a b => some (none, word [(4, 0x8), (6, 0x9), (5, a.toNat), (5, b.toNat), (5, 0x0), (5, 0x0), (2, 0x0)])
  | .sld a d z => some (none, word [(4, 0x8), (6, 0xA), (5, a.toNat), (5, d.toNat), (5, 0x0), (5, 0x0), (2, z.toNat)])
  | .sst a b z => some (none, word [(4, 0x8), (6, 0xB), (5, a.toNat), (5, b.toNat), (5, 0x0), (5, 0x0), (2, z.toNat)])
  | .ltset a b => some (none, word [(4, 0x8), (6, 0xC), (5, a.toNat), (5, b.toNat), (5, 0x0), (5, 0x0), (2, 0x0)])
  | .kstat d e => some (none, word [(4, 0x8), (6, 0xD), (5, 0x0), (5, d.toNat), (5, 0x0), (5, 0x0), (2, e.toNat)])
  | .ld d b i z c s x => some (x, word [(4, 0x9), (6, 0x0), (5, d.toNat), (5, b.toNat), (6, i.toNat), (2, z.toNat), (2, c.toNat), (1, s.toNat), (1, 0x0)])
  | .st d b i z c s x => some (x, word [(4, 0x9), (6, 0x1), (5, d.toNat), (5, b.toNat), (6, i.toNat), (2, z.toNat), (2, c.toNat), (1, s.toNat), (1, 0x0)])
  | .lda d b i z c s x => some (x, word [(4, 0x9), (6, 0x2), (5, d.toNat), (5, b.toNat), (6, i.toNat), (2, z.toNat), (2, c.toNat), (1, s.toNat), (1, 0x0)])
  | .stl d b i z c s x => some (x, word [(4, 0x9), (6, 0x3), (5, d.toNat), (5, b.toNat), (6, i.toNat), (2, z.toNat), (2, c.toNat), (1, s.toNat), (1, 0x0)])
  | .ldv d b i z x => some (x, word [(4, 0x9), (6, 0x4), (5, d.toNat), (5, b.toNat), (6, i.toNat), (2, z.toNat), (2, 0x0), (1, 0x0), (1, 0x0)])
  | .stv d b i z x => some (x, word [(4, 0x9), (6, 0x5), (5, d.toNat), (5, b.toNat), (6, i.toNat), (2, z.toNat), (2, 0x0), (1, 0x0), (1, 0x0)])
  | .amoadd d b i z c s x => some (x, word [(4, 0x9), (6, 0x6), (5, d.toNat), (5, b.toNat), (6, i.toNat), (1, 0x1), (1, z.toNat), (2, c.toNat), (1, s.toNat), (1, 0x0)])
  | .amoand d b i z c s x => some (x, word [(4, 0x9), (6, 0x7), (5, d.toNat), (5, b.toNat), (6, i.toNat), (1, 0x1), (1, z.toNat), (2, c.toNat), (1, s.toNat), (1, 0x0)])
  | .amoor d b i z c s x => some (x, word [(4, 0x9), (6, 0x8), (5, d.toNat), (5, b.toNat), (6, i.toNat), (1, 0x1), (1, z.toNat), (2, c.toNat), (1, s.toNat), (1, 0x0)])
  | .amoxor d b i z c s x => some (x, word [(4, 0x9), (6, 0x9), (5, d.toNat), (5, b.toNat), (6, i.toNat), (1, 0x1), (1, z.toNat), (2, c.toNat), (1, s.toNat), (1, 0x0)])
  | .amomin d b i z c s x => some (x, word [(4, 0x9), (6, 0xA), (5, d.toNat), (5, b.toNat), (6, i.toNat), (1, 0x1), (1, z.toNat), (2, c.toNat), (1, s.toNat), (1, 0x0)])
  | .amomax d b i z c s x => some (x, word [(4, 0x9), (6, 0xB), (5, d.toNat), (5, b.toNat), (6, i.toNat), (1, 0x1), (1, z.toNat), (2, c.toNat), (1, s.toNat), (1, 0x0)])
  | .amoswp d b i z c s x => some (x, word [(4, 0x9), (6, 0xC), (5, d.toNat), (5, b.toNat), (6, i.toNat), (1, 0x1), (1, z.toNat), (2, c.toNat), (1, s.toNat), (1, 0x0)])
  | .amocas d b i z c s x => some (x, word [(4, 0x9), (6, 0xD), (5, d.toNat), (5, b.toNat), (6, i.toNat), (1, 0x1), (1, z.toNat), (2, c.toNat), (1, s.toNat), (1, 0x0)])
  | .vamoor d b i c x => some (x, word [(4, 0x9), (6, 0xE), (5, d.toNat), (5, b.toNat), (6, i.toNat), (2, 0x2), (2, c.toNat), (1, 0x0), (1, 0x0)])
  | .vamoadd d b i c x => some (x, word [(4, 0x9), (6, 0xF), (5, d.toNat), (5, b.toNat), (6, i.toNat), (2, 0x2), (2, c.toNat), (1, 0x0), (1, 0x0)])
  | .barriv d b i c x => some (x, word [(4, 0x9), (6, 0x10), (5, d.toNat), (5, b.toNat), (6, i.toNat), (2, 0x3), (2, c.toNat), (1, 0x0), (1, 0x0)])
  | .barwait d b i c x => some (x, word [(4, 0x9), (6, 0x11), (5, d.toNat), (5, b.toNat), (6, i.toNat), (2, 0x3), (2, c.toNat), (1, 0x0), (1, 0x0)])
  | .barinit d b i c x => some (x, word [(4, 0x9), (6, 0x12), (5, d.toNat), (5, b.toNat), (6, i.toNat), (2, 0x3), (2, c.toNat), (1, 0x0), (1, 0x0)])
  | .sfbind d a y => some (none, word [(4, 0xA), (6, 0x0), (5, d.toNat), (5, a.toNat), (5, 0x0), (6, 0x0), (1, y.toNat)])
  | .sfgo a b y => some (none, word [(4, 0xA), (6, 0x1), (5, 0x0), (5, a.toNat), (5, b.toNat), (6, 0x0), (1, y.toNat)])
  | .sfstat d a s => some (none, word [(4, 0xA), (6, 0x2), (5, d.toNat), (5, a.toNat), (5, 0x0), (4, 0x0), (3, s.toNat)])
  | .sfrel a => some (none, word [(4, 0xA), (6, 0x3), (5, 0x0), (5, a.toNat), (5, 0x0), (7, 0x0)])
  | .sfmash a b => some (none, word [(4, 0xA), (6, 0x4), (5, 0x0), (5, a.toNat), (5, b.toNat), (7, 0x0)])
  | .qdim a i => some (none, word [(4, 0xA), (6, 0x5), (5, 0x0), (5, a.toNat), (5, 0x0), (7, i.toNat)])
  | .qidx a b y => some (none, word [(4, 0xA), (6, 0x6), (5, 0x0), (5, a.toNat), (5, b.toNat), (6, 0x0), (1, y.toNat)])
  | .qstr a => some (none, word [(4, 0xA), (6, 0x7), (5, 0x0), (5, a.toNat), (5, 0x0), (7, 0x0)])
  | .qgen h f => some (none, word [(4, 0xA), (6, 0x8), (5, 0x0), (5, 0x0), (5, 0x0), (5, 0x0), (1, h.toNat), (1, f.toNat)])
  | .qgenv h f => some (none, word [(4, 0xA), (6, 0x9), (5, 0x0), (5, 0x0), (5, 0x0), (5, 0x0), (1, h.toNat), (1, f.toNat)])
  | .qdir a j => some (none, word [(4, 0xA), (6, 0xA), (5, 0x0), (5, a.toNat), (5, 0x0), (2, 0x0), (5, j.toNat)])
  | .qscr a i => some (none, word [(4, 0xA), (6, 0xB), (5, 0x0), (5, a.toNat), (5, 0x0), (2, 0x0), (5, i.toNat)])
  | .qscrShift a => some (none, word [(4, 0xA), (6, 0xB), (5, 0x0), (5, a.toNat), (5, 0x0), (7, 0x20)])
  | .qsave d a b => some (none, word [(4, 0xA), (6, 0xC), (5, d.toNat), (5, a.toNat), (5, b.toNat), (7, 0x0)])
  | .qload d a b => some (none, word [(4, 0xA), (6, 0xD), (5, d.toNat), (5, a.toNat), (5, b.toNat), (7, 0x0)])
  | .klaunch a y => some (none, word [(4, 0xB), (6, 0x0), (5, 0x0), (5, a.toNat), (5, 0x0), (6, 0x0), (1, y.toNat)])
  | .klaunchc a b y => some (none, word [(4, 0xB), (6, 0x1), (5, 0x0), (5, a.toNat), (5, b.toNat), (6, 0x0), (1, y.toNat)])
  | .gsig a b => some (none, word [(4, 0xB), (6, 0x2), (5, 0x0), (5, a.toNat), (5, b.toNat), (7, 0x0)])
  | .qsync d => some (none, word [(4, 0xB), (6, 0x4), (5, d.toNat), (5, 0x0), (5, 0x0), (7, 0x0)])
  | .gprio a => some (none, word [(4, 0xB), (6, 0x5), (5, 0x0), (5, a.toNat), (5, 0x0), (7, 0x0)])
  | .garg d i => some (none, word [(4, 0xB), (6, 0x6), (5, d.toNat), (5, 0x0), (5, 0x0), (7, i.toNat)])
  | .boot _ => none
  | .imageFetch _ _ => none
  | .decodeTableReload _ _ => none
  | .floorRequest _ => none
  | .codeScan _ _ => none
  | .folioLoad _ => none
  | .tlbInvalidation _ _ _ => none
  | .contextDigestReport _ => none
  | .doorbellWrite _ _ => none
  | .cqheadWrite _ _ => none
  | .registerWrite _ _ _ => none
  | .hostBar2Write _ _ _ => none
  | .hostBar2Read _ _ _ => none
  | .schedulerDecision => none
  | .priorityAging => none
  | .condNodeComplete _ => none
  | .copyNodeComplete _ => none
  | .preemptFreeze _ => none
  | .preemptSave _ => none
  | .taskEndCloses _ => none
  | .taskEnd _ => none
  | .kernelNodeComplete _ => none
  | .nowLaunchArrival _ _ => none
  | .qsyncComplete _ _ => none
  | .wheelGroupIssue _ => none
  | .powerGateExit _ => none
  | .engineCommandStart _ _ _ => none
  | .copyPerform _ _ _ => none
  | .copySuspend _ _ _ => none
  | .sequenceEnginePerform _ _ => none
  | .timedWritePerform _ _ => none
  | .walkerLeafWritePerform _ _ => none
  | .wbfillComplete _ _ _ => none
  | .planeLoadComplete _ _ _ => none
  | .mmaInputStart _ _ _ => none
  | .mmaRowPerform _ _ _ => none
  | .accumulatorWritePerform _ _ _ => none
  | .tableOperationPerform _ _ => none
  | .headCloseTableWrite _ _ => none
  | .headWritePerform _ _ => none
  | .hwaitComplete _ _ => none
  | .headRefillFetch _ => none
  | .sfbindPerform _ _ => none
  | .streamRunPerform _ _ => none
  | .sfrelPerform _ _ => none
  | .streamDeadlineFault _ _ _ => none
  | .queuedLoadPerform _ => none
  | .queuedWritePerform _ => none
  | .atomicPerform _ => none
  | .barrierPerform _ => none
  | .fencecComplete _ => none
  | .scfenceComplete _ => none
  | .translationWalk _ => none
  | .faultServiceResume _ _ => none
  | .serviceTimeout _ => none
  | .deviceFatal _ => none
  | .dumpExport => none
  | .floorRestart => none
  | .timelineFill _ _ _ => none
  | .timelineStream _ _ _ => none
  | .timelineRefpb _ _ _ => none
  | .timelineRefab _ _ _ => none
  | .forcedRefresh _ _ => none
  | .guardedModeEntry _ => none
  | .guardedRefresh _ _ _ => none
  | .longStallPrecharge _ => none
  | .patrolScrub _ _ _ _ => none
  | .tierEviction => none
  | .flitReceive _ _ => none
  | .laneRemoval _ _ => none
  | .readRequest _ _ _ => none
  | .writeRequest _ _ _ => none
  | .atomicRequest _ _ _ => none
  | .readResponse _ _ _ => none
  | .writeAcknowledgement _ _ _ => none
  | .atomicResponse _ _ _ => none
  | .grant _ _ => none
  | .recall _ _ => none
  | .recallAcknowledgement _ _ => none
  | .recallTimeout _ => none
  | .nack _ _ _ _ => none
  | .peerFailure _ => none
  | .powerWindow _ => none
  | .rateChange _ _ => none
  | .clockSwallow _ => none
  | .powerHold => none
  | .powerHoldEnd _ => none
  | .retrainComplete _ => none
  | .linkReset _ => none
  | .pageMoveComplete _ _ => none
  | .allocationHintChange _ _ _ _ => none
  | .copyReplayCaughtUp _ _ _ => none
  | .completionQueueSetup _ _ _ => none

/-- The word of a header (02 R26). -/
def Header.encode (h : Header) : BitVec 32 :=
  BitVec.ofNat 32 (0xF0000000 + h.mark.toNat * 2 ^ 27 + h.wheel.toNat * 2 ^ 26 + h.e1.toNat * 2 ^ 16 +
    h.e2.toNat * 2 ^ 8 + h.e3.toNat)

/-- The four bytes of a slot word, lowest address first (01 R7). -/
def bytesOfWord (w : BitVec 32) : List Byte := [fld w 0 8, fld w 8 8, fld w 16 8, fld w 24 8]

/-- The 16 bytes of a bundle (01 R7). -/
def bytesOfBundle (w0 w1 w2 w3 : BitVec 32) : List Byte :=
  bytesOfWord w0 ++ bytesOfWord w1 ++ bytesOfWord w2 ++ bytesOfWord w3

/-- The bytes of the bundle whose slot 0 holds the word `w` and whose other slots hold NOP. -/
def tableBundle (w : Nat) : List Byte := bytesOfBundle (BitVec.ofNat 32 w) 0 0 0

/-- The instruction of a row of the opcode table, read by the decoder from a bundle that holds it in slot 0.  Every row
with an encoding gives 32 bits, one slot. -/
def decodeTableWord (nbits w : Nat) : Option Instr :=
  if nbits ≤ 32 then (bundleOf (tableBundle w)).s0.toOption else none

end Sys2Proof
end

