-- ==== Sys2Proof/Machine/Fetch.lean ====
section
/-!
DEFINITION. The text of a kernel: its bundles in memory, and the instruction of the next slot.
-/

namespace Sys2Proof.Machine

/-- The kernel of a task's folio. -/
def State.kernel (s : State) (t : Nat) : Option KernelImage :=
  (find? s.folios (s.task t).folio).bind fun f => f.img.kernels[(s.task t).kernel]?

/-- The bundle of a task's kernel at a PC, read from memory through the context's pages (01 R7); none outside its text or
where no page holds it. -/
def State.bundleAt (s : State) (t pc : Nat) : Option Bundle :=
  match s.kernel t with
  | none => none
  | some k =>
    if pc < k.bundles then (s.readVirt (s.task t).ctx (k.text + 16 * pc) 16).map bundleOf else none

/-- The bundle at the PC of the core that the next slot belongs to. -/
def State.fetchBundle (s : State) : Except Fault Bundle :=
  match s.kernel s.cur.task with
  | none => .error .outsideText
  | some k =>
    if s.me.pc < k.bundles then
      match s.readVirt s.myTask.ctx (k.text + 16 * s.me.pc) 16 with
      | some l => .ok (bundleOf l)
      | none => .error .textUnmapped
    else .error .outsideText

/-- The instruction of a decoded slot, refused with the first of the scanner's reasons if it is none: the scanner
keeps such a slot from the decoder (02 R33, R34). -/
def slotInstruction (sl : Except (List Nat) Instr) : Except Refusal Instr :=
  match sl with
  | .error whys => .error (.noInstruction (whys.headD 0))
  | .ok i =>
    match i.faults with
    | [] => .ok i
    | why :: _ => .error (.noInstruction why)

/-- Whether a bundle's slot holds CALL. -/
def callSite (b : Bundle) : Bool :=
  b.slots.any fun sl => match sl with
    | .ok (.call _) => true
    | _ => false

end Sys2Proof.Machine
end

