-- ==== Sys2Proof/Machine/Control.lean ====
section
/-!
DEFINITION. Class CTRL: branches, loops, waiting, FMT and halting (04 R74 to R80).
-/

namespace Sys2Proof.Machine

/-- The slot being run makes the bundle at `v` the next to issue (04 R74). -/
def State.jump (s : State) (v : Int) : State := s.issue 0 (.pc (v % ((2 ^ 32 : Nat) : Int)).toNat)

/-- A branch by an offset in bundles. -/
def State.branch {n : Nat} (s : State) (o : BitVec n) : State := s.jump ((s.me.pc : Int) + o.toInt)

/-- BR (04 R74). -/
def execBr (o : BitVec 22) (s : State) : Out := .next (s.branch o)

/-- BRP (04 R74): taken if lane 0 of pk is 1. -/
def execBrp (p : BitVec 4) (o : BitVec 18) (s : State) : Out :=
  .next (if laneOn (s.me.pred p.toNat) 0 then s.branch o else s)

/-- BRNP (04 R74): taken if lane 0 of pk is 0. -/
def execBrnp (p : BitVec 4) (o : BitVec 18) (s : State) : Out :=
  .next (if laneOn (s.me.pred p.toNat) 0 then s else s.branch o)

/-- CALL (04 R74): s31 takes the next bundle's address. -/
def execCall (o : BitVec 22) (s : State) : Out :=
  .next ((s.branch o).writeScalar 1 31 (BitVec.ofNat 64 (s.me.pc + 1)))

/-- Whether a bundle lies inside the kernel's text. -/
def State.inText (s : State) (v : Int) : Bool :=
  match s.kernel s.cur.task with
  | some k => 0 ≤ v && v < k.bundles
  | none => false

/-- RET (04 R74, R75): to s31, which must follow a bundle that holds CALL. -/
def execRet (s : State) : Out :=
  let v := (s.me.reg 31).toNat
  let site := match (if v = 0 then none else s.bundleAt s.cur.task (v - 1)) with
    | some b => callSite b
    | none => false
  .next (if s.inText v && site then s.jump v else s.fail { cause := 2, sub := 0 })

/-- JR (04 R74, R75): to s[a] + imm, exactly, which must be a restart bundle of the text (log 20). -/
def execJr (a : BitVec 5) (i : BitVec 12) (s : State) : Out :=
  let v : Int := (s.me.reg a.toNat).toNat + i.toInt
  let marked := match s.bundleAt s.cur.task v.toNat with
    | some b => b.isRestart
    | none => false
  .next (if s.inText v && marked then s.jump v else s.fail { cause := 2, sub := 0 })

/-- A predicate set to all ones or all zeros at n + 1. -/
def State.setStage (s : State) (p : Nat) (v : Pred) : State := s.issue 1 (.pred p ones v)

/-- LOOPI (04 R76): open a loop of s[a][31:0] iterations. -/
def execLoopi (a : BitVec 5) (sc : BitVec 2) (b : BitVec 3) (s : State) : Out :=
  let n := (s.me.reg a.toNat).toNat % 2 ^ 32
  let s1 := s.setStage 8 (if 0 < n then ones else 0)
  let s2 := ((s1.setStage 9 0).setStage 10 0).setStage 11 0
  .next (s2.issue 0 (.lc (lcOf sc.toNat b.toNat (if 0 < n then n + sc.toNat else 1))))

/-- LOOP (04 R77): end of a pass: stage predicates move on, base registers rotate, and the body runs again while passes
are left. -/
def execLoop (o : BitVec 22) (s : State) : Out :=
  let k := s.me
  let left := lcPasses k.lc - 1
  let stages := lcStages k.lc + 1
  let rot := lcBrot k.lc + 1
  let s1 := (((s.setStage 11 (k.pred 10)).setStage 10 (k.pred 9)).setStage 9 (k.pred 8)).setStage 8
    (if stages ≤ left then ones else 0)
  let s2 := (List.range rot).foldl (fun s i => s.issue 0 (.base i (k.base ((i + rot - 1) % rot)))) s1
  let s3 := s2.issue 0 (.lc (lcOf (lcStages k.lc) (lcBrot k.lc) left))
  .next (if left = 0 then s3 else s3.branch o)

/-- WAITC (04 R78): the core's next bundle issues at dc max(n + 1, s[a] + imm). -/
def execWaitc (a : BitVec 5) (i : BitVec 12) (s : State) : Out :=
  .next (s.issue 0 (.waitUntil (max (s.dc + 1) ((s.me.reg a.toNat).toNat + i.toNat))))

/-- FMTSET (04 R79): the image is in force for bundles from n + 5. -/
def execFmtset (c : BitVec 2) (sc : BitVec 1) (r : BitVec 2) (o a e : BitVec 4) (s : State) : Out :=
  .next (s.issue 0 (.fmt (BitVec.ofNat 22 (c.toNat * 2 ^ 16 + sc.toNat * 2 ^ 14 + r.toNat * 2 ^ 12 + o.toNat * 2 ^ 8 +
    a.toNat * 2 ^ 4 + e.toNat))))

/-- FMTGET (04 R79): FMT as seen by its own bundle. -/
def execFmtget (d : BitVec 5) (s : State) : Out := .next (s.writeScalar 1 d (s.myFmt.zeroExtend 64))

/-- HALT (04 R80): the core issues no further bundle. -/
def execHalt (s : State) : Out := .next (s.issue 0 .halt)

end Sys2Proof.Machine
end

