-- ==== Sys2Proof/Machine/Copies.lean ====
section
/-!
DEFINITION. Class COPY as a slot issues it: walkers, copies, leaf table, scalar scratchpad access, the checker (09), and
the command queue that every engine shares (03 R51).
-/

namespace Sys2Proof.Machine

/-! ### Engine commands (03 R51) -/

/-- Commands of an engine of the issuing core, this bundle's among them, that have not performed. -/
def State.engineCmds (s : State) (e : Nat) : List Cmd :=
  let g := s.me.engine e
  (g.running.map (·.cmd)).toList ++ g.pending ++ s.issued.filterMap fun o =>
    match o.eff with
    | .command f c => if f = e && o.core = s.cur.core then some c else none
    | _ => none

/-- Commands of an engine that have issued and not started. -/
def State.enginePending (s : State) (e : Nat) : Nat := ((s.engineCmds e).filter fun c => s.dc < c.start).length

/-- The timing fault of a command with start cycle S on an engine, if it would raise one (03 R51). -/
def State.timingFail (s : State) (e start : Nat) : Option Fail :=
  let bad (sub : Nat) : Option Fail := some { cause := 5, sub := sub, d7 := start }
  if start < s.dc + 1 then bad 1
  else if 4 ≤ s.enginePending e then bad 2
  else if (s.engineCmds e).any fun c => start < c.perform || start ≤ c.start then bad 3
  else none

/-- A command of the slot being run. -/
def State.newCmd (s : State) (start perform : Nat) (op : CmdOp) : Cmd where
  id := s.nextId
  pc := s.me.pc
  slot := s.cur.slot
  issueDc := s.dc
  issueGc := s.gcyc
  start := start
  perform := perform
  op := op

/-! ### Copy endpoints (09 R186, R187) -/

/-- The pages that `n` bytes from an address touch, in order: the first byte touched and the walk of each. -/
def State.pageWalks (s : State) (ctx va n : Nat) : Nat → List (Nat × Xlat)
  | 0 => []
  | fuel + 1 =>
    if n = 0 then []
    else
      let x := s.walk ctx va
      let size := match x with
        | .ok _ _ size => size
        | _ => 2 ^ 12
      let here := size - va % size
      (va, x) :: s.pageWalks ctx (va + here) (n - here) fuel

/-- The walk level whose leaf maps a page of this size (15 R272). -/
def levelOf (size : Nat) : Nat := if size = 2 ^ 30 then 2 else if size = 2 ^ 21 then 3 else 4

/-- What a copy may do with a page: its latency class, or the fault it raises (09 R186, R193). -/
def State.copyPage (s : State) (ctx va : Nat) (write : Bool) (x : Xlat) : Res Nat :=
  match x with
  | .ok pa leaf size =>
    let denied : Res Nat := .error
      { cause := 0x16, sub := 0, addr := va, kind := if write then 5 else 4, d7 := levelOf size, d8 := leaf.toNat }
    if leafTape leaf || leafX leaf || (write && s.attributed (pa / size * size) size [2]) then denied
    else if leafBarrier leaf || leafHome leaf = 2 || leafClass leaf = 0 || !s.pinned ctx va then
      .error { cause := 0x0F, sub := 2, addr := va }
    else if (write && !leafW leaf) || (!write && !leafR leaf) then denied
    else .ok (leafClass leaf)
  | _ => .error { cause := 0x0F, sub := 2, addr := va }

/-- The highest latency class of the pages of a main-memory endpoint. -/
def State.copyClass (s : State) (ctx va n : Nat) (write : Bool) : Res Nat :=
  (s.pageWalks ctx va n (n / 4096 + 2)).foldl (fun r x =>
    match r with
    | .error f => .error f
    | .ok c =>
      match s.copyPage ctx x.1 write x.2 with
      | .error f => .error f
      | .ok d => .ok (max c d)) (.ok 0)

/-- The end of the contiguous run of pages from an address that a copy may use, looked at for a number of pages (09 R186). -/
def State.copyRun (s : State) (ctx va : Nat) (write : Bool) : Nat → Nat
  | 0 => va
  | fuel + 1 =>
    let x := s.walk ctx va
    match s.copyPage ctx va write x, x with
    | .ok _, .ok _ _ size => s.copyRun ctx (va + (size - va % size)) write fuel
    | _, _ => va

/-- T of 09 R187 for a latency class. -/
def classTime (c : Nat) : Nat := if c = 1 then 300 else if c = 2 then 900 else 2400

/-- Where a copy's endpoint lies: a slice, or main memory with its class. -/
inductive Endpoint where
  | slice (core : Nat)
  | memory (cls : Nat)
  deriving DecidableEq, Repr

/-- The endpoint that `n` bytes at an address form: a source must lie in the issuing core's quire, a destination in the
task; `n` bytes must lie within one slice or one run of pages (09 R174, R186). -/
def State.endpoint (s : State) (va n : Nat) (write : Bool) : Res Endpoint :=
  if 2 ^ 57 ≤ va then .error { cause := 0x0F, sub := 2, addr := va % 2 ^ 57 }
  else if inWindow va then
    let a := va % 2 ^ 32
    if 2 ^ 31 ≤ a || s.myTask.coreCount ≤ spadCore a || sliceTop < spadOff a + n ||
        (!write && spadCore a / 8 ≠ s.cur.core / 8) then
      .error { cause := 0x0F, sub := 2, addr := va }
    else .ok (.slice (spadCore a))
  else
    match s.copyClass s.myTask.ctx va n write with
    | .error f => .error f
    | .ok c => .ok (.memory c)

/-- Hops between relative quires (03 R45). -/
def hops (i j : Nat) : Nat :=
  let d (a b : Nat) : Nat := max a b - min a b
  d (i % 4) (j % 4) + d (i / 4 % 4) (j / 4 % 4)

/-- The offset of P from S (03 R64, 09 R187). -/
def State.copyOffset (s : State) (src dst : Endpoint) (b : Nat) : Nat :=
  let apart := match s.kernel s.cur.task with
    | some k => !k.dieOne
    | none => true
  match src, dst with
  | .slice i, .slice j =>
    if i = j then 8 + ceilDiv b 512
    else if i / 8 = j / 8 then 14 + ceilDiv b 256
    else 20 + 2 * hops (i / 8) (j / 8) + ceilDiv b 128 + (if apart then 40 else 0)
  | .memory c, _ => classTime c + ceilDiv b 128
  | _, .memory c => classTime c + ceilDiv b 128

/-- The relative quires of a copy between quires. -/
def meshPair (src dst : Endpoint) : Option (Nat × Nat) :=
  match src, dst with
  | .slice i, .slice j => if i / 8 = j / 8 then none else some (i / 8, j / 8)
  | _, _ => none

/-- The pair of relative quires that a copy command between quires moves data across. -/
def Cmd.meshPair (core : Nat) (c : Cmd) : Option (Nat × Nat) :=
  let q (a : Nat) : Option Nat := if inWindow a then some (spadCore (a % 2 ^ 32) / 8) else none
  let pair (x y : Option Nat) : Option (Nat × Nat) :=
    match x, y with
    | some i, some j => if i = j then none else some (i, j)
    | _, _ => none
  match c.op with
  | .copy a b _ => pair (q a) (q b)
  | .reduce a b _ _ => pair (q a) (q b)
  | .gather a b _ _ _ => pair (q a) (q b)
  | .scatter a b _ _ _ => pair (q a) (q b)
  | .fill b _ _ => pair (some (core / 8)) (q b)
  | _ => none

/-- The timing fault of the mesh slot table (03 R51, R52): no grant, or a second copy of the pair at one start cycle. -/
def State.meshFail (s : State) (pair : Option (Nat × Nat)) (start : Nat) : Option Fail :=
  match pair with
  | none => none
  | some (i, j) =>
    let granted := match s.kernel s.cur.task with
      | some k => k.mesh.any fun m => m.slot = start % 256 && m.src = i && m.dst = j
      | none => false
    if !granted then some { cause := 5, sub := 4, d7 := start }
    else if (s.myTask.copies ++ s.newCopies).any fun e =>
        e.2.2.1.start = start && Cmd.meshPair e.1 e.2.2.1 = some (i, j) then
      some { cause := 5, sub := 3, d7 := start }
    else none

/-- Issue a copy command on an engine, its endpoints known. -/
def State.issueCopy (s : State) (e start b : Nat) (src dst : Endpoint) (op : CmdOp) : State :=
  match s.timingFail e start with
  | some f => s.fail f
  | none =>
    match s.meshFail (Machine.meshPair src dst) start with
    | some f => s.fail f
    | none => s.issue 0 (.command e (s.newCmd start (start + s.copyOffset src dst b) op))

/-- At most one endpoint may lie in main memory (09 R186). -/
def bothMemory : Endpoint → Endpoint → Bool
  | .memory _, .memory _ => true
  | _, _ => false

/-- The record side of a gather or scatter with the highest latency class among the pages that its records touch, as the index
list names them at issue (09 R187, log 98). -/
def State.recordSide (s : State) (base list k z : Nat) (write : Bool) (e : Endpoint) : Endpoint :=
  match e with
  | .slice c => .slice c
  | .memory c =>
    let idx := s.myTask.spadBytes list (4 * k)
    let top := (List.range k).foldl (fun m i =>
      match s.copyClass s.myTask.ctx (base + indexAt idx i) (2 ^ z) write with
      | .ok x => max m x
      | .error _ => m) 0
    .memory (if top = 0 then c else top)

def Endpoint.isMemory : Endpoint → Bool
  | .memory _ => true
  | .slice _ => false

/-- Issue a copy from a source range to a destination range, the endpoints checked; `f` and `g` say more of the two, `packed` whether
each must lie in the scratchpad, as the contiguous side of a gather or scatter does (09 R191). -/
def State.copyBetween (s : State) (e start a an d dn b : Nat) (op : CmdOp) (f g : Endpoint → Endpoint := id)
    (packed : Bool × Bool := (false, false)) : State :=
  match s.endpoint a an false with
  | .error f => s.fail f
  | .ok src =>
    match s.endpoint d dn true with
    | .error f => s.fail f
    | .ok dst =>
      if bothMemory src dst || (packed.1 && src.isMemory) || (packed.2 && dst.isMemory) then
        s.fail { cause := 0x0F, sub := 2, addr := d % 2 ^ 57 } else s.issueCopy e start b (f src) (g dst) op

/-- KCOPY (09 R189). -/
def execKcopy (sc d l t : BitVec 5) (e : BitVec 2) (s : State) : Out :=
  let r (n : BitVec 5) : Nat := (s.me.reg n.toNat).toNat
  let b := r l
  .next (if b % 4 ≠ 0 || b < 4 || 0x280000 < b || r sc % 4 ≠ 0 || r d % 4 ≠ 0 then s.fail { cause := 0x0F, sub := 1, addr := r d % 2 ^ 57 }
    else s.copyBetween e.toNat (r t) (r sc) b (r d) b b (.copy (r sc) (r d) b))

/-- KCOPYR (09 R190): a reduction into the scratchpad, in ELEM. -/
def execKcopyr (sc d l t : BitVec 5) (e : BitVec 2) (s : State) : Out :=
  let r (n : BitVec 5) : Nat := (s.me.reg n.toNat).toNat
  let b := r l
  let w := elemBits s.elem / 8
  .next (if s.elem = 9 || b % w ≠ 0 || 65536 < b || r sc % w ≠ 0 || r d % w ≠ 0 || !inWindow (r d) then
      s.fail { cause := 0x0F, sub := 3, addr := r d % 2 ^ 57 }
    else s.copyBetween e.toNat (r t) (r sc) (max b 1) (r d) b b (.reduce (r sc) (r d) b s.myFmt))

/-- The descriptor of a gather or scatter: list address, count, log2 record size (09 R191). -/
def State.descriptor (s : State) (v : Word) : Option (Nat × Nat × Nat) :=
  let list := bits v 0 32
  let k := bits v 32 16
  let r := bits v 48 4
  if bits v 52 12 ≠ 0 || k = 0 || r < 2 || 12 < r || 2 ^ 31 ≤ list || spadCore list ≠ s.cur.core ||
      sliceTop < spadOff list + 4 * k then none
  else some (list, k, r)

/-- KGATH (09 R191): the record at s[a] + x_i to record i of the destination. -/
def execKgath (sc d l t : BitVec 5) (e : BitVec 2) (s : State) : Out :=
  let r (n : BitVec 5) : Nat := (s.me.reg n.toNat).toNat
  .next (match s.descriptor (s.me.reg l.toNat) with
    | none => s.fail { cause := 0x0F, sub := 1, addr := r d % 2 ^ 57 }
    | some (list, k, z) =>
      s.copyBetween e.toNat (r t) (r sc) 1 (r d) (k * 2 ^ z) (k * 2 ^ z) (.gather (r sc) (r d) list k z)
        (f := s.recordSide (r sc) list k z false) (packed := (false, true)))

/-- KSCAT (09 R191): record i of the source to s[b] + x_i. -/
def execKscat (sc d l t : BitVec 5) (e : BitVec 2) (s : State) : Out :=
  let r (n : BitVec 5) : Nat := (s.me.reg n.toNat).toNat
  .next (match s.descriptor (s.me.reg l.toNat) with
    | none => s.fail { cause := 0x0F, sub := 1, addr := r d % 2 ^ 57 }
    | some (list, k, z) =>
      s.copyBetween e.toNat (r t) (r sc) (k * 2 ^ z) (r d) 1 (k * 2 ^ z) (.scatter (r sc) (r d) list k z)
        (g := s.recordSide (r d) list k z true) (packed := (true, false)))

/-- KFILL (09 R189): every word of the destination := s[a][31:0]; the issuing core counts as its source. -/
def execKfill (sc d l t : BitVec 5) (e : BitVec 2) (s : State) : Out :=
  let r (n : BitVec 5) : Nat := (s.me.reg n.toNat).toNat
  let b := r l
  .next (if b % 4 ≠ 0 || b < 4 || 0x280000 < b || r d % 4 ≠ 0 then s.fail { cause := 0x0F, sub := 1, addr := r d % 2 ^ 57 }
    else match s.endpoint (r d) b true with
      | .error f => s.fail f
      | .ok dst => s.issueCopy e.toNat (r t) b (.slice s.cur.core) dst
          (.fill (r d) b ((s.me.reg sc.toNat).truncate 32)))

/-- KSTAT (09 R197): the engine's pending count, whether it executes, and P of its latest command. -/
def execKstat (d : BitVec 5) (e : BitVec 2) (s : State) : Out :=
  let g := s.me.engine e.toNat
  .next (s.writeScalar 1 d (BitVec.ofNat 64 (g.pending.length % 8 + g.running.isSome.toNat * 8 + g.lastP % 2 ^ 32 * 2 ^ 32)))

/-! ### Walkers (09 R177, R180) -/

/-- A slot's use of a walker by a set-up instruction. -/
def State.useWalkerSlot (s : State) (n : Nat) (f : Walker → State) : Out :=
  .next (if s.me.engages false n then s.fail { cause := 0x0A, sub := 7 } else f (s.me.walker n))

/-- WSET (09 R180). -/
def execWset (w a b : BitVec 5) (s : State) : Out :=
  let cfg := s.me.reg a.toNat
  s.useWalkerSlot w.toNat fun _ =>
    if cfg.toNat / 2 ^ 7 ≠ 0 then s.fail { cause := 0x0E, sub := 2 }
    else
      let new : Walker := { Walker.start with loaded := true, cfg := cfg }
      let s1 := s.issue 0 (.walker w.toNat new)
      if new.ldb then s1.issue 0 (.base new.baseReg ((s.me.reg b.toNat).truncate 32)) else s1

/-- One level of a walker set (09 R180). -/
def Walker.setLevel (w : Walker) (n : Nat) (l : Level) : Walker :=
  match n with
  | 0 => { w with l0 := l }
  | 1 => { w with l1 := l }
  | 2 => { w with l2 := l }
  | _ => { w with l3 := l }

/-- WLOOP (09 R180): a level's count and stride; every index zero. -/
def execWloop (w a b v : BitVec 5) (s : State) : Out :=
  let count : BitVec 32 := (s.me.reg a.toNat).truncate 32
  s.useWalkerSlot w.toNat fun old =>
    if !old.loaded then s.fail { cause := 0x0E, sub := 1 }
    else if count = 0 then s.fail { cause := 0x0E, sub := 3 }
    else s.issue 0 (.walker w.toNat { (old.rewind.setLevel v.toNat ⟨count, (s.me.reg b.toNat).truncate 32, 0⟩) with
      lastLeaf := old.lastLeaf })

/-- WRST (09 R180): every index zero. -/
def execWrst (w : BitVec 5) (s : State) : Out :=
  s.useWalkerSlot w.toNat fun old =>
    if !old.loaded then s.fail { cause := 0x0E, sub := 1 } else s.issue 0 (.walker w.toNat old.rewind)

/-! ### Leaf table, checker and scalar access (09 R184, R185, R194) -/

/-- KTAG (09 R184): EXPECT of a valid entry. -/
def execKtag (a b : BitVec 5) (s : State) : Out :=
  let n := bits (s.me.reg a.toNat) 0 10
  .next (if !(s.me.leafEntry n).valid then s.fail { cause := 0x0D, sub := 4 }
    else s.issue 0 (.leafExpect s.cur.core n ((s.me.reg b.toNat).truncate 16)))

/-- LTSET (09 R184): an entry of the core's own leaf table. -/
def execLtset (a b : BitVec 5) (s : State) : Out :=
  let n := bits (s.me.reg a.toNat) 0 10
  let v := s.me.reg b.toNat
  let off := bits v 0 16
  let cap := bits v 16 7
  let valid := bitAt v 23
  .next (if valid && (cap = 0 || 65 < cap || 40960 < off + cap || v.toNat / 2 ^ 24 ≠ 0) then s.fail { cause := 0x0D, sub := 3 }
    else s.issue 0 (.leafEntry s.cur.core n { LeafEntry.start with
      offset := BitVec.ofNat 16 off, cap := BitVec.ofNat 7 cap, valid := valid }))

/-- KCHK (09 R194): arm the early-read checker, or disarm it with length 0. -/
def execKchk (a b : BitVec 5) (s : State) : Out :=
  let lo := bits (s.me.reg a.toNat) 0 32
  let n := bits (s.me.reg b.toNat) 0 32
  .next (s.issue 0 (.checker (if n = 0 then none else some (lo, n))))

/-- SLD (09 R185): an element of scratchpad, read at issue, to s[d] at n + 3. -/
def execSld (a d : BitVec 5) (z : BitVec 2) (s : State) : Out :=
  let n := 2 ^ z.toNat
  .next (match s.readTimed s.cur.task s.cur.core (bits (s.me.reg a.toNat) 0 32) n n 2 s.me.pc with
    | .error e => s.fail e
    | .ok (l, s') => s'.writeScalar 3 d (BitVec.ofNat 64 (leNat l)))

/-- SST (09 R185): the low bytes of s[b] to an element of scratchpad at n + 2. -/
def execSst (a b : BitVec 5) (z : BitVec 2) (s : State) : Out :=
  let n := 2 ^ z.toNat
  let addr := bits (s.me.reg a.toNat) 0 32
  .next (match s.myTask.spadFault s.cur.core addr n n with
    | some sub => s.fail { cause := 0x0D, sub := sub, addr := addr, kind := 2 }
    | none => s.issue 2 (.spad addr (leBytes n (s.me.reg b.toNat).toNat) 3))

end Sys2Proof.Machine
end

