-- ==== Sys2Proof/Machine/Row.lean ====
section
/-!
DEFINITION. Class ROW: operations on rows (06 R120 to R129, 05 R105).
-/

namespace Sys2Proof.Machine

/-- The format trap 0x1 of an operation issued with a format outside its set (05 R93, 06 R122). -/
def formatFail : Fail := { cause := 7, sub := 1 }

/-- The poisoned-element trap of a consumed poison trit (05 R92). -/
def poisonFail : Fail := { cause := 8, sub := 0 }

/-- Whether a format is in a set named by letters of 06 R122: I, F, T. -/
def admits (i f t : Bool) (e : Nat) : Bool := (i && isIntFmt e) || (f && isFloatFmt e) || (t && e = 9)

/-- Whether some lane of a row read as TRIT, among those of a mask, is poison. -/
def hasPoison (mask : Pred) (r : Row) : Bool := (List.range 128).any fun l => laneOn mask l && elemOf 9 (lane r l) = 2

/-- A floating lane's value after Flush(). -/
def Modes.val (m : Modes) (e : Nat) (l : Lane) : Num := floatValue e m.flush (elemOf e l)

/-- A floating result as a lane (06 R123): not narrowing, so it overflows IEEE-style. -/
def Modes.res (m : Modes) (e : Nat) (v : Num) : Lane := extend e (toFloat m e false v)

/-- An element's own bits as a lane, extended (05 R91). -/
def sameElem (e : Nat) (a : Lane) : Lane := extend e (elemOf e a)

/-- An integer result as a lane, modulo 2^w (06 R123). -/
def intLane (e : Nat) (v : Int) : Lane := extend e (wrapInt e v)

/-- The integer of a lane. -/
def laneInt (e : Nat) (l : Lane) : Int := intOf e (elemOf e l)

/-- A lane operation in an integer format and in a floating one. -/
def laneOp2 (m : Modes) (e : Nat) (fi : Int → Int → Int) (ff : Num → Num → Num) (a b : Lane) : Lane :=
  if isIntFmt e then intLane e (fi (laneInt e a) (laneInt e b)) else m.res e (ff (m.val e a) (m.val e b))

/-- The mask of a row slot. -/
def State.mask (s : State) (p : BitVec 4) : Pred := s.me.pred p.toNat

/-- The mould of a binary row operation (06 R121): both sources read, each written lane given by `f`.  A slot with an illegal format
takes the format trap alone, whatever its operands would raise (log 111). -/
def State.row2 (s : State) (ok : Nat → Bool) (lat : Nat → Nat) (f : Modes → Nat → Lane → Lane → Lane)
    (d a b : BitVec 6) (p : BitVec 4) (x : Ext) : Out :=
  let e := s.elem
  let (ra, s1) := s.readRow a x e
  let (rb, s2) := if b = a then (ra, s1) else s1.readRow b x e
  .next (if !ok e then s.fail formatFail
    else s2.writeRow d (lat e) (s.mask p) (rowOf fun l => f s.modes e (lane ra l) (lane rb l)))

/-- The mould of a unary row operation. -/
def State.row1 (s : State) (ok : Nat → Bool) (lat : Nat) (f : Modes → Nat → Lane → Lane) (d a : BitVec 6) (p : BitVec 4)
    (x : Ext) : Out :=
  let e := s.elem
  let (ra, s1) := s.readRow a x e
  .next (if !ok e then s.fail formatFail
    else s1.writeRow d lat (s.mask p) (rowOf fun l => f s.modes e (lane ra l)))

/-- An operation over whole rows that moves elements between lanes (VPERM, VLSH, VBCST), each extended in its lane (06 R121, 05 R91). -/
def State.rowMove (s : State) (f : Row → Row → Nat → Lane) (d a b : BitVec 6) (p : BitVec 4) (x : Ext) : Out :=
  let e := s.elem
  let (ra, s1) := s.readRow a x e
  let (rb, s2) := if b = a then (ra, s1) else s1.readRow b x e
  .next (if e = 9 then s.fail formatFail else s2.writeRow d 3 (s.mask p) (rowOf fun l => sameElem e (f ra rb l)))

/-- A comparison into a predicate (06 R126). -/
def State.rowCmp (s : State) (trit : Bool) (fi : Int → Int → Bool) (ff : Num → Num → Bool) (d a b : BitVec 6)
    (p : BitVec 4) (x : Ext) : Out :=
  let e := s.elem
  let m := s.modes
  let (ra, s1) := s.readRow a x e
  let (rb, s2) := if b = a then (ra, s1) else s1.readRow b x e
  let test (l : Nat) : Bool :=
    if e = 9 then fi (tritInt (elemOf 9 (lane ra l))) (tritInt (elemOf 9 (lane rb l)))
    else if isIntFmt e then fi (laneInt e (lane ra l)) (laneInt e (lane rb l))
    else ff (m.val e (lane ra l)) (m.val e (lane rb l))
  .next (if !admits true true trit e then s.fail formatFail
    else if e = 9 && (hasPoison (s.mask p) ra || hasPoison (s.mask p) rb) then s.fail poisonFail
    else s2.writePred d 2 (s.mask p) (predOf test))

/-- Latency 2 in integer formats, 4 in floating ones (03 R63). -/
def lat24 (e : Nat) : Nat := if isIntFmt e then 2 else 4

/-- A bitwise operation on the element's bits. -/
def bitsOp (f : Nat → Nat → Nat) (_ : Modes) (e : Nat) (a b : Lane) : Lane := extend e (f (elemOf e a) (elemOf e b))

/-- VSHL, VSHR, VSRA on an element by a count (06 R124). -/
def shlElem (e : Nat) (a : Lane) (c : Nat) : Lane := if elemBits e ≤ c then 0 else extend e (elemOf e a * 2 ^ c % 2 ^ elemBits e)
def shrElem (e : Nat) (a : Lane) (c : Nat) : Lane := if elemBits e ≤ c then 0 else extend e (elemOf e a / 2 ^ c)
def sraElem (e : Nat) (a : Lane) (c : Nat) : Lane :=
  extend e (wrapInt e (sext (elemBits e) (elemOf e a) / ((2 ^ min c (elemBits e) : Nat) : Int)))

/-- The trit with 01 and 11 exchanged. -/
def negTrit (v : Nat) : Nat := if v = 1 then 3 else if v = 3 then 1 else v

/-- A NaN formed from an operand with its sign then set, or the canonical NaN (06 R124, VABS and VNEG). -/
def signedNan (m : Modes) (e : Nat) (neg : Bool) (frac : Nat) : Lane := extend e (nanBits m e neg frac)

/-- VABS of a lane. -/
def absLane (m : Modes) (e : Nat) (a : Lane) : Lane :=
  if isIntFmt e then intLane e ((laneInt e a).natAbs : Int)
  else match m.val e a with
    | .nan _ f => signedNan m e false f
    | .inf _ => m.res e (.inf false)
    | .fin _ n g => m.res e (.fin false n g)
    | .invalid => m.res e .invalid

/-- VNEG of a lane. -/
def negLane (m : Modes) (e : Nat) (a : Lane) : Lane :=
  if e = 9 then BitVec.ofNat 32 (negTrit (elemOf 9 a))
  else if isIntFmt e then intLane e (-(laneInt e a))
  else match m.val e a with
    | .nan n f => signedNan m e (!n) f
    | v => m.res e v.negate

/-- Infinity of the format as a floating result: in E4M3 the NaN of its sign (06 R128). -/
def funcLane (g : Num → Num) (m : Modes) (e : Nat) (a : Lane) : Lane := m.res e (g (m.val e a))

/-! ### The reduction tree (05 R111, 06 R129) -/

/-- One level of the tree; an absent lane is `none`. -/
def treeLevel {α : Type} (op : α → α → α) : List (Option α) → List (Option α)
  | a :: b :: rest =>
    (match a, b with
      | some x, some y => some (op x y)
      | some x, none => some x
      | none, y => y) :: treeLevel op rest
  | l => l

/-- The root over `n` levels. -/
def tree {α : Type} (op : α → α → α) : Nat → List (Option α) → Option α
  | 0, l => (l.head?).join
  | n + 1, l => tree op n (treeLevel op l)

/-- The lanes of a row that take part. -/
def present {α : Type} (mask : Pred) (f : Nat → α) : List (Option α) :=
  (List.range 128).map fun l => if laneOn mask l then some (f l) else none

/-- A node of a floating reduction: its value as the format holds it. -/
def nodeNum (m : Modes) (e : Nat) (v : Num) : Num := floatValue e m.flush (toFloat m e false v)

/-- The mould of a reduction: the result goes to all 128 lanes. -/
def State.reduce (s : State) (fi : Nat → List (Option Int) → Lane) (ff : Modes → Num → Num → Num) (d a : BitVec 6)
    (p : BitVec 4) (x : Ext) : Out :=
  let e := s.elem
  let m := s.modes
  let (ra, s1) := s.readRow a x e
  let v : Lane :=
    if isIntFmt e then fi e (present (s.mask p) fun l => laneInt e (lane ra l))
    else match tree (fun u w => nodeNum m e (ff m u w)) 7 (present (s.mask p) fun l => m.val e (lane ra l)) with
      | some n => m.res e n
      | none => 0
  .next (if !admits true true false e then s.fail formatFail else s1.writeRow d 8 ones (List.replicate 128 v))

/-- The exact sum as a full 32-bit lane (06 R129). -/
def intSum (_ : Nat) (l : List (Option Int)) : Lane := BitVec.ofInt 32 (l.foldl (fun n o => n + o.getD 0) 0)

/-- The greatest or least as an element. -/
def intPick (f : Int → Int → Int) (e : Nat) (l : List (Option Int)) : Lane :=
  match tree f 7 l with
  | some v => intLane e v
  | none => 0

/-! ### Class ROW -/

/-- VMOV (06 R124): the lanes unchanged. -/
def execVmov (d a : BitVec 6) (p : BitVec 4) (x : Ext) (s : State) : Out :=
  s.row1 (fun _ => true) 2 (fun _ _ a => a) d a p x

/-- VADD (06 R124): A + B. -/
def execVadd (d a b : BitVec 6) (p : BitVec 4) (x : Ext) (s : State) : Out :=
  s.row2 (admits true true false) lat24 (fun m e => laneOp2 m e (· + ·) (addNum (m.forFmt e))) d a b p x

/-- VSUB (06 R124): A - B. -/
def execVsub (d a b : BitVec 6) (p : BitVec 4) (x : Ext) (s : State) : Out :=
  s.row2 (admits true true false) lat24 (fun m e => laneOp2 m e (· - ·) (fun u v => addNum (m.forFmt e) u v.negate)) d a b p x

/-- VMUL (06 R124): A × B. -/
def execVmul (d a b : BitVec 6) (p : BitVec 4) (x : Ext) (s : State) : Out :=
  s.row2 (admits true true false) lat24 (fun m e => laneOp2 m e (· * ·) mulNum) d a b p x

/-- The SRAM error that a read of the row a cursor code points to would meet (17 R303). -/
def State.addendFail (s : State) (d : BitVec 6) : Option Fail :=
  let cu := s.me.cursor (d.toNat - 0x18)
  if (s.me.tileFail cu.tile.toNat).isSome then none else s.me.sramFail 0 cu.linear

/-- VMAC (06 R125): A × B + C, the addend read from the destination cursor's row at issue, like a source. -/
def execVmac (d a b : BitVec 6) (p : BitVec 4) (x : Ext) (s : State) : Out :=
  let e := s.elem
  let m := s.modes
  let cu := s.me.cursor (d.toNat - 0x18)
  let rc := s.me.tileRow cu.tile.toNat cu.row.toNat
  let (ra, s1) := s.readRow a x e
  let (rb, s2) := if b = a then (ra, s1) else s1.readRow b x e
  let f (l : Nat) : Lane :=
    if isIntFmt e then intLane e (laneInt e (lane ra l) * laneInt e (lane rb l) + laneInt e (lane rc l))
    else m.res e (fmaNum (m.forFmt e) (m.val e (lane ra l)) (m.val e (lane rb l)) (m.val e (lane rc l)))
  .next (if !admits true true false e then s.fail formatFail
    else match s.addendFail d with
      | some g => s2.fail g
      | none => s2.writeRow d 5 (s.mask p) (rowOf f))

/-- VADDS (06 R124): A + B clamped to the range. -/
def execVadds (d a b : BitVec 6) (p : BitVec 4) (x : Ext) (s : State) : Out :=
  s.row2 (admits true false false) (fun _ => 2) (fun _ e a b => intLane e (clamp (intMin e) (intMax e) (laneInt e a + laneInt e b))) d a b p x

/-- VSUBS (06 R124): A - B clamped to the range. -/
def execVsubs (d a b : BitVec 6) (p : BitVec 4) (x : Ext) (s : State) : Out :=
  s.row2 (admits true false false) (fun _ => 2) (fun _ e a b => intLane e (clamp (intMin e) (intMax e) (laneInt e a - laneInt e b))) d a b p x

/-- VMIN (06 R124): the smaller value. -/
def execVmin (d a b : BitVec 6) (p : BitVec 4) (x : Ext) (s : State) : Out :=
  s.row2 (admits true true false) (fun _ => 2) (fun m e => laneOp2 m e min minNum) d a b p x

/-- VMAX (06 R124): the larger value. -/
def execVmax (d a b : BitVec 6) (p : BitVec 4) (x : Ext) (s : State) : Out :=
  s.row2 (admits true true false) (fun _ => 2) (fun m e => laneOp2 m e max maxNum) d a b p x

/-- VABS (06 R124): the magnitude. -/
def execVabs (d a : BitVec 6) (p : BitVec 4) (x : Ext) (s : State) : Out :=
  s.row1 (admits true true false) 2 absLane d a p x

/-- VNEG (06 R124, 05 R93): the negation; a poison trit is consumed. -/
def execVneg (d a : BitVec 6) (p : BitVec 4) (x : Ext) (s : State) : Out :=
  let e := s.elem
  let (ra, s1) := s.readRow a x e
  .next (if e = 9 && hasPoison (s.mask p) ra then s.fail poisonFail
    else s1.writeRow d 2 (s.mask p) (rowOf fun l => negLane s.modes e (lane ra l)))

/-- VAND (06 R124): bitwise and of the elements. -/
def execVand (d a b : BitVec 6) (p : BitVec 4) (x : Ext) (s : State) : Out :=
  s.row2 (admits true true false) (fun _ => 2) (bitsOp Nat.land) d a b p x

/-- VOR (06 R124): bitwise or of the elements. -/
def execVor (d a b : BitVec 6) (p : BitVec 4) (x : Ext) (s : State) : Out :=
  s.row2 (admits true true false) (fun _ => 2) (bitsOp Nat.lor) d a b p x

/-- VXOR (06 R124): bitwise exclusive or of the elements. -/
def execVxor (d a b : BitVec 6) (p : BitVec 4) (x : Ext) (s : State) : Out :=
  s.row2 (admits true true false) (fun _ => 2) (bitsOp Nat.xor) d a b p x

/-- VSHL (06 R124): left by B[7:0]. -/
def execVshl (d a b : BitVec 6) (p : BitVec 4) (x : Ext) (s : State) : Out :=
  s.row2 (admits true false false) (fun _ => 2) (fun _ e a b => shlElem e a (b.toNat % 256)) d a b p x

/-- VSHR (06 R124): right by B[7:0], zeros in. -/
def execVshr (d a b : BitVec 6) (p : BitVec 4) (x : Ext) (s : State) : Out :=
  s.row2 (admits true false false) (fun _ => 2) (fun _ e a b => shrElem e a (b.toNat % 256)) d a b p x

/-- VSRA (06 R124): right by B[7:0], copies of the top bit in. -/
def execVsra (d a b : BitVec 6) (p : BitVec 4) (x : Ext) (s : State) : Out :=
  s.row2 (admits true false false) (fun _ => 2) (fun _ e a b => sraElem e a (b.toNat % 256)) d a b p x

/-- VMULLO (06 R124): the low half of the product. -/
def execVmullo (d a b : BitVec 6) (p : BitVec 4) (x : Ext) (s : State) : Out :=
  s.row2 (admits true false false) (fun _ => 2) (fun _ e a b => intLane e (laneInt e a * laneInt e b)) d a b p x

/-- VMULHI (06 R124): the high half of the product. -/
def execVmulhi (d a b : BitVec 6) (p : BitVec 4) (x : Ext) (s : State) : Out :=
  s.row2 (admits true false false) (fun _ => 2) (fun _ e a b => intLane e (laneInt e a * laneInt e b / ((2 ^ elemBits e : Nat) : Int))) d a b p x

/-- VPEQ (06 R124): A = B (R126). -/
def execVpeq (d a b : BitVec 6) (p : BitVec 4) (x : Ext) (s : State) : Out :=
  s.rowCmp true (· == ·) eqNum d a b p x

/-- VPNE (06 R124): A ≠ B (R126). -/
def execVpne (d a b : BitVec 6) (p : BitVec 4) (x : Ext) (s : State) : Out :=
  s.rowCmp true (· != ·) (fun u v => !eqNum u v) d a b p x

/-- VPLT (06 R124): A < B (R126). -/
def execVplt (d a b : BitVec 6) (p : BitVec 4) (x : Ext) (s : State) : Out :=
  s.rowCmp false (fun u v => u < v) ltNum d a b p x

/-- VPLE (06 R124): A ≤ B (R126). -/
def execVple (d a b : BitVec 6) (p : BitVec 4) (x : Ext) (s : State) : Out :=
  s.rowCmp false (fun u v => u ≤ v) (fun u v => ltNum u v || eqNum u v) d a b p x

/-- VSEL (06 R127): every lane written, A where pk is 1 and B elsewhere, bits unchanged. -/
def execVsel (d a b : BitVec 6) (p : BitVec 4) (x : Ext) (s : State) : Out :=
  let e := s.elem
  let (ra, s1) := s.readRow a x e
  let (rb, s2) := if b = a then (ra, s1) else s1.readRow b x e
  .next (s2.writeRow d 2 ones (blend (s.mask p) rb ra))

/-- VRCP (06 R128): 1 / A, correctly rounded. -/
def execVrcp (d a : BitVec 6) (p : BitVec 4) (x : Ext) (s : State) : Out :=
  s.row1 (admits false true false) 10 (funcLane rcpNum) d a p x

/-- VRSQ (06 R128): 1 / √A, correctly rounded. -/
def execVrsq (d a : BitVec 6) (p : BitVec 4) (x : Ext) (s : State) : Out :=
  s.row1 (admits false true false) 10 (funcLane rsqNum) d a p x

/-- VEXP2 (06 R128): 2^A, correctly rounded. -/
def execVexp2 (d a : BitVec 6) (p : BitVec 4) (x : Ext) (s : State) : Out :=
  s.row1 (admits false true false) 10 (funcLane exp2Num) d a p x

/-- VLOG2 (06 R128): log₂ A, correctly rounded. -/
def execVlog2 (d a : BitVec 6) (p : BitVec 4) (x : Ext) (s : State) : Out :=
  s.row1 (admits false true false) 10 (funcLane log2Num) d a p x

/-- VRSUM (06 R129): the sum of the lanes that take part. -/
def execVrsum (d a : BitVec 6) (p : BitVec 4) (x : Ext) (s : State) : Out :=
  s.reduce intSum (fun m u v => addNum (m.forFmt s.elem) u v) d a p x

/-- VRMAX (06 R129): the greatest of the lanes that take part. -/
def execVrmax (d a : BitVec 6) (p : BitVec 4) (x : Ext) (s : State) : Out :=
  s.reduce (intPick max) (fun _ => maxNum) d a p x

/-- VRMIN (06 R129): the least of the lanes that take part. -/
def execVrmin (d a : BitVec 6) (p : BitVec 4) (x : Ext) (s : State) : Out :=
  s.reduce (intPick min) (fun _ => minNum) d a p x

/-- VPERM (06 R124): A[B[6:0]]. -/
def execVperm (d a b : BitVec 6) (p : BitVec 4) (x : Ext) (s : State) : Out :=
  s.rowMove (fun ra rb l => lane ra ((lane rb l).toNat % 128)) d a b p x

/-- VLSH (06 R124): the lanes moved by the signed low byte of lane 0 of B. -/
def execVlsh (d a b : BitVec 6) (p : BitVec 4) (x : Ext) (s : State) : Out :=
  s.rowMove (fun ra rb l =>
    let i : Int := (l : Int) - sext 8 (lane rb 0).toNat
    if 0 ≤ i && i ≤ 127 then lane ra i.toNat else 0) d a b p x

/-- VBCST (06 R124): A[B₀[6:0]] in every lane. -/
def execVbcst (d a b : BitVec 6) (p : BitVec 4) (x : Ext) (s : State) : Out :=
  s.rowMove (fun ra rb _ => lane ra ((lane rb 0).toNat % 128)) d a b p x

/-- VPOPC (06 R124): the ones of the element. -/
def execVpopc (d a : BitVec 6) (p : BitVec 4) (x : Ext) (s : State) : Out :=
  s.row1 (admits true false false) 2 (fun _ e a => extend e (popcount (elemBits e) (elemOf e a))) d a p x

/-- VCLZ (06 R124): the leading zeros of the element. -/
def execVclz (d a : BitVec 6) (p : BitVec 4) (x : Ext) (s : State) : Out :=
  s.row1 (admits true false false) 2 (fun _ e a => extend e (clzOf (elemBits e) (elemOf e a))) d a p x

/-- VRINT (05 R105): rounded to an integer in its own format. -/
def execVrint (d a : BitVec 6) (p : BitVec 4) (x : Ext) (s : State) : Out :=
  s.row1 (admits false true false) 4 (fun m e => funcLane (rintNum (m.forFmt e)) m e) d a p x

end Sys2Proof.Machine
end

