-- ==== Sys2Proof/Machine/Sequence.lean ====
section
/-!
DEFINITION. The sequence unit: class FAB ops QDIM to QLOAD (12).
-/

namespace Sys2Proof.Machine

/-- Whether a set bit count is odd. -/
def parity (n : Nat) : Bool := popcount 32 n % 2 = 1

/-- Bits [31:31 - i] of a scramble row, the diagonal read as 1 (12 R232, R233). -/
def scrambleRow (l : Lane) (i : Nat) : Nat :=
  (Nat.lor l.toNat (2 ^ (31 - i))) / 2 ^ (31 - i) * 2 ^ (31 - i)

/-- Point(d, k) (12 R233). -/
def SeqUnit.point (u : SeqUnit) (d k : Nat) : Lane :=
  let x := (List.range 32).foldl (fun x j => if k / 2 ^ j % 2 = 1 then x ^^^ get u.v 0 (32 * d + j) else x) (0 : Lane)
  let z := total ((List.range 32).map fun i =>
    if parity (scrambleRow (get u.l 0 (32 * d + i)) i &&& x.toNat) then 2 ^ (31 - i) else 0)
  BitVec.ofNat 32 z ^^^ get u.e 0 d

/-- The FP32 encoding of y × 2^-32, toward zero (12 R234). -/
def unitFloat (y : Lane) : Lane := BitVec.ofNat 32 (roundToFormat ⟨1, false, false, false⟩ 8 false false y.toNat (-32))

/-- The control instructions write the unit's registers, seen from n + 1 (12 R235). -/
def State.setSeq (s : State) (f : SeqUnit → SeqUnit) : Out := .next (s.issue 0 (.seqUnit (f s.me.seq)))

/-- QDIM (12 R235): DIM := (s[a][7:0] + imm7) mod 256. -/
def execQdim (a : BitVec 5) (i : BitVec 7) (s : State) : Out :=
  s.setSeq fun u => { u with dim := (s.me.reg a.toNat).truncate 8 + i.zeroExtend 8 }

/-- QIDX (12 R235): IDX := s[a]; with off, OFF := s[b]. -/
def execQidx (a b : BitVec 5) (y : BitVec 1) (s : State) : Out :=
  s.setSeq fun u => { u with
    idx := (s.me.reg a.toNat).truncate 32
    off := if y = 1 then (s.me.reg b.toNat).truncate 32 else u.off }

/-- QSTR (12 R235). -/
def execQstr (a : BitVec 5) (s : State) : Out := s.setSeq fun u => { u with str := (s.me.reg a.toNat).truncate 32 }

/-- QDIR (12 R235): V[DIM][j], seen from n + 1. -/
def execQdir (a j : BitVec 5) (s : State) : Out :=
  .next (s.issue 1 (.seqV (32 * s.me.seq.dim.toNat + j.toNat) ((s.me.reg a.toNat).truncate 32)))

/-- QSCR (12 R235): L[DIM][i], seen from n + 1. -/
def execQscr (a i : BitVec 5) (s : State) : Out :=
  .next (s.issue 1 (.seqL (32 * s.me.seq.dim.toNat + i.toNat) ((s.me.reg a.toNat).truncate 32)))

/-- QSCR.shift (12 R235): E[DIM], seen from n + 1. -/
def execQscrShift (a : BitVec 5) (s : State) : Out :=
  .next (s.issue 1 (.seqE s.me.seq.dim.toNat ((s.me.reg a.toNat).truncate 32)))

/-- Whether Point(d, k) reads a word of the store with an uncorrectable error: V[d][j] of the set bits of k, every L[d][i]
(12 R233, R239; log 113). -/
def SeqUnit.badPoint (u : SeqUnit) (d k : Nat) : Bool :=
  u.bad.any fun w => if w < 8192 then w / 32 = d && k / 2 ^ (w % 32) % 2 = 1 else w / 32 = 256 + d

/-- Draw 128 points: Q at n + 4, IDX advanced from n + 1 unless held; a word read that holds an uncorrectable
error is the poisoned-element cause (12 R236, R239). -/
def State.draw (s : State) (fp hold : Bool) (dim idx : Nat → Nat) (step : Lane) : Out :=
  let u := s.me.seq
  .next (if (List.range 128).any fun l => u.badPoint (dim l) (idx l % 2 ^ 32) then s.trap 8 3
    else
      let raw (l : Nat) : Lane := u.point (dim l) (idx l % 2 ^ 32)
      let s1 := s.issue 4 (.seqRow (rowOf fun l => if fp then unitFloat (raw l) else raw l))
      if hold then s1 else s1.issue 0 (.seqUnit { u with idx := u.idx + step }))

/-- QGEN (12 R236): 128 indices of one dimension. -/
def execQgen (h f : BitVec 1) (s : State) : Out :=
  let u := s.me.seq
  s.draw (f = 1) (h = 1) (fun _ => u.dim.toNat) (fun l => u.off.toNat + u.idx.toNat + l * u.str.toNat) (128 * u.str)

/-- QGENV (12 R236): 128 dimensions of one index. -/
def execQgenv (h f : BitVec 1) (s : State) : Out :=
  let u := s.me.seq
  s.draw (f = 1) (h = 1) (fun l => (u.dim.toNat + l) % 256) (fun _ => u.off.toNat + u.idx.toNat) u.str

/-- A QSAVE or QLOAD: the sequence trap, the scratchpad trap, then R51 on the sequence engine (12 R237, R239). -/
def State.seqCommand (s : State) (d a b : BitVec 5) (op : Nat → Nat → Nat → CmdOp) : Out :=
  let image := (s.me.reg a.toNat).toNat % 2 ^ 32
  let v := s.me.reg b.toNat
  let f := bits v 0 8
  let c := bits v 8 9
  let start := (s.me.reg d.toNat).toNat
  .next (if c = 0 || 256 < c || 256 < f + c || v.toNat / 2 ^ 17 ≠ 0 then s.trap 0x11 1
    else if image % 64 ≠ 0 then s.trap 0x11 2 fun tr => { tr with addr := image }
    else match s.myTask.spadFault s.cur.core image (320 * c) 1 with
      | some sub => s.fail { cause := 0x0D, sub := sub, addr := image }
      | none =>
        match s.timingFail 6 start with
        | some e => s.fail e
        | none => s.issue 0 (.command 6 (s.newCmd start (start + 8 + ceilDiv (320 * c) 512) (op image f c))))

/-- QSAVE (12 R237): dimensions f to f + c - 1 to a scratchpad image. -/
def execQsave (d a b : BitVec 5) (s : State) : Out := s.seqCommand d a b .qsave

/-- QLOAD (12 R237): dimensions f to f + c - 1 from a scratchpad image. -/
def execQload (d a b : BitVec 5) (s : State) : Out := s.seqCommand d a b .qload

end Sys2Proof.Machine
end

