-- ==== Sys2Proof/Machine/Fabric.lean ====
section
/-!
DEFINITION. The stream fabric (11): layout records, windows, mash bills, and class FAB ops SFBIND to SFMASH.
-/

namespace Sys2Proof.Machine

/-! ### The layout record (11 R212) -/

def recWord (r : List Word) (i : Nat) : Word := r.getD i 0

/-- A 32-bit field of dimension `d` that starts at word `w`. -/
def recDim (r : List Word) (w d : Nat) : Nat := bits (recWord r (w + d / 2)) (32 * (d % 2)) 32

def recBase (r : List Word) : Nat := bits (recWord r 0) 0 57
def recOrder (r : List Word) (j : Nat) : Nat := bits (recWord r 1) (40 + 2 * j) 2
def recGranule (r : List Word) : Nat := bits (recWord r 1) 32 4
def recSpread (r : List Word) : Nat := bits (recWord r 1) 36 4
def recFill (r : List Word) : Nat := bits (recWord r 1) 16 16
def recRank (r : List Word) : Nat := bits (recWord r 1) 8 3
def recFormat (r : List Word) : Nat := bits (recWord r 1) 0 8
def recBill (r : List Word) : Nat := bits (recWord r 10) 32 8
def recTape (r : List Word) : BitVec 32 := BitVec.ofNat 32 (bits (recWord r 10) 0 32)

/-- A dimension at or above RANK counts as extent 1, stride 0, origin 0, size 1, step 0 (11 R212). -/
def recExtent (r : List Word) (d : Nat) : Nat := if d < recRank r then recDim r 2 d else 1
def recStride (r : List Word) (d : Nat) : Int :=
  let v := recDim r 4 d
  let m : Int := (v / 2 ^ 8 % 2 ^ 23 * 2 ^ (v % 2 ^ 8) : Nat)
  if recRank r ≤ d then 0 else if v / 2 ^ 31 = 1 then -m else m
def recOrigin (r : List Word) (d : Nat) : Int := if d < recRank r then sext 32 (recDim r 6 d) else 0
def recSize (r : List Word) (d : Nat) : Nat := if d < recRank r then bits (recWord r 8) (16 * d) 16 else 1
def recStep (r : List Word) (d : Nat) : Int := if d < recRank r then sext 16 (bits (recWord r 9) (16 * d) 16) else 0

/-- Bytes that BASE and the strides must be multiples of (11 R213, R214). -/
def formatBytes (f : Nat) : Nat := if f = 9 then 1 else elemBits f / 8

/-- Whether a reserved bit of the record is set (11 R212, R213). -/
def recReserved (r : List Word) : Bool :=
  bits (recWord r 0) 57 7 ≠ 0 || bits (recWord r 1) 48 16 ≠ 0 || bits (recWord r 1) 11 5 ≠ 0 ||
    bits (recWord r 10) 40 24 ≠ 0 || recWord r 11 ≠ 0 ||
    (List.range 4).any fun d => recRank r ≤ d &&
      (recDim r 2 d ≠ 0 || recDim r 4 d ≠ 0 || recDim r 6 d ≠ 0 || bits (recWord r 8) (16 * d) 16 ≠ 0 ||
        bits (recWord r 9) (16 * d) 16 ≠ 0 || recOrder r d ≠ 0)

/-- Whether a field value of the record is illegal (11 R213). -/
def recIllegal (r : List Word) : Bool :=
  let rank := recRank r
  let f := recFormat r
  10 < f || rank = 0 || 4 < rank ||
    (List.range rank).any (fun d => !(List.range rank).any fun j => recOrder r j = d) ||
    (List.range rank).any (fun d => recDim r 2 d = 0 || bits (recWord r 8) (16 * d) 16 = 0 || 56 < recDim r 4 d % 2 ^ 8 ||
      recStride r d % (formatBytes f : Int) ≠ 0) ||
    recBase r % formatBytes f ≠ 0 || (8 ≤ recBill r && recBill r ≠ 0xFF) ||
    (f = 9 && (recDim r 4 0 ≠ 0 || recFill r % 4 = 2))

/-! ### Windows (11 R214, R216) -/

/-- C of 11 R216. -/
def recCount (r : List Word) : Nat := recSize r 0 * recSize r 1 * recSize r 2 * recSize r 3

/-- The cells of a window at an origin, in stream order. -/
def recCells (r : List Word) (origin : List Int) : List (List Int) :=
  let at' (d : Nat) : Int := origin.getD d 0
  (List.range (recCount r)).map fun n =>
    let go (j : Nat) : Nat := n / (List.range j).foldl (fun m i => m * recSize r (recOrder r i)) 1
    (List.range 4).map fun d =>
      match (List.range (recRank r)).find? fun j => recOrder r j = d with
      | some j => at' d + (go j % recSize r d : Nat)
      | none => 0

/-- Whether a cell is in extent. -/
def recInside (r : List Word) (x : List Int) : Bool :=
  (List.range 4).all fun d => 0 ≤ x.getD d 0 && x.getD d 0 < recExtent r d

/-- Byte address and bit of an in-extent cell. -/
def recPlace (r : List Word) (x : List Int) : Nat × Nat :=
  let x0 := (x.getD 0 0).toNat
  let trit := recFormat r = 9
  let sum := (List.range 4).foldl (fun a d => a + (if trit && d = 0 then ((x0 / 4 : Nat) : Int) else x.getD d 0 * recStride r d))
    ((recBase r : Nat) : Int)
  ((sum % ((2 ^ 57 : Nat) : Int)).toNat, if trit then 2 * (x0 % 4) else 0)

/-- The origin of run `n` of a stream: each run moves it by STEP, as a signed 32-bit value. -/
def originOf (r : List Word) (n : Nat) : List Int :=
  (List.range 4).map fun d =>
    sext 32 ((recOrigin r d + (n : Int) * recStep r d) % ((2 ^ 32 : Nat) : Int)).toNat

/-- The raw element of a fill cell. -/
def recFillElem (r : List Word) : Nat :=
  let v := recFill r
  match elemBits (recFormat r) with
  | 2 => v % 4
  | 8 => v % 2 ^ 8
  | 16 => v
  | _ => v * 0x00010001

/-! ### Mash bills (11 R217, R218) -/

def nodeType (n : BitVec 128) : Nat := bits n 0 6
def nodeCell (n : BitVec 128) : Nat := bits n 6 6
def nodeA (n : BitVec 128) : Nat := bits n 12 7
def nodeB (n : BitVec 128) : Nat := bits n 19 7
def nodeP0 (n : BitVec 128) : Nat := bits n 32 32
def nodeP1 (n : BitVec 128) : Nat := bits n 64 32

/-- A value on an edge, with its poison flag. -/
abbrev Edge := Int × Bool

/-- What a node gives: its output, and what it adds to CLAMP and SAT; `crc` is the CRC32C value after it, `bad` says that
it met a non-finite input. -/
structure NodeOut where
  out : List Edge
  clamps : Nat
  sats : Nat
  crc : BitVec 32
  bad : Bool
  deriving DecidableEq, Repr

def satLo : Int := -((2 ^ 39 : Nat) : Int)
def satHi : Int := ((2 ^ 39 : Nat) : Int) - 1

/-- Map each value through an exact function and Sat40, counting the clamps. -/
def satNode (crc : BitVec 32) (l : List Edge) : NodeOut :=
  ⟨l.map fun e => (clamp satLo satHi e.1, e.2), 0, (l.filter fun e => e.1 ≠ clamp satLo satHi e.1).length, crc, false⟩

def plainNode (crc : BitVec 32) (l : List Edge) : NodeOut := ⟨l, 0, 0, crc, false⟩

/-- Digit k of a balanced-ternary integer (05 R106). -/
def ternaryDigit (v : Int) : Nat → Int
  | 0 => if v % 3 = 2 then -1 else v % 3
  | k + 1 => ternaryDigit ((v - (if v % 3 = 2 then -1 else v % 3)) / 3) k

/-- RoundInt(v / 2^k, RNE) of an integer. -/
def roundDown (v : Int) (k : Nat) : Int := roundInt 0 (v < 0) v.natAbs (-(k : Int))

/-- The stream input's element as UNPACK gives it. -/
def unpackElem (f v : Nat) : Int :=
  if f = 9 then tritInt v else if isFloatFmt f then (v : Nat) else intOf f v

/-- The encoding that PACK gives a value (11 R218). -/
def packElem (r : Modes) (p0 p1 : Nat) (v : Int) : Nat :=
  let f := p0 % 16
  let sat := p0 / 16 % 2 = 1
  if p0 / 32 % 2 = 1 then convert r f sat (.fin (v < 0) v.natAbs (sext 8 p1))
  else if f = 9 then tritOf (if sat then clamp (-1) 1 v else if v % 3 = 2 then -1 else v % 3)
  else if isFloatFmt f then wrapInt 3 v % 2 ^ elemBits f
  else wrapInt f (if sat then clamp (intMin f) (intMax f) v else v)

/-- floor(log2 |v|) of a non-zero finite element. -/
def floorLog (f : Nat) (flush : Bool) (v : Int) : Option Int :=
  match floatValue f flush (wrapInt f v) with
  | .fin _ m e => if m = 0 then none else some ((log2 m : Int) + e)
  | _ => none

/-- Whether an element is a NaN or an infinity. -/
def nonFinite (f : Nat) (v : Int) : Bool :=
  match floatValue f false (wrapInt f v) with
  | .fin .. => false
  | _ => true

/-- EXPX over one group. -/
def expGroup (f w : Nat) (flush : Bool) (g : List Edge) : List Edge :=
  let es := g.filterMap fun e => if e.2 then none else floorLog f flush e.1
  let top : Int := match es with
    | [] => 0
    | x :: rest => max (rest.foldl max x - (w : Int)) (-128)
  g.map fun e => (top, e.2)

/-- ALIGN of one element; that of a poisoned NaN or infinity is left open (log 53). -/
def alignElem (f : Nat) (flush : Bool) (v y : Int) : Int :=
  match floatValue f flush (wrapInt f v) with
  | .fin neg n e => roundInt 0 neg n (clamp (-64) 64 (e - y))
  | _ => Config.alignPoison (wrapInt f v)

/-- One byte through CRC32C, reflected. -/
def crcByte (c : BitVec 32) (b : Nat) : BitVec 32 :=
  (List.range 8).foldl (fun c _ => if bitAt c 0 then (c >>> 1) ^^^ 0x82F63B78 else c >>> 1) (c ^^^ BitVec.ofNat 32 b)

/-- The CRC32C value after the low four bytes of each value. -/
def crcOf (c : BitVec 32) (l : List Edge) : BitVec 32 :=
  ~~~ l.foldl (fun c e => (List.range 4).foldl (fun c i => crcByte c (wrapInt 3 e.1 / 256 ^ i % 256)) c) (~~~c)

/-- Blocks of h rows by v columns, read in row-major order, each emitted in column-major order (log 22). -/
def transpose (h v : Nat) (l : List Edge) : List Edge :=
  (chunk (h * v) l.length l).flatMap fun b =>
    (List.range (h * v)).map fun i => b.getD (i % h * v + i / h) (0, false)

/-- What a node makes of its inputs (11 R218).  LEAF passes its input on: R219 stores it. -/
def evalNode (r : Modes) (src : Nat) (n : BitVec 128) (a b : List Edge) (count : Nat) (crc : BitVec 32) : NodeOut :=
  let p0 := nodeP0 n
  let p1 := nodeP1 n
  let pair (f : Int → Int → Int) : List Edge :=
    (List.range a.length).map fun i =>
      let x := a.getD i (0, false)
      let y := b.getD i (0, false)
      (f x.1 y.1, x.2 || y.2)
  match nodeType n with
  | 0x01 => plainNode crc (a.map fun e => if src = 9 && e.1 = 2 then (0, true) else (unpackElem src e.1.toNat, e.2))
  | 0x02 => plainNode crc (a.map fun e => (((packElem r p0 p1 e.1 : Nat) : Int), e.2))
  | 0x03 =>
    { plainNode crc (a.map fun e => (ternaryDigit (clamp (-364) 364 e.1) (p0 % 8), e.2)) with
      clamps := (a.filter fun e => e.1 < -364 || 364 < e.1).length }
  | 0x04 =>
    { plainNode crc ((chunk (p1 % 512) a.length a).flatMap (expGroup (p0 % 16) (p0 / 16 % 256) r.flush)) with
      bad := a.any fun e => !e.2 && nonFinite (p0 % 16) e.1 }
  | 0x05 =>
    let m : Int := (p1 % 2 ^ 20 : Nat)
    let l := pair (alignElem (p0 % 16) r.flush)
    { plainNode crc (l.map fun e => (clamp (-m) m e.1, e.2)) with
      clamps := (l.filter fun e => e.1 < -m || m < e.1).length
      bad := a.any fun e => !e.2 && nonFinite (p0 % 16) e.1 }
  | 0x06 => satNode crc (pair (· + ·))
  | 0x07 => satNode crc (pair (· - ·))
  | 0x08 =>
    let s := sext 8 (p0 % 256)
    if 0 ≤ s then satNode crc (a.map fun e => (e.1 * ((2 ^ s.toNat : Nat) : Int), e.2))
    else plainNode crc (a.map fun e => (roundDown e.1 (-s).toNat, e.2))
  | 0x09 =>
    let y := if nodeB n = 0x7F then a.map fun _ => (sext 32 p1, false) else b
    let f (i : Nat) : Edge :=
      let x := a.getD i (0, false)
      let z := y.getD i (0, false)
      (match p0 % 4 with
        | 0 => min x.1 z.1
        | 1 => max x.1 z.1
        | _ => if x.1 = z.1 then 1 else 0, x.2 || z.2)
    plainNode crc ((List.range a.length).map f)
  | 0x0A => satNode crc (a.map fun e => (roundDown (e.1 * sext 16 (p0 % 2 ^ 16)) (p0 / 2 ^ 16 % 64), e.2))
  | 0x0C => { plainNode crc a with crc := crcOf crc a }
  | 0x0D => plainNode crc (transpose (p0 % 64 + 1) (p0 / 64 % 64 + 1) a)
  | 0x0E => plainNode crc (List.replicate count (sext 32 p1, false))
  | _ => plainNode crc a

/-- What a bill makes of a stream: the values of its last node, and the counts its nodes add. -/
def Bill.eval (bill : Bill) (r : Modes) (src : Nat) (input : List Edge) (crc : BitVec 32) : NodeOut :=
  let step (acc : List (List Edge) × NodeOut) (n : BitVec 128) : List (List Edge) × NodeOut :=
    let pick (i : Nat) : List Edge := if i = 0x40 then input else acc.1.getD i []
    let o := evalNode r src n (pick (nodeA n)) (pick (nodeB n)) input.length acc.2.crc
    (acc.1 ++ [o.out], ⟨o.out, acc.2.clamps + o.clamps, acc.2.sats + o.sats, o.crc, acc.2.bad || o.bad⟩)
  (bill.nodes.foldl step ([], plainNode crc input)).2

/-- The number of values in a block of the bill's TRANS nodes, which C must be a multiple of. -/
def Bill.blocks (bill : Bill) : List Nat :=
  bill.nodes.filterMap fun n =>
    if nodeType n = 0x0D then some ((nodeP0 n % 64 + 1) * (nodeP0 n / 64 % 64 + 1)) else none

/-! ### Streams of a task (11 R222 to R229) -/

def State.stream (s : State) (n : Nat) : Stream := get s.streams Stream.start n

/-- The bill of a .mash slot of a task's kernel; none where it declares none. -/
def State.bill (s : State) (t slot : Nat) : Option Bill :=
  (find? s.folios (s.task t).folio).bind fun f => find? (f.bills.getD (s.task t).kernel []) slot

/-- Whether a command is a run of a stream. -/
def Cmd.runs (c : Cmd) (n : Nat) : Bool :=
  match c.op with
  | .run m _ _ _ _ => m = n
  | _ => false

/-- Fabric runs of a stream that earlier bundles issued and that are pending or executing. -/
def State.owedRuns (s : State) (t n : Nat) : List Cmd :=
  ((s.task t).cores.flatMap fun e =>
    let g := e.2.engine 5
    g.pending ++ (g.running.map (·.cmd)).toList).filter (·.runs n)

/-- Fabric runs of a stream that are pending or executing, those that bundles of this dc issue among them. -/
def State.streamRuns (s : State) (t n : Nat) : List Cmd :=
  let new := s.issued.filterMap fun o => match o.eff with
    | .command 5 c => some c
    | _ => none
  s.owedRuns t n ++ new.filter (·.runs n)

def Cmd.seals (c : Cmd) : Bool :=
  match c.op with
  | .run _ _ _ last _ => last
  | _ => false

/-- Whether a release of the stream is on its way. -/
def State.releasing (s : State) (t n : Nat) : Bool :=
  (s.task t).owed.any fun o => match o.eff with
    | .sfrel m _ _ => m = n
    | _ => false

/-- The stream number of an id that SFGO or SFREL may use: a stream on its way to its release is none of theirs
(log 23). -/
def State.streamLive (s : State) (n : Option Nat) : Option Nat :=
  n.bind fun m => if s.releasing s.cur.task m then none else some m

/-- The stream number of an id, if it is bound and of that generation. -/
def State.streamOf (s : State) (v : Word) : Option Nat :=
  let n := bits v 4 4 * 16 + bits v 0 4
  let st := s.stream n
  if st.owner = some s.cur.task && st.bound && st.gen = bits v 8 8 && v.toNat / 2 ^ 16 = 0 then some n else none

/-- What a run may be refused for (11 R224).  The size that R224 bounds is taken in the record's FORMAT (log 131). -/
def State.runBad (s : State) (n index : Nat) (st : Stream) : Bool :=
  let runs := s.streamRuns s.cur.task n
  let e := s.tape s.myTask.ctx (st.handle.toNat % 2 ^ 16)
  let c := recCount st.record
  (!st.scatter && (st.isSealed || runs.any Cmd.seals)) || 524288 * 8 < c * elemBits (recFormat st.record) ||
    (if st.scatter then e.length.toNat < (index + 1) * c else e.capacity.toNat < (index + 1) * c) ||
    match s.bill s.cur.task st.bill with
    | some b => b.blocks.any fun m => c % m ≠ 0
    | none => false

/-- The distinct lines of a run's in-extent cells, and the highest latency class among their pages. -/
def State.runLines (s : State) (ctx : Nat) (r : List Word) (origin : List Int) : List Nat × Nat :=
  let lines := (((recCells r origin).filter (recInside r)).map fun x => (recPlace r x).1 / 64).eraseDups
  (lines, lines.foldl (fun c l => match s.walk ctx (64 * l) with
    | .ok _ leaf _ => max c (leafClass leaf)
    | _ => c) 0)

/-- SFBIND (11 R222): the record is read and checked at issue, the stream is bound at n + 320. -/
def execSfbind (d a : BitVec 5) (y : BitVec 1) (s : State) : Out :=
  let addr := (s.me.reg a.toNat).toNat % 2 ^ 32
  .next (match s.readTimed s.cur.task s.cur.core addr 96 32 5 s.me.pc with
    | .error e => s.fail e
    | .ok (l, s') =>
      let r := (chunk 8 12 l).map fun b => BitVec.ofNat 64 (leNat b)
      if recReserved r then s.trap 0x10 1
      else if recIllegal r then s.trap 0x10 2
      else s'.issue 320 (.sfbind d.toNat r (y = 1) s.gcyc))

/-- SFGO (11 R224): a run on the core's fabric engine; the fabric trap comes before the timing fault (log 131). -/
def execSfgo (a b : BitVec 5) (y : BitVec 1) (s : State) : Out :=
  let start := (s.me.reg b.toNat).toNat
  .next (match s.streamLive (s.streamOf (s.me.reg a.toNat)) with
    | none => s.trap 0x10 6
    | some n =>
      let st := s.stream n
      let index := st.runs + (s.streamRuns s.cur.task n).length
      if s.runBad n index st then s.trap 0x10 6
      else
        match s.timingFail 5 start with
        | some e => s.fail e
        | none =>
          let (lines, cls) := s.runLines s.myTask.ctx st.record (originOf st.record index)
          let depth := ((s.bill s.cur.task st.bill).map (·.depth)).getD 0
          let t := if lines.isEmpty then 0 else classTime cls
          s.issue 0 (.command 5 (s.newCmd start (start + t + 8 * depth + ceilDiv (64 * lines.length) 128)
            (.run n st.bill index (y = 1) (fmtSub s.myFmt)))))

/-- SFSTAT (11 R227): the status as of issue. -/
def execSfstat (d a : BitVec 5) (sel : BitVec 3) (s : State) : Out :=
  .next (match s.streamOf (s.me.reg a.toNat) with
    | none => s.trap 0x10 6
    | some n =>
      let st := s.stream n
      let busy := !(s.owedRuns s.cur.task n).isEmpty
      let v := match sel.toNat with
        | 0 => 1 + st.isSealed.toNat * 2 + busy.toNat * 4 + st.runs % 256 * 256
        | 1 => st.crc.toNat
        | 2 => st.clamps
        | 3 => st.sats
        | 4 => st.poisons
        | 5 => st.lastP
        | _ => ((s.bill s.cur.task st.bill).map (·.depth)).getD 0
      s.writeScalar 1 d (BitVec.ofNat 64 v))

/-- SFREL (11 R228): release at n + 320. -/
def execSfrel (a : BitVec 5) (s : State) : Out :=
  .next (match s.streamLive (s.streamOf (s.me.reg a.toNat)) with
    | none => s.trap 0x10 6
    | some n =>
      if (s.streamRuns s.cur.task n).isEmpty then s.issue 320 (.sfrel n (s.stream n).gen s.gcyc) else s.trap 0x10 6)

/-- Whether a bill, or none, fits a stream's tape and record (11 R222, R229). -/
def State.billFits (s : State) (t : Nat) (st : Stream) (tapeFmt slot : Nat) : Bool :=
  let rf := recFormat st.record
  if slot = 0xFF then tapeFmt = rf
  else match s.bill t slot with
    | none => false
    | some b => if st.scatter then b.packFmt = rf else b.packFmt = tapeFmt && !b.leaf

/-- SFMASH (11 R229): BILL for the runs issued after it. -/
def execSfmash (a b : BitVec 5) (s : State) : Out :=
  .next (match s.streamOf (s.me.reg a.toNat) with
    | none => s.trap 0x10 6
    | some n =>
      let st := s.stream n
      let v := s.me.reg b.toNat
      let slot := v.toNat % 256
      let e := s.tape s.myTask.ctx (st.handle.toNat % 2 ^ 16)
      if (slot < 8 || slot = 0xFF) && s.billFits s.cur.task st e.format.toNat slot then
        s.issue 0 (.sfmash n slot)
      else s.trap 0x10 8)

end Sys2Proof.Machine
end

