-- ==== Sys2Proof/Machine/Timed.lean ====
section
/-!
DEFINITION. Results that perform at a dc of their own: timed writes and walker leaf writes (03 R48, R62, R65; 09 R183), and
results that perform in global time.
-/

namespace Sys2Proof.Machine

/-! ### Scalar results in order of issue (03 R65) -/

/-- A result with a fixed perform dc: discarded when a result issued later has come in global time. -/
def Core.timedScalar (k : Core) (id reg : Nat) (v : Word) : Core :=
  if id < get k.loadSeq 0 reg then k
  else { k.setReg reg v with timedSeq := put k.timedSeq reg (max id (get k.timedSeq 0 reg)) }

/-- A result that completes in global time: its busy bit clears, and it is discarded when a write issued later has
performed. -/
def Core.globalScalar (k : Core) (id reg : Nat) (v : Word) : Core :=
  let k1 := { k with busy := k.busy.filter fun b => b.id ≠ id }
  if id < get k.timedSeq 0 reg || id < get k.loadSeq 0 reg then k1
  else { k1.setReg reg v with loadSeq := put k.loadSeq reg id }

/-- Such a result of a task's core; one issued before the rollback point stands in its shadow too (15 R279). -/
def State.globalResult (s : State) (t c id reg : Nat) (v : Word) : State :=
  s.setTask t fun k =>
    let k1 := k.setCore c (·.globalScalar id reg v)
    if id < k.rollId then { k1 with snap := upd k1.snap Core.start c (·.globalScalar id reg v) } else k1

/-! ### Owed effects -/

/-- An effect that a task owes, if it is due in the current dc. -/
def State.dueOwed (s : State) (t id : Nat) : Option Owed :=
  (s.task t).owed.find? fun o => o.id = id && o.dc ≤ (s.task t).dc

def State.dropOwed (s : State) (t id : Nat) : State :=
  s.setTask t fun k => { k with owed := k.owed.filter fun o => o.id ≠ id }

/-- A table operation or stream bind that was issued before the rollback point performs once: what the shadow owes in its
place (15 R282). -/
def State.settleShadow (s : State) (t id : Nat) (left : Option Eff) : State :=
  s.setTask t fun k =>
    { k with
      snapOwed := k.snapOwed.filterMap fun o => if o.id = id then left.map fun e => { o with eff := e } else some o }

/-- The lines of ranges. -/
def rangeLines (l : List (Nat × Nat)) : List Nat := (l.flatMap fun r => spadLines r.1 r.2).eraseDups

/-- The precise schedule fault 0x3 of a write of scratchpad lines that performs below a read of them recorded at a freeze (03
R61). -/
def Task.captureFail (k : Task) (lines : List Nat) : Option Fail :=
  if k.captured.any fun e => k.dc < e.dc && (rangeLines e.ranges).any lines.contains then
    some { cause := 6, sub := 3, kind := 2 } else none

/-- The same of a write of a tile row of a core. -/
def Task.captureRow (k : Task) (core tile row : Nat) : Option Fail :=
  if k.captured.any fun e => k.dc < e.dc && e.core = core && e.rows.contains (16 * tile + row) then
    some { cause := 6, sub := 3, kind := 2 } else none

/-- Leaves of a slice whose stored extent a range of it overlaps; no byte overlaps none. -/
def Core.leavesIn (k : Core) (off n : Nat) : List Nat :=
  (k.leaf.filter fun e => e.2.valid && n ≠ 0 && off < (e.2.offset.toNat + e.2.cap.toNat) * 64 && e.2.offset.toNat * 64 < off + n).map (·.1)

/-- The entries of the leaves that ranges written through engine write ports overlap change (09 R192). -/
def Task.stampLeaves (k : Task) (ranges : List (Nat × Nat)) : Task :=
  let hit := (ranges.flatMap fun r => ((k.core (spadCore r.1)).leavesIn (spadOff r.1) r.2).map fun n => (spadCore r.1, n)).eraseDups
  hit.foldl (fun k x => k.setCore x.1 fun q =>
    { q with leaf := upd q.leaf LeafEntry.start x.2 fun e =>
      { e with tag := e.tag + 1, lines := 64, len := e.cap, next := 4096 } }) k

/-- Bytes written through engine write ports. -/
def Task.portWrite (k : Task) (l : List (Nat × List Byte)) : Task :=
  (l.foldl (fun k x => k.setSpad x.1 x.2) k).stampLeaves (l.map fun x => (x.1, x.2.length))

/-- A timed write to scratchpad at the current dc: by a requester of its banks, or through the engine write port (09 R176). -/
def State.timedSpad (s : State) (t : Nat) (o : Owed) (a : Nat) (l : List Byte) (kind : Nat) : State :=
  let lines := spadLines a l.length
  match (s.task t).captureFail lines with
  | some f => s.trapAt t o.core o.pc o.slot 0xF f.cause f.sub { f with addr := a }.fill
  | none =>
    if kind = 7 then (s.setTask t (·.portWrite [(a, l)])).touchSpad t o.core [(a, l.length)]
    else match s.claim t o.core kind o.pc lines with
      | .error f => s.trapAt t o.core o.pc o.slot 0xF f.cause f.sub { f with addr := a, kind := 2 }.fill
      | .ok s' => (s'.setTask t (·.setSpad a l)).touchSpad t o.core [(a, l.length)]

/-- A timed write of a tile row at the current dc. -/
def State.timedRow (s : State) (t : Nat) (o : Owed) (tile row : Nat) (f : Row → Row) : State :=
  match (s.task t).captureRow o.core tile row with
  | some e => s.trapAt t o.core o.pc o.slot 0xF e.cause e.sub e.fill
  | none => s.setCore t o.core fun k => k.setTileRow tile row (f (k.tileRow tile row))

/-- What a timed effect writes. -/
def State.performTimed (s : State) (t : Nat) (o : Owed) : State :=
  let seq (f : SeqUnit → SeqUnit) : State := s.setCore t o.core fun k => { k with seq := f k.seq }
  match o.eff with
  | .scalar n v => s.setCore t o.core (·.timedScalar o.id n v)
  | .pred n mask v => s.setCore t o.core (·.setPred n mask v)
  | .tileRow tile row mask v => s.timedRow t o tile row fun old => blend mask old v
  | .mtxRow tile row v => s.timedRow t o tile row fun _ => v
  | .spad a v kind => s.timedSpad t o a v kind
  | .opened h oid v => s.setCore t o.core fun k => if (k.head h).oid = oid then { k with h := put k.h h v } else k
  | .seqRow v => seq fun u => { u with q := v }
  | .seqV i v => seq fun u => { u with v := put u.v i v, bad := u.bad.filter (· ≠ i) }
  | .seqL i v => seq fun u => { u with l := put u.l i v, bad := u.bad.filter (· ≠ 8192 + i) }
  | .seqE i v => seq fun u => { u with e := put u.e i v }
  | _ => s

/-- Whether an owed effect performs as a timed write. -/
def Eff.isTimed : Eff → Bool
  | .scalar .. | .pred .. | .tileRow .. | .mtxRow .. | .spad .. | .opened .. | .seqRow .. | .seqV .. | .seqL .. | .seqE .. => true
  | _ => false

/-- TIMED_WRITE_PERFORM (03 R62): a result performs at its issue plus its latency. -/
def execTimedWritePerform (t id : Nat) (s : State) : Out :=
  .next (match s.dueOwed t id with
    | some o => if o.eff.isTimed then (s.dropOwed t id).performTimed t o else s
    | none => s)

/-! ### Leaves written through a walker (09 R182, R183) -/

/-- The 16-byte header of line modes. -/
def headerOf (modes : List Nat) : List Byte := leBytes 16 (total ((List.range 64).map fun i => modes.getD i 0 * 4 ^ i))

/-- A leaf with rows appended at logical byte `first`: the bytes to store from payload byte `at`, the header, the new LEN
and LINES. -/
structure LeafBuild where
  header : List Byte
  from' : Nat
  payload : List Byte
  len : Nat
  lines : Nat
  deriving DecidableEq, Repr

def buildLeaf (old : List Nat) (first : Nat) (data : List Byte) : LeafBuild :=
  let l0 := first / 64
  let coded := (chunk 64 data.length data).map encodeLine
  let modes := old.take l0 ++ coded.map (·.1)
  let lo := payloadAt modes l0
  let pay := coded.flatMap (·.2)
  let n := ceilDiv (lo + pay.length) 64
  ⟨headerOf modes, lo, pay ++ List.replicate (n * 64 - (lo + pay.length)) 0, n, l0 + coded.length⟩

/-- WALKER_LEAF_WRITE_PERFORM (09 R183): the rows are encoded and appended; a leaf longer than CAP is scratchpad trap 0x7
and stays as it is.  A delivery of the matrix engine changes the entries of the leaves it overlaps as every write of the engine write
port does, its own leaf's among them (09 R192; log 120). -/
def execWalkerLeafWritePerform (t id : Nat) (s : State) : Out :=
  .next (match s.dueOwed t id with
    | none => s
    | some o =>
      match o.eff with
      | .leafWrite slice leaf first data port =>
        let s1 := s.dropOwed t id
        let k := s1.task t
        let e := (k.core slice).leafEntry leaf
        let base := leafBase slice e
        let b := buildLeaf (if first = 0 then [] else lineModes (k.spadBytes base 16)) first data
        let addr := slice * 2 ^ 22 + leaf * 2 ^ 12 + first
        let bad (f : Fail) : State := s1.trapAt t o.core o.pc o.slot 0xF f.cause f.sub { f with addr := addr, kind := 2 }.fill
        let lines := storedLines base b.from' (total ((data.length / 64 |> List.range).map fun i =>
          (encodeLine ((data.drop (64 * i)).take 64)).2.length))
        if e.cap.toNat < b.len then bad { cause := 0x0D, sub := 7 }
        else match k.captureFail lines with
          | some f => bad f
          | none =>
            match if port then .ok s1 else s1.claim t o.core 1 o.pc lines with
            | .error f => bad f
            | .ok s2 =>
              let ranges := [(base, 16), (base + b.from', b.payload.length)]
              (s2.touchSpad t o.core ranges).setTask t fun k =>
                let k' := ((k.setSpad base b.header).setSpad (base + b.from') b.payload).setCore slice fun c =>
                  { c with leaf := put c.leaf leaf { e with len := BitVec.ofNat 7 b.len, lines := BitVec.ofNat 7 b.lines } }
                if port then k'.stampLeaves ranges else k' 
      | _ => s)

end Sys2Proof.Machine
end

