-- ==== Sys2Proof/Machine/Uses.lean ====
section
/-!
DEFINITION. What a slot of a bundle uses: its category, the scalar registers it reads, the destinations, heads, walkers,
accumulator tiles and weight-buffer slots it names (02 R24, R36; 03 R65; 07 R136).
-/

namespace Sys2Proof.Machine

/-- A category of operations with a cap of its own (02 R24). -/
inductive Cat where
  | scalar | row | matrix | transfer
  deriving DecidableEq, Repr

/-- An element of Writes(i) (02 R36). -/
inductive Dest where
  | scalar (n : Nat)
  | pred (n : Nat)
  | base (n : Nat)
  | cursor (n : Nat)
  | row (tile row : Nat)
  deriving DecidableEq, Repr

/-- What a slot names: scalar registers read and written, other registers written, a destination code with its number of
rows, source codes, heads and walkers named by number, accumulator tile and slot, the tile of TALLOC and TREL. -/
structure Uses where
  cat : Option Cat := none
  reads : List Nat := []
  out : Option Nat := none
  sets : List Dest := []
  dest : Option (BitVec 6 × Nat) := none
  srcs : List (BitVec 6) := []
  heads : List Nat := []
  walkers : List Nat := []
  tile : Option Nat := none
  slot : Option Nat := none
  map : Bool := false
  deriving DecidableEq, Repr

/-- The scalar register that a broadcast or an operand code 0x21 reads. -/
def bcastReads (codes : List (BitVec 6)) (x : Ext) : List Nat := if codes.any (· = 0x21) then [extReg x] else []

/-- What each slot instruction names; an event names nothing. -/
def usesOf (i : Instr) : Uses :=
  match i with
  | .nop =>
    {}
  | .add d a b _ _ | .sub d a b _ _ | .addw d a b _ _ | .subw d a b _ _ | .mul d a b _ _ | .mulh d a b _ _
  | .mulhu d a b _ _ | .div d a b _ _ | .divu d a b _ _ | .rem d a b _ _ | .remu d a b _ _ | .and d a b _ _
  | .or d a b _ _ | .xor d a b _ _ | .andn d a b _ _ | .shl d a b _ _ | .shr d a b _ _ | .sra d a b _ _
  | .min d a b _ _ | .max d a b _ _ | .minu d a b _ _ | .maxu d a b _ _ | .sel d a b _ _ =>
    { cat := some .scalar, out := some d.toNat, reads := [a.toNat, b.toNat] }
  | .clz d a _ _ | .popc d a _ _ | .addi d a _ _ | .andi d a _ _ | .ori d a _ _ | .xori d a _ _ | .shli d a _
  | .shri d a _ | .srai d a _ | .muli d a _ _ | .csrw d a _ | .csrs d a _ | .csrc d a _ | .sfbind d a _
  | .sfstat d a _ =>
    { cat := some .scalar, out := some d.toNat, reads := [a.toNat] }
  | .peq d a b _ _ | .pne d a b _ _ | .plt d a b _ _ | .pltu d a b _ _ | .pfrom d a b _ _ =>
    { cat := some .scalar, sets := [.pred d.toNat], reads := [a.toNat, b.toNat] }
  | .pand d _ _ _ _ | .por d _ _ _ _ | .pxor d _ _ _ _ | .pandn d _ _ _ _ | .pmov d _ _ _ =>
    { cat := some .scalar, sets := [.pred d.toNat] }
  | .sfromp d _ _ _ _ | .lim d _ _ | .fmtget d | .csrr d _ | .rdcyc d | .rdgcy d | .rdwhl d | .fencec d _
  | .scfence d _ | .detn d _ | .dgst d | .qsync d | .garg d _ =>
    { cat := some .scalar, out := some d.toNat }
  | .limh d _ _ =>
    { cat := some .scalar, out := some d.toNat, reads := [d.toNat] }
  | .peqi d a _ _ | .plti d a _ _ | .pltui d a _ _ =>
    { cat := some .scalar, sets := [.pred d.toNat], reads := [a.toNat] }
  | .br _ | .brp _ _ | .brnp _ _ | .fmtset _ _ _ _ _ _ | .halt | .trap _ | .twincmpTile _ | .fence _ | .brk _
  | .qgen _ _ | .qgenv _ _ =>
    { cat := some .scalar }
  | .call _ =>
    { cat := some .scalar, out := some 31 }
  | .ret =>
    { cat := some .scalar, reads := [31] }
  | .jr a _ | .waitc a _ | .dgstFold a | .sfrel a | .qdim a _ | .qstr a | .qdir a _ | .qscr a _ | .qscrShift a
  | .klaunch a _ | .gprio a =>
    { cat := some .scalar, reads := [a.toNat] }
  | .loopi a _ _ =>
    { cat := some .scalar, sets := [.pred 8, .pred 9, .pred 10, .pred 11], reads := [a.toNat] }
  | .loop _ =>
    { cat := some .scalar, sets := [.pred 8, .pred 9, .pred 10, .pred 11] }
  | .twincmp a =>
    { cat := some .scalar, reads := [a.toNat, (a.toNat + 16)] }
  | .vmov d a _ x | .vabs d a _ x | .vneg d a _ x | .vrcp d a _ x | .vrsq d a _ x | .vexp2 d a _ x
  | .vlog2 d a _ x | .vrsum d a _ x | .vrmax d a _ x | .vrmin d a _ x | .vpopc d a _ x | .vclz d a _ x
  | .vrint d a _ x | .vcvt d a _ _ _ x | .vaddi d a _ _ x | .vshli d a _ _ x | .vshri d a _ _ x | .vextr d a _ _ x
  | .vinsr d a _ _ x | .vtrit d a _ _ x =>
    { cat := some .row, dest := some (d, 1), srcs := [a], reads := bcastReads [a] x }
  | .vadd d a b _ x | .vsub d a b _ x | .vmul d a b _ x | .vmac d a b _ x | .vadds d a b _ x | .vsubs d a b _ x
  | .vmin d a b _ x | .vmax d a b _ x | .vand d a b _ x | .vor d a b _ x | .vxor d a b _ x | .vshl d a b _ x
  | .vshr d a b _ x | .vsra d a b _ x | .vmullo d a b _ x | .vmulhi d a b _ x | .vpeq d a b _ x | .vpne d a b _ x
  | .vplt d a b _ x | .vple d a b _ x | .vsel d a b _ x | .vperm d a b _ x | .vlsh d a b _ x | .vbcst d a b _ x =>
    { cat := some .row, dest := some (d, 1), srcs := [a, b], reads := bcastReads [a, b] x }
  | .vsplat d _ _ _ | .viota d _ _ _ =>
    { cat := some .row, dest := some (d, 1) }
  | .vsplats d _ _ _ x =>
    { cat := some .row, dest := some (d, 1), reads := [extReg x] }
  | .vcur c _ _ _ =>
    { cat := some .row, sets := [.cursor c.toNat] }
  | .vcurs d x =>
    { cat := some .row, sets := [.cursor (d.toNat % 8)], reads := [extReg x] }
  | .talloc _ _ | .trel _ _ =>
    { cat := some .row, map := true }
  | .tzero k x =>
    { cat := some .row, sets := (List.range 16).map fun r => .row (immU x k) r }
  | .wbfill s w _ x | .mbmap s w x =>
    { cat := some .matrix, srcs := [s], slot := some w.toNat, reads := bcastReads [s] x }
  | .mldw w _ =>
    { cat := some .matrix, slot := some w.toNat }
  | .mma z s w _ _ _ x | .mmaz z s w _ _ _ x =>
    { cat := some .matrix, srcs := [s], tile := some z.toNat, slot := some w.toNat, reads := bcastReads [s] x }
  | .anorm z s x | .awr z s _ _ _ x | .aexpWrite z s _ x =>
    { cat := some .matrix, srcs := [s], tile := some z.toNat, reads := bcastReads [s] x }
  | .ard z d _ _ n =>
    { cat := some .matrix, dest := some (d, 2 ^ n.toNat), tile := some z.toNat }
  | .aexpRead z d _ | .agrd z d _ _ =>
    { cat := some .matrix, dest := some (d, 1), tile := some z.toNat }
  | .azero z =>
    { cat := some .matrix, tile := some z.toNat }
  | .mstat z d w _ =>
    { cat := some .matrix, dest := some (d, 1), tile := some z.toNat, slot := some w.toNat }
  | .mwait _ _ _ =>
    { cat := some .matrix }
  | .hopen h t _ _ _ x | .hnew h t _ x | .hlease h t _ _ x =>
    { cat := some .transfer, heads := [h.toNat], reads := bcastReads [t] x }
  | .hclose h d | .hseal h d | .hwait h d =>
    { cat := some .transfer, heads := [h.toNat], out := some d.toNat }
  | .hrd h o _ =>
    { cat := some .transfer, heads := [h.toNat], dest := some (o, 1) }
  | .hwr h o _ x | .hupd h o _ x =>
    { cat := some .transfer, heads := [h.toNat], srcs := [o], reads := bcastReads [o] x }
  | .hstep h _ _ | .hmark h | .hrwd h _ | .hdrop h | .hrev h =>
    { cat := some .transfer, heads := [h.toNat] }
  | .hskip h x =>
    { cat := some .transfer, heads := [h.toNat], reads := [extReg x] }
  | .hpos _ d | .kstat d _ =>
    { cat := some .transfer, out := some d.toNat }
  | .hfree t x =>
    { cat := some .transfer, reads := bcastReads [t] x }
  | .wset w a b | .wloop w a b _ =>
    { cat := some .transfer, walkers := [w.toNat], reads := [a.toNat, b.toNat] }
  | .wrst w =>
    { cat := some .transfer, walkers := [w.toNat] }
  | .kcopy s d l t _ | .kcopyr s d l t _ | .kgath s d l t _ | .kscat s d l t _ | .kfill s d l t _ =>
    { cat := some .transfer, reads := [s.toNat, d.toNat, l.toNat, t.toNat] }
  | .ktag a b | .kchk a b | .sst a b _ | .ltset a b =>
    { cat := some .transfer, reads := [a.toNat, b.toNat] }
  | .sld a d _ =>
    { cat := some .transfer, out := some d.toNat, reads := [a.toNat] }
  | .ld d b _ _ _ _ _ | .lda d b _ _ _ _ _ | .barriv d b _ _ _ =>
    { cat := some .transfer, out := some d.toNat, reads := [b.toNat] }
  | .st d b _ _ _ _ _ | .stl d b _ _ _ _ _ | .ldv d b _ _ _ | .stv d b _ _ _ | .vamoor d b _ _ _
  | .vamoadd d b _ _ _ | .barinit d b _ _ _ =>
    { cat := some .transfer, reads := [b.toNat, d.toNat] }
  | .amoadd d b _ _ _ _ _ | .amoand d b _ _ _ _ _ | .amoor d b _ _ _ _ _ | .amoxor d b _ _ _ _ _
  | .amomin d b _ _ _ _ _ | .amomax d b _ _ _ _ _ | .amoswp d b _ _ _ _ _ | .barwait d b _ _ _ =>
    { cat := some .transfer, out := some d.toNat, reads := [b.toNat, d.toNat] }
  | .amocas d b _ _ _ _ _ =>
    { cat := some .transfer, out := some d.toNat, reads := [b.toNat, d.toNat, ((d.toNat + 1) % 32)] }
  | .sfgo a b _ | .sfmash a b | .qidx a b _ | .klaunchc a b _ | .gsig a b =>
    { cat := some .scalar, reads := [a.toNat, b.toNat] }
  | .qsave d a b | .qload d a b =>
    { cat := some .scalar, reads := [d.toNat, a.toNat, b.toNat] }
  | _ => {}

/-- What a destination code of `n` rows names at this cycle: a cursor, and of its rows the one it points to now (02 R36). -/
def Core.destWrites (k : Core) (code : BitVec 6) (n : Nat) : List Dest :=
  let c := code.toNat
  if 0x18 ≤ c && c < 0x20 then
    let p := k.cursor (c - 0x18)
    .cursor (c - 0x18) :: (if n = 0 then [] else [.row p.tile.toNat p.row.toNat])
  else if 0x30 ≤ c then [.pred (c - 0x30)]
  else []

/-- Base registers that a slot writes: those that LOOP rotates, and the one that a WSET with LDB loads. -/
def Core.baseWrites (k : Core) (i : Instr) : List Dest :=
  match i with
  | .loop _ => (List.range (lcBrot k.lc + 1)).map .base
  | .wset _ a _ => if bitAt (k.reg a.toNat) 3 then [.base (bits (k.reg a.toNat) 0 3)] else []
  | _ => []

/-- Writes(i) of 02 R36, where s0 and p0 never are. -/
def Core.writes (k : Core) (i : Instr) : List Dest :=
  let u := (usesOf i)
  let all := (u.out.toList.map .scalar) ++ u.sets ++ k.baseWrites i ++
    (u.dest.toList.flatMap fun d => k.destWrites d.1 d.2)
  all.filter fun d => d ≠ .scalar 0 && d ≠ .pred 0

/-- Advances(i) of 02 R36: heads as their number, walkers from 16. -/
def advancesOf (i : Instr) : List Nat :=
  let u := (usesOf i)
  u.heads ++ u.walkers.map (· + 16) ++ ((u.dest.toList.map (·.1) ++ u.srcs).map (·.toNat)).filter (· < 0x18)

/-! ### The checks of a bundle as a whole (02 R23, R36) -/

def Cat.cap : Cat → Nat
  | .scalar | .matrix => 1
  | .row | .transfer => 2

/-- Slots that a cap of 02 R24 refuses. -/
def overCap (slots : List (Nat × Instr)) : List Nat :=
  [Cat.scalar, Cat.row, Cat.matrix, Cat.transfer].flatMap fun c =>
    let l := slots.filter fun e => (usesOf e.2).cat = some c
    if c.cap < l.length then l.map (·.1) else []

/-- Whether two lists share an element. -/
def shares {α : Type} [DecidableEq α] (a b : List α) : Bool := a.any fun x => b.contains x

/-- Slots that 02 R36 refuses. -/
def Core.illegalSlots (k : Core) (slots : List (Nat × Instr)) : List Nat :=
  let dup (l : List Nat) : Bool := l.eraseDups.length < l.length
  let self := slots.filterMap fun e => if dup (advancesOf e.2) then some e.1 else none
  let pairs := slots.flatMap fun e => slots.flatMap fun f =>
    if e.1 < f.1 && (shares (k.writes e.2) (k.writes f.2) || shares (advancesOf e.2) (advancesOf f.2)) then [e.1, f.1] else []
  (overCap slots ++ self ++ pairs).eraseDups

/-- TALLOC and TREL, which may not meet in a bundle (06 R116). -/
def mapSlots (slots : List (Nat × Instr)) : List Nat := (slots.filter fun e => (usesOf e.2).map).map (·.1)

def isFp32Pair : Instr → Bool
  | .vadd .. | .vsub .. | .vmul .. | .vmac .. => true
  | _ => false

/-- Row slots of the FP32 pairing check (06 R122). -/
def pairSlots (slots : List (Nat × Instr)) : List Nat := (slots.filter fun e => isFp32Pair e.2).map (·.1)

/-! ### What a bundle waits for (03 R65, 07 R136, 06 R114) -/

/-- Whether a register is busy for a reader of this dc (03 R359). -/
def Core.isBusy (k : Core) (dc reg : Nat) : Bool := reg ≠ 0 && k.busy.any fun b => b.reg = reg && b.fromDc ≤ dc

/-- Whether a tile is busy at an mc, MMA commands counted or not. -/
def Matrix.tileBusy (m : Matrix) (mc z : Nat) (mma : Bool) : Bool :=
  m.busyTile.any fun b => b.1 = z && mc < b.2.1 && (mma || !b.2.2)

def Matrix.slotBusy (m : Matrix) (mc w : Nat) : Bool := m.busySlot.any fun b => b.1 = w && mc < b.2

/-- Whether MWAIT waits (07 R148).  With selector 2 it waits until the fill port, the decompressor and the array input have taken all that
they were given, a command being served with the others (log 124). -/
def Matrix.waits (m : Matrix) (mc z w sel : Nat) : Bool :=
  match sel with
  | 0 => m.tileBusy mc z true
  | 1 => m.slotBusy mc w
  | _ => m.busyTile.any (mc < ·.2.1) || m.busySlot.any (mc < ·.2) || mc < m.fillFree || mc < m.loadFree || mc < m.inputFree

/-- Whether the scoreboard holds a slot at an mc. -/
def Core.scoreboard (k : Core) (mc : Nat) (i : Instr) : Bool :=
  let m := k.mtx
  let u := (usesOf i)
  let slot := u.slot.toList.any (m.slotBusy mc ·)
  match i with
  | .mwait z w sel => m.waits mc z.toNat w.toNat sel.toNat
  | .trel t x => m.uses.any fun e => e.1 = immU x t && mc < e.2
  | .mma z _ w .. | .mmaz z _ w .. =>
    let width := segWidth (get m.slots WbSlot.start w.toNat).header
    slot || (List.range (width + 1)).any fun j => m.tileBusy mc (z.toNat + j) false
  | _ => slot || u.tile.toList.any (m.tileBusy mc · true)

end Sys2Proof.Machine
end

