-- ==== Sys2Proof/Machine/Tables.lean ====
section
/-!
DEFINITION. Tape tables and windows as the device works on them: table operations, closes, writes behind a head, refills
(08 R154, R155, R158, R160 to R167), and the binding and release of streams (11 R222, R223, R228).
-/

namespace Sys2Proof.Machine

/-! ### Table operations (08 R154, R155) -/

/-- Whether a task has issued an operation on a tape that has not performed: of a head or of a stream (08 R155). -/
def State.tapePending (s : State) (k : Task) (tape : Nat) : Bool :=
  let ofStream (n : Nat) : Bool := (s.stream n).handle.toNat % 2 ^ 16 = tape
  (k.owed.any fun o => match o.eff with
    | .table _ h .. => h.toNat % 2 ^ 16 = tape
    | .sfbind _ r .. => (recTape r).toNat % 2 ^ 16 = tape
    | .sfrel n .. => ofStream n
    | _ => false) ||
  k.cores.any fun c => match find? c.2.engines 5 with
    | some e => (e.pending ++ (e.running.map (·.cmd)).toList).any fun x => match x.op with
      | .run n .. => ofStream n
      | _ => false
    | none => false

/-- Note a table operation of a task on a tape as it performs: it races with every operation of another task whose span
overlaps its own, performed or not, and each of the two counts the event once. -/
def State.tapeRace (s : State) (t core pc tape issue : Nat) : State :=
  let ctx := (s.task t).ctx
  let hit (o : TapeOp) : Bool := o.ctx = ctx && o.tape = tape && o.task ≠ t && issue ≤ o.perform
  let others := s.tapeOps.filter hit
  let raced := !others.isEmpty || s.tasks.any fun e => e.1 ≠ t && e.2.ctx = ctx && s.tapePending e.2 tape
  let mine : TapeOp := ⟨ctx, tape, t, core, pc, issue, s.gcyc, raced⟩
  let s1 := others.foldl (fun (s : State) o =>
    if o.raced || (find? s.tasks o.task).isNone then s else s.recordEvent o.task o.core 0x0D o.pc) s
  let s2 := if raced then s1.recordEvent t core 0x0D pc else s1
  { s2 with tapeOps := (s.tapeOps.map fun o => if hit o then { o with raced := true } else o) ++ [mine] }

/-- Change a tape-table entry for a task; the old words are kept for a rollback if the operation was issued since the
rollback point (15 R282). -/
def State.changeTape (s : State) (t core id i : Nat) (e : TapeEntry) : State :=
  let ctx := (s.task t).ctx
  let old := (s.tape ctx i).words
  let moved : Bool := (s.tape ctx i).state = 0 && e.state ≠ 0
  (s.setTape ctx i e).setTask t fun k =>
    let k1 := if moved then { k with fromEmpty := i :: k.fromEmpty } else k
    if id < k.rollId then k1 else { k1 with undo := (core, .tape ctx i old s.tapeOps.length) :: k1.undo }

/-- Change a stream context, in the same way. -/
def State.changeStream (s : State) (t core id n : Nat) (st : Stream) : State :=
  let old := s.stream n
  ({ s with streams := put s.streams n st }).setTask t fun k =>
    if id < k.rollId then k else { k with undo := (core, .stream n old) :: k.undo }

/-- Whether an append head is open on a tape, or its close has not yet reached the table. -/
def State.appending (s : State) (ctx tape : Nat) : Bool :=
  let on (h : BitVec 32) : Bool := h.toNat % 2 ^ 16 = tape
  s.tasks.any fun e => e.2.ctx = ctx &&
    (e.2.cores.any (fun c => c.2.h.any fun h => h.2.status = .opened && h.2.mode = .append && on h.2.handle) ||
      e.2.owed.any fun o => match o.eff with
        | .table _ h _ (.closeWrite .append _ _) .. => on h
        | _ => false)

/-- A stream that appends to the tape. -/
def State.streamAppends (s : State) (ctx tape : Nat) : Bool :=
  s.streams.any fun e => e.2.bound && !e.2.scatter && e.2.handle.toNat % 2 ^ 16 = tape &&
    (match e.2.owner with
      | some t => (s.task t).ctx = ctx
      | none => false)

/-- What a table operation that opens or frees makes of an entry, or the tape trap's sub-reason; `me` is the physical
core. -/
def tableEffect (e : TapeEntry) (appending : Bool) (me : Nat) (op : TableOp) : Except Nat TapeEntry :=
  let mine := e.lessee.toNat = me
  match op with
  | .new_ _ => if e.state = 0 then .ok { e with state := 1, length := 0 } else .error 2
  | .open_ true _ _ => if e.state ≠ 1 then .error 2 else if appending then .error 3 else .ok e
  | .open_ false _ _ =>
    if e.state = 2 || (e.state = 3 && mine) then
      .ok { e with
        readers := e.readers + 1
        rcore := if e.readers = 0 then BitVec.ofNat 10 me else e.rcore
        rmulti := e.readers ≠ 0 && (e.rmulti || e.rcore.toNat ≠ me) }
    else .error 2
  | .lease _ _ =>
    if e.state ≠ 2 then .error (if e.state = 3 && mine then 3 else 2)
    else if e.readers ≠ 0 && (e.rmulti || e.rcore.toNat ≠ me) then .error 3
    else .ok { e with state := 3, lessee := BitVec.ofNat 10 me, leased := true }
  | .free_ => if e.state ≠ 2 then .error 2 else if e.readers ≠ 0 then .error 3
    else .ok { e with state := 0, length := 0, stale := false }
  | .closeRead => .ok { e with readers := e.readers - 1, rmulti := e.readers ≠ 1 && e.rmulti }
  | .closeWrite .append last pos => .ok { e with length := pos.truncate 40, state := if last then 2 else e.state }
  | .closeWrite _ _ _ => .ok { e with state := 2, leased := false, stale := e.stale || e.mirror }

/-- The position at which a head opens (08 R156). -/
def openPos (e : TapeEntry) (mode : HeadMode) (back : Bool) : Word :=
  match mode with
  | .append => e.length.zeroExtend 64
  | _ => if back then e.length.zeroExtend 64 - 1 else 0

/-- Whether a handle names a tape bound to the task (08 R153, R159). -/
def State.boundTape (s : State) (t : Nat) (handle : BitVec 32) : Bool :=
  handle.toNat < 2 ^ 16 && (s.tape (s.task t).ctx handle.toNat).valid && (s.task t).tapes.contains handle

/-- A table operation of a head performs; whether or not it is refused, it races with those of other tasks on its tape (08 R155). -/
def State.performTable (s : State) (t : Nat) (o : Owed) : State :=
  match o.eff with
  | .table h handle oid op reg issue implicit =>
    let k := s.task t
    let i := handle.toNat % 2 ^ 16
    let e := s.tape k.ctx i
    let hd := (k.core o.core).head h
    let s1 := if handle.toNat < 2 ^ 16 then s.tapeRace t o.core o.pc i issue else s
    let refuse (sub : Nat) : State :=
      let st := s1.setCore t o.core fun c => { c with h := c.h.filter fun x => !(x.1 = h && x.2.oid = oid) }
      st.trapAt t o.core o.pc o.slot 0xF 0x0C sub (headFail 0x0C sub h { hd with handle := handle } hd.pos).fill
    if !implicit && !s.boundTape t handle then refuse 1
    else
      match tableEffect e (s.appending k.ctx i || s.streamAppends k.ctx i) (k.physCore o.core) op with
      | .error sub => refuse sub
      | .ok e' =>
        let s2 := s1.changeTape t o.core o.id i e'
        let opened (mode : HeadMode) (back : Bool) : State :=
          if hd.oid = oid then
            let v := { hd with status := .opened, fmt := e'.format.toNat, pos := openPos e' mode back }
            (s2.settleShadow t o.id (some (.opened h oid v))).setCore t o.core fun c => { c with h := put c.h h v }
          else s2.settleShadow t o.id none
        let result (v : Word) : State :=
          (s2.setCore t o.core (·.globalScalar o.id reg v)).settleShadow t o.id (some (.scalar reg v))
        match op with
        | .new_ _ => opened .append false
        | .open_ app back _ => opened (if app then .append else .read) back
        | .lease back _ => opened .update back
        | .closeWrite .append true _ => result (e'.length.zeroExtend 64)
        | .closeRead | .closeWrite _ _ _ => result 0
        | .free_ => s2.settleShadow t o.id none
  | _ => s

/-- Whether a table operation waits for writes to reach memory (08 R160). -/
def Eff.isCloseWrite : Eff → Bool
  | .table _ _ _ (.closeWrite _ _ _) .. => true
  | _ => false

def Eff.isTable : Eff → Bool
  | .table .. => true
  | _ => false

/-- Whether every write through an opening that was issued before `before` has reached memory. -/
def State.headSettled (s : State) (t core oid before : Nat) : Bool :=
  let k := s.task t
  !((k.core core).behind.any fun b => b.oid = oid && b.id < before) && !(k.owed.any fun o =>
    match o.eff with
    | .headWrite w .. => o.core = core && w = oid && o.id < before
    | _ => false)

/-- Closes of heads, whose table write is a release (08 R155). -/
def Eff.isClose : Eff → Bool
  | .table _ _ _ .closeRead .. | .table _ _ _ (.closeWrite _ _ _) .. => true
  | _ => false

/-- Whether every queued access of a core that was issued before `before` has performed (13 R252). -/
def State.released (s : State) (t core before : Nat) : Bool :=
  s.queue.all fun a => !(a.task = t && a.core = core && a.id < before) || a.kind.isFence

/-- The opening whose close a table operation is. -/
def Eff.tableOid : Eff → Nat
  | .table _ _ oid .. => oid
  | _ => 0

/-- Whether a close may write the table: every write through its head has reached memory, and, as it is a release, every queued
access before it has performed (08 R155, R160, log 102). -/
def State.closeReady (s : State) (t : Nat) (o : Owed) : Bool :=
  s.headSettled t o.core o.eff.tableOid o.id && s.released t o.core o.id

/-- TABLE_OPERATION_PERFORM (08 R155): at n + 320. -/
def execTableOperationPerform (t id : Nat) (s : State) : Out :=
  .next (match s.dueOwed t id with
    | some o =>
      if o.eff.isTable && !o.eff.isCloseWrite && (!o.eff.isClose || s.closeReady t o) then (s.dropOwed t id).performTable t o else s
    | none => s)

/-- HEAD_CLOSE_TABLE_WRITE (08 R160): at n + 320, or once the head's last write has reached memory. -/
def execHeadCloseTableWrite (t id : Nat) (s : State) : Out :=
  .next (match s.dueOwed t id with
    | some o => if o.eff.isCloseWrite && s.closeReady t o then (s.dropOwed t id).performTable t o else s
    | none => s)

/-- HWAIT_COMPLETE (08 R160). -/
def execHwaitComplete (t id : Nat) (s : State) : Out :=
  .next (match s.dueOwed t id with
    | some o =>
      match o.eff with
      | .hwait oid reg =>
        if s.headSettled t o.core oid o.id then
          ((s.dropOwed t id).setCore t o.core (·.globalScalar o.id reg 0)).settleShadow t id (some (.scalar reg 0))
        else s
      | _ => s
    | none => s)

/-! ### Writes through heads (08 R158, R166) -/

/-- Lines, from BASE, that elements touch. -/
def elemLines (f : Nat) (l : List Nat) : List Nat := (l.map fun e => (elemBytes f e).1 / 64).eraseDups

/-- Bytes of a held line set from an offset, which clears what the line had lost there. -/
def WinLine.patch (l : WinLine) (off : Nat) (b : List Byte) : WinLine :=
  ⟨l.bytes.take off ++ b ++ l.bytes.drop (off + b.length), l.lost &&& ~~~BitVec.ofNat 64 ((2 ^ b.length - 1) * 2 ^ off)⟩

/-- `n` bytes at an offset from BASE changed in every window of a core that holds their line, or has it on its way from the mirror: byte
`i` becomes `f i` of what the window holds there (08 R166, R167). -/
def Core.patchWindows (c : Core) (handle : BitVec 32) (off n : Nat) (f : Nat → Byte → Byte) : Core :=
  let patch (l : WinLine) : WinLine := l.patch (off % 64) ((List.range n).map fun i => f i (l.bytes.getD (off % 64 + i) 0))
  { c with h := mapVals c.h fun _ h =>
      if h.handle = handle then
        { h with
          win := mapVals h.win fun i l => if i = off / 64 then patch l else l
          coming := mapVals h.coming fun i l => if i = off / 64 then (l.1, patch l.2) else l }
      else h }

/-- One element written through head `h`: it stands in every window of the core that holds its line, and goes to memory later.  Of a
byte of trits only its own changes, in each window; what goes to memory has the trits beside it as the head holds them, poison where
they are lost (08 R158). -/
def State.setWindowElem (s : State) (t core h : Nat) (handle : BitVec 32) (base f e : Nat) (v : Lane) : State :=
  let (lo, hi) := elemBytes f e
  let n := hi - lo + 1
  let new (i : Nat) (old : Byte) : Byte :=
    if f = 9 then
      let k := 4 ^ (e % 4)
      BitVec.ofNat 8 (old.toNat - old.toNat / k % 4 * k + v.toNat % 4 * k)
    else (leBytes n v.toNat).getD i 0
  let under (a : Nat) : Byte :=
    match find? (s.core t core).winMem (base + a) with
    | some b => b
    | none =>
      let (b, lost) := s.windowByte t core h base a
      if f = 9 && lost then 0xAA else b
  s.setCore t core fun c =>
    { c.patchWindows handle lo n new with
      winMem := (List.range n).foldl (fun w i => put w (base + lo + i) (new i (under (lo + i)))) c.winMem }

/-- Note that write `id` of an opening leaves a line to be written to memory, at a time the spec leaves open (log 2); the line stands for
the earliest of its writes by issue. -/
def State.lineBehind (s : State) (t core oid id line base : Nat) (goes : List Nat) : State :=
  if (s.core t core).behind.any fun b => b.oid = oid && b.line = line then
    s.setCore t core fun c => { c with behind := c.behind.map fun b =>
      if b.oid = oid && b.line = line then { b with id := min b.id id, goes := (b.goes ++ goes).eraseDups } else b }
  else
    let (n, s1) := s.free
    s1.setCore t core fun c => { c with behind := c.behind ++ [⟨oid, id, line, base, goes, s.gcyc + n⟩] }

/-- An append head's write that takes the first element of a line finds zeros in the rest of it: the line is new to the tape. -/
def State.freshLine (s : State) (t core h oid line base f : Nat) (elems : List Nat) : State :=
  if elems.any (fun e => e * elemBits f = 512 * line) then
    s.setCore t core fun c =>
      let hd := c.head h
      { c with
        winMem := (List.range 64).foldl (fun w i => put w (base + 64 * line + i) 0) c.winMem
        h := if hd.oid = oid then put c.h h { hd with win := put hd.win line ⟨List.replicate 64 0, 0⟩ } else c.h }
  else s

/-- HEAD_WRITE_PERFORM (08 R158, R166): the elements take their values in the core's windows, and their lines are owed to
memory. -/
def execHeadWritePerform (t id : Nat) (s : State) : Out :=
  .next (match s.dueOwed t id with
    | some o =>
      match o.eff with
      | .headWrite oid handle f elems update h _ =>
        let s1 := s.dropOwed t id
        let e := s1.tape (s1.task t).ctx (handle.toNat % 2 ^ 16)
        let base := e.base.toNat
        let lines := elemLines f (elems.map (·.1))
        let s2 := if update then s1
          else lines.foldl (fun (s : State) l => s.freshLine t o.core h oid l base f (elems.map (·.1))) s1
        let s3 := elems.foldl (fun (s : State) x => s.setWindowElem t o.core h handle base f x.1 x.2) s2
        let copies := base :: if e.mirror && !update then [e.mbase.toNat] else []
        lines.foldl (fun (s : State) l => s.lineBehind t o.core oid id l base (copies.map (· + 64 * l))) s3
      | _ => s
    | none => s)

/-- Bytes of one line of memory written, each at its offset, with one digest term for the line; bytes at all 64 offsets are a
whole-line write (08 R168). -/
def State.writeScattered (s : State) (t c va pa : Nat) (l : List (Nat × Byte)) : State :=
  let before := Memory.bytes s.mem pa 64
  let s0 := l.foldl (fun (s : State) e => s.writePhys (pa + e.1) [e.2]) s
  let s1 := if (List.range 64).all fun i => l.any (·.1 = i) then { s0 with info := s0.info.covered (pa / 64) 0 64 } else s0
  let s' := s1.touch (pa / 64) (some (t, c))
  let after := Memory.bytes s'.mem pa 64
  if before = after then s'
  else s'.setCore t c (·.addDigest (BitVec.ofNat 64 (hashLine va after) - BitVec.ofNat 64 (hashLine va before)))

/-- Write what a core's windows hold of a line to one copy of the tape, old bytes kept for a rollback (08 R171, 10 R206). -/
def State.flushTo (s : State) (t core from' goes : Nat) : State :=
  match s.physOf (s.task t).ctx goes with
  | none => s
  | some pa =>
    let l := (List.range 64).filterMap fun i => (find? (s.core t core).winMem (from' + i)).map fun b => (i, b)
    let olds := l.map fun e => (core, Undo.byte (goes + e.1) (Memory.byte s.mem (pa + e.1)) (s.lostByte (pa + e.1)))
    ((s.writeScattered t core goes pa l).stampLine (pa / 64)).setTask t fun k => { k with undo := olds ++ k.undo }

/-- A line behind a head reaches one of the places it goes to: the tape, or the tape's mirror (08 R158, R171). -/
def State.flushPlace (s : State) (t core : Nat) (b : Behind) (goes : Nat) : State :=
  let done (x : Behind) : Behind :=
    if x.oid = b.oid && x.line = b.line then { x with goes := x.goes.filter (· ≠ goes) } else x
  (s.flushTo t core (b.base + 64 * b.line) goes).setCore t core fun c => { c with
    behind := (c.behind.map done).filter fun x => !x.goes.isEmpty }

/-- A line behind a head reaches every place it has yet to go to. -/
def State.flushLine (s : State) (t core : Nat) (b : Behind) : State :=
  b.goes.foldl (fun (s : State) g => s.flushPlace t core b g) s

/-- Lines of a core that go to memory now: the time of their open slot has come. -/
def State.flushable (s : State) (t core : Nat) : List Behind := (s.core t core).behind.filter (·.due ≤ s.gcyc)

/-! ### Windows: held lines, marks, refills (08 R162 to R164, R167) -/

/-- The line of an element, for a signed position. -/
def lineOf (f : Nat) (p : Int) : Int := p * (elemBits f : Int) / 512

/-- The window's range of a head. -/
def Head.range (h : Head) : Int × Int :=
  let l := lineOf h.fmt h.at
  if h.back then (l - 95, l + 32) else (l - 32, l + 95)

def Head.inRange (h : Head) (line : Nat) : Bool := (h.range).1 ≤ line && (line : Int) ≤ (h.range).2

/-- Held lines of a head's pinned span, the farthest from the bottom mark first, at most 1,024. -/
def Head.span (h : Head) : List Nat :=
  match h.marks with
  | [] => []
  | m :: _ =>
    let b := lineOf h.fmt m.toInt
    let dist (l : Nat) : Int := if h.markBack then b - l else (l : Int) - b
    ((sortBy (fun l => 2 ^ 70 - (dist l).toNat) (h.held.filter fun l => 0 ≤ dist l))).take 1024

/-- Pinned lines of a head that its window does not cover, the farthest from the bottom mark first. -/
def Head.outside (h : Head) : List Nat := h.span.filter fun l => !h.inRange l

/-- Whether lines of a head may be released: its position has changed, or its mark stack has emptied (08 R162, R164). -/
def Head.moved (h : Head) : Bool := h.pos != h.settled || (h.marks.isEmpty && h.pool != 0)

/-- Pool lines that a head needs; one that has not moved keeps what it has (08 R164). -/
def Head.need (h : Head) : Nat := if h.moved then h.outside.length else h.pool

/-- A head after lines that neither its range nor its span keeps are released; `pool` lines hold the span outside the range.  A head
that has not moved releases nothing but what the pool takes from it. -/
def Head.settle (h : Head) (pool : Nat) : Head :=
  if !h.moved && h.pool ≤ pool then h
  else
    let out := h.outside.take pool
    { h with win := h.win.filter fun l => h.inRange l.1 || out.contains l.1, settled := h.pos, pool := pool }

/-- Every head of a core settled at the end of cycle `g`.  A head keeps the pool lines that it has and needs; what is left goes to
heads in the order of their number; where a newly opened head has made the pool smaller, lower-numbered heads keep theirs (08 R164,
log 99). -/
def Core.settleHeads (k : Core) (g : Nat) : Core :=
  let heads := k.h.map fun e => (e.1, if e.2.status = .opened then e.2.arrive g else e.2)
  let keeps (h : Head) : Nat := min h.pool h.need
  let (hs, _, _) := heads.foldl (fun (acc : SMap Head × Nat × Nat) e =>
    let (done, left, later) := acc
    let rest := later - keeps e.2
    let give := min e.2.need (max (left - rest) (min (keeps e.2) left))
    (done ++ [(e.1, if e.2.status = .opened then e.2.settle give else e.2)], left - give, rest))
    ([], 2048 - 128 * (heads.filter (·.2.status = .opened)).length, total (heads.map fun e => keeps e.2))
  { k with h := hs }

/-- Lines that a use of a head touches, for some deliveries or writes (08 R163): an append head only needs its home line
when it was reopened inside one (08 R158). -/
def Head.touches (h : Head) (len rows : Nat) : List Nat :=
  let p := h.at
  let n : Int := (h.grain * rows : Nat)
  if h.status ≠ .opened then []
  else if h.mode = .append then
    let home := lineOf h.fmt p
    if h.pos = BitVec.ofNat 64 len && (p * (elemBits h.fmt : Int)) % 512 ≠ 0 then [home.toNat] else []
  else
    let lo := max 0 (if h.back then p - n + 1 else p)
    let hi := min ((len : Int) - 1) (if h.back then p else p + n - 1)
    if hi < lo then [] else
      let a := (lineOf h.fmt lo).toNat
      (List.range ((lineOf h.fmt hi).toNat + 1 - a)).map (a + ·)

/-- Heads that a slot delivers from or writes through at its issue, with the rows (08 R163). -/
def headUses (i : Instr) : List (Nat × Nat) :=
  let u := usesOf i
  let codes : List (Nat × Nat) := match i with
    | .wbfill .. | .mma .. | .mmaz .. | .awr .. => []
    | _ => u.srcs.map fun c => (c.toNat, 1)
  let named : List (Nat × Nat) := match i with
    | .hrd h .. | .hwr h .. | .hupd h .. => [(h.toNat, 1)]
    | _ => []
  named ++ (codes ++ u.dest.toList.map fun d => (d.1.toNat, d.2)).filter fun e => e.1 < 0x10

/-- Lines of a core that uses of its heads need and do not find held, as (core, head, line). -/
def State.missing (s : State) (t core : Nat) (uses : List (Nat × Nat)) : List (Nat × Nat × Nat) :=
  (uses.flatMap fun u =>
    let h := ((s.core t core).head u.1).arrive s.gcyc
    ((h.touches (h.entry s t).length.toNat u.2).filter fun l => !h.held.contains l).map fun l => (core, u.1, l)).eraseDups

/-- A line as a window takes it: what stands beneath the core's windows; trits that are lost read as poison (08 R157, R167). -/
def State.lineBeneath (s : State) (t core va fmt : Nat) : WinLine :=
  let l := (List.range 64).map fun i => s.beneath t core (va + i)
  if fmt = 9 then ⟨l.map fun b => if b.2 then 0xAA else b.1, 0⟩
  else ⟨l.map (·.1), BitVec.ofNat 64 (total ((List.range 64).map fun i => if (l.getD i (0, false)).2 then 2 ^ i else 0))⟩

/-- A line as a window takes it from a mirror that can be read. -/
def State.mirrorLine (s : State) (pa fmt : Nat) : WinLine :=
  let mask := get s.info.poison 0 (pa / 64)
  let l := Memory.bytes s.mem pa 64
  if fmt = 9 then ⟨((List.range 64).zip l).map fun e => if bitAt mask e.1 then 0xAA else e.2, 0⟩ else ⟨l, mask⟩

/-- A line enters a head's window: from its mirror if it cannot be read and a current mirror holds it, and otherwise with
its elements poisoned (08 R167).  `window`: a FILL window asks, so that the mirror's line is held after a time that the spec
leaves open, at least an access of R203 (log 2). -/
def State.fetchLine (s : State) (t core h line : Nat) (window : Bool) : State :=
  let hd := (s.core t core).head h
  let e := hd.entry s t
  let ctx := (s.task t).ctx
  let va := e.base.toNat + 64 * line
  let kept := (s.core t core).behind.any fun b => b.line = line && b.base = e.base.toNat
  let hold (s : State) (l : WinLine) : State := s.setCore t core fun c =>
    { c with h := put c.h h { c.head h with
        win := if (c.head h).held.contains line then (c.head h).win else put (c.head h).win line l
        coming := erase (c.head h).coming line } }
  let later (s : State) (m : Nat) (l : WinLine) : State :=
    let (n, s') := s.free
    s'.setCore t core fun c => { c with h := put c.h h { c.head h with
        coming := put (c.head h).coming line (s.gcyc + (if (s.channel m).getD 0 < 512 then 38 else 43) + n, l) } }
  let s1 := if kept then s else s.setCore t core fun c => { c with winMem := c.winMem.filter fun b => b.1 / 64 ≠ va / 64 }
  let lost (s : State) (pa : Nat) : State :=
    if e.format = 9 then s.writePhys pa (List.replicate 64 0xAA) else s.markPoison pa (BitVec.allOnes 64)
  let direct (s : State) : State := hold s (s.lineBeneath t core va e.format.toNat)
  match find? hd.coming line with
  | some x => hold s x.2
  | none =>
    match s1.physOf ctx va with
    | none => direct s1
    | some pa =>
      if !s1.lineFails pa then direct (s1.stampLine (pa / 64))
      else
        let mirror := if e.state = 2 && e.mirror && !e.stale then s1.physOf ctx (e.mbase.toNat + 64 * line) else none
        match mirror with
        | some m =>
          if s1.lineFails m then direct (lost ((s1.spend [m / 64]).activate [pa / 64, m / 64]) pa)
          else
            let l := s1.mirrorLine m e.format.toNat
            let s2 := ((s1.spend [pa / 64]).activate [pa / 64, m / 64]).recordEvent t core 0x0E (s1.core t core).pc
            if window then later s2 m l else hold s2 l
        | none => direct (lost (s1.stampLine (pa / 64)) pa)

/-- HEAD_REFILL_FETCH (08 R163): the lines that a bundle waits for are held. -/
def execHeadRefillFetch (t : Nat) (s : State) : Out :=
  .next (match (s.task t).refill with
    | some (due, lines) =>
      if s.gcyc < due then s
      else (lines.foldl (fun (s : State) e => s.fetchLine t e.1 e.2.1 e.2.2 false) s).setTask t fun k => { k with refill := none }
    | none => s)

/-! ### Streams (11 R215, R222, R223, R228) -/

/-- The granule rule, for each byte of a record's tensor, and the page rules: the instance of its pages, or none (11 R215, R222).  A
scatter to an executable page is bound; its runs take the permission fault (02 R33). -/
def State.recordInstance (s : State) (t : Nat) (r : List Word) (scatter : Bool) : Option Nat :=
  let k := s.task t
  let cells := (List.range (recExtent r 0 * recExtent r 1 * recExtent r 2 * recExtent r 3)).map fun (n : Nat) =>
    let e := recExtent r
    [((n % e 0 : Nat) : Int), ((n / e 0 % e 1 : Nat) : Int), ((n / (e 0 * e 1) % e 2 : Nat) : Int),
      ((n / (e 0 * e 1 * e 2) : Nat) : Int)]
  let g := 64 * 2 ^ recGranule r
  let c := recSpread r
  let granule (a : Nat) : Nat := (((a : Int) - (recBase r : Nat)) / (g : Nat) % ((2 ^ c : Nat) : Int)).toNat
  let spots := (cells.map fun x => let a := (recPlace r x).1; (a / 4096 * 4096, granule a)).eraseDups
  let relative (ch : Nat) : Option Nat := k.channels.idxOf? ch
  let baseCh := (s.physOf k.ctx (recBase r)).bind s.channel
  let page (p : Nat × Nat) : Option Nat :=
    let va := p.1
    match s.walk k.ctx va with
    | .ok pa leaf size =>
      match s.channel pa with
      | none => none
      | some ch =>
        let placed : Bool := if c = 0 then some ch == baseCh
          else size ≤ g && g % size = 0 && match relative ch, baseCh.bind relative with
            | some a, some f => a == f + p.2
            | _, _ => false
        if s.pinned k.ctx va && 1 ≤ leafClass leaf && leafHome leaf ≤ 1 && placed &&
            (!scatter || (leafCalc leaf && !leafBarrier leaf)) then some (stackOf ch)
        else none
    | _ => none
  match spots.mapM page with
  | some (i :: rest) =>
    if rest.all (· == i) && s.streams.any (fun e => e.1 / 16 == i && e.2.owner == some t) then some i else none
  | _ => none

/-- SFBIND_PERFORM (11 R222): the checks at n + 320, the tape's operation and the stream id; a refused one races too (08 R155). -/
def execSfbindPerform (t id : Nat) (s : State) : Out :=
  .next (match s.dueOwed t id with
    | none => s
    | some o =>
      match o.eff with
      | .sfbind reg r scatter issue =>
        let handle := recTape r
        let i := handle.toNat % 2 ^ 16
        let s0 := s.dropOwed t id
        let s1 := if handle.toNat < 2 ^ 16 then s0.tapeRace t o.core o.pc i issue else s0
        let k := s1.task t
        let bad (sub : Nat) : State := s1.trapAt t o.core o.pc o.slot 0xF 0x10 sub
        let e := s1.tape k.ctx i
        let slot := recBill r
        let bill := s1.bill t slot
        let fmtOk : Bool := match scatter, bill with
          | false, some b => e.format.toNat == b.packFmt
          | true, some _ => true
          | _, none => slot ≠ 0xFF || e.format.toNat == recFormat r
        let billOk : Bool := match bill with
          | none => slot = 0xFF
          | some b => if scatter then b.packFmt = recFormat r else !b.leaf
        match s1.recordInstance t r scatter with
        | none => bad 3
        | some inst =>
          if !s1.boundTape t handle || !fmtOk || e.state ≠ (if scatter then 2 else 0) then bad 4
          else if !billOk then bad 8
          else match s1.streams.find? fun x => x.1 / 16 = inst && x.2.owner = some t && !x.2.bound with
            | none => bad 5
            | some (n, old) =>
              let gen := (old.gen + 1) % 256
              let st : Stream := { old with
                core := o.core, bound := true, gen := gen, scatter := scatter, record := r, origin := originOf r 0
                bill := slot, handle := handle, isSealed := false, runs := 0, total := 0, crc := 0, clamps := 0, sats := 0
                poisons := 0, lastP := 0 }
              let e' := if scatter then
                  match tableEffect e false (k.physCore o.core) (.open_ false false 0) with
                  | .ok e' => e'
                  | .error _ => e
                else { e with state := 1, length := 0 }
              let v : Word := BitVec.ofNat 64 (gen * 256 + n)
              (((s1.changeTape t o.core id i e').changeStream t o.core id n st).setCore t
                o.core (·.timedScalar o.id reg v)).settleShadow t id (some (.scalar reg v))
      | _ => s)

/-- Release a stream for the operation `id` of a core: its tape's operation, and its context unbound (11 R223). -/
def State.releaseStream (s : State) (t core id n : Nat) : State :=
  let st := s.stream n
  let ctx := (s.task t).ctx
  let i := st.handle.toNat % 2 ^ 16
  let e := s.tape ctx i
  let e' := if st.scatter then { e with readers := e.readers - 1, rmulti := e.readers ≠ 1 && e.rmulti }
    else if e.state = 1 then { e with state := 2 } else e
  (s.changeTape t core id i e').changeStream t core id n { st with bound := false }

/-- SFREL_PERFORM (11 R223, R228). -/
def execSfrelPerform (t id : Nat) (s : State) : Out :=
  .next (match s.dueOwed t id with
    | some o =>
      match o.eff with
      | .sfrel n gen issue =>
        let s1 := (s.dropOwed t id).settleShadow t id none
        let st := s1.stream n
        if st.bound && st.gen = gen && st.owner = some t then
          (s1.tapeRace t o.core o.pc (st.handle.toNat % 2 ^ 16) issue).releaseStream t o.core id n
        else s1
      | _ => s
    | none => s)

/-- The run of a task's timeline on a physical channel, with its relative number. -/
def Task.timeline (k : Task) (ch : Nat) : Option (Nat × TimelineRun) := k.timelines.find? fun e => e.2.phys = ch

end Sys2Proof.Machine
end

