-- ==== Sys2Proof/Machine/Engines.lean ====
section
/-!
DEFINITION. Copy, fabric and sequence engines at work: starts, source reads, performs, suspension and replay (09 R187 to
R195; 11 R224, R225; 12 R237; 10 R204).
-/

namespace Sys2Proof.Machine

def State.setEngine (s : State) (t c e : Nat) (f : Engine → Engine) : State :=
  s.setCore t c fun k => { k with engines := upd k.engines Engine.start e f }

/-- A trap of an engine's command (17 R306). -/
def State.cmdTrap (s : State) (t c e : Nat) (cmd : Cmd) (f : Fail) : State :=
  s.trapAt t c cmd.pc cmd.slot e f.cause f.sub { f with kind := if f.kind = 0 then 0 else if f.kind = 2 then 5 else 4 }.fill

/-! ### Source reads (09 R187, R191) -/

/-- Pieces of records that bytes `j` to `j + n - 1` of a row of records of `r` bytes touch: record, offset, length. -/
def recordPieces (r j n : Nat) : List (Nat × Nat × Nat) :=
  (List.range ((j + n + r - 1) / r - j / r)).map fun q =>
    let i := j / r + q
    let lo := max j (i * r)
    let hi := min (j + n) (i * r + r)
    (i, lo - i * r, hi - lo)

/-- Bytes of the index list of a command, read at a chunk. -/
def CmdOp.listChunk (op : CmdOp) (m : Nat) : Option (Nat × Nat) :=
  match op with
  | .gather _ _ list k _ | .scatter _ _ list k _ =>
    if 512 * m < 4 * k then some (list + 512 * m, min 512 (4 * k - 512 * m)) else none
  | _ => none

/-- Scratchpad ranges of the source that a command reads at a chunk, the indices read so far given. -/
def CmdOp.sourceChunk (op : CmdOp) (m : Nat) (indices : List Byte) : List (Nat × Nat) :=
  let range (a len : Nat) : List (Nat × Nat) :=
    if inWindow a && 512 * m < len then [(a % 2 ^ 32 + 512 * m, min 512 (len - 512 * m))] else []
  match op with
  | .copy a _ n | .reduce a _ n _ => range a n
  | .gather a _ _ k z =>
    if inWindow a && 512 * m < k * 2 ^ z then
      (recordPieces (2 ^ z) (512 * m) (min 512 (k * 2 ^ z - 512 * m))).map fun p =>
        ((a + indexAt indices p.1 + p.2.1) % 2 ^ 32, p.2.2)
    else []
  | .scatter a _ _ k z => range a (k * 2 ^ z)
  | .qload a _ c => if 512 * m < 320 * c then [(a + 512 * m, min 512 (320 * c - 512 * m))] else []
  | _ => []

/-- Whether a command gathers records from main memory, whose places it learns as it reads its list (09 R191). -/
def CmdOp.gathers (op : CmdOp) : Bool :=
  match op with
  | .gather a .. => !inWindow a
  | _ => false

/-- Main-memory ranges that a command reads as they stand at S, the index words given. -/
def CmdOp.memorySource (op : CmdOp) (indices : List Byte) : List (Nat × Nat) :=
  match op with
  | .copy a _ n | .reduce a _ n _ => if inWindow a then [] else [(a, n)]
  | .gather a _ _ k z =>
    if inWindow a then [] else (List.range (min k (indices.length / 4))).map fun i => (a + indexAt indices i, 2 ^ z)
  | _ => []

/-- Main-memory ranges that a command writes. -/
def CmdOp.memoryDest (op : CmdOp) (indices : List Byte) : List (Nat × Nat) :=
  match op with
  | .copy _ d n | .fill d n _ => if inWindow d then [] else [(d, n)]
  | .gather _ d _ k z => if inWindow d then [] else [(d, k * 2 ^ z)]
  | .scatter _ d _ k z => if inWindow d then [] else (List.range k).map fun i => (d + indexAt indices i, 2 ^ z)
  | _ => []

/-- Bytes that a copy or a sequence command moves (09 R187, 12 R237). -/
def CmdOp.length (op : CmdOp) : Nat :=
  match op with
  | .copy _ _ n | .reduce _ _ n _ | .fill _ n _ => n
  | .gather _ _ _ k z | .scatter _ _ _ k z => k * 2 ^ z
  | .qload _ _ c | .qsave _ _ c => 320 * c
  | .run .. => 0

/-- Bytes `off` to `off + n - 1` of what ranges hold one after another, as ranges. -/
def cutRanges : List (Nat × Nat) → Nat → Nat → List (Nat × Nat)
  | [], _, _ => []
  | (a, k) :: rest, off, n =>
    if n = 0 then []
    else if k ≤ off then cutRanges rest (off - k) n
    else (a + off, min n (k - off)) :: cutRanges rest 0 (n - min n (k - off))

/-- Lines, by virtual number, of main-memory ranges. -/
def memoryLines (l : List (Nat × Nat)) : List Nat := (l.flatMap fun r => spadLines r.1 r.2).eraseDups

/-- The physical line that loses piece `m` of a copy, the 512 bytes that it moves at S + m: a byte of a main-memory source that is
lost, or a line of a main-memory destination that the copy writes only in part and that cannot be read (09 R195, log 100). -/
def State.pieceFail (s : State) (t : Nat) (r : Running) (m : Nat) : Option Nat :=
  let k := s.task t
  let idx := k.indicesOf r.cmd.op r.indices
  let src := cutRanges (r.cmd.op.memorySource idx) (512 * m) 512
  let dst := r.cmd.op.memoryDest idx
  let place (va : Nat) : Option Nat := s.physOf k.ctx va
  let whole (ln : Nat) : Bool := (List.range 64).all fun i => dst.any fun d => d.1 ≤ 64 * ln + i && 64 * ln + i < d.1 + d.2
  let lost := src.findSome? fun x => (List.range x.2).findSome? fun i =>
    (place (x.1 + i)).bind fun pa => if s.lostByte pa then some (pa / 64) else none
  lost.or ((memoryLines (cutRanges dst (512 * m) 512)).findSome? fun ln =>
    (place (64 * ln)).bind fun pa => if s.lineFails pa && !whole ln then some (pa / 64) else none)

/-- Physical lines of main memory that piece `m` of a copy reads. -/
def State.pieceLines (s : State) (t : Nat) (r : Running) (m : Nat) : List Nat :=
  let k := s.task t
  let idx := k.indicesOf r.cmd.op r.indices
  (memoryLines (cutRanges (r.cmd.op.memorySource idx) (512 * m) 512 ++ cutRanges (r.cmd.op.memoryDest idx) (512 * m) 512)).filterMap
    fun ln => (s.physOf k.ctx (64 * ln)).map (· / 64)

/-- Whether a channel is one of a task's own. -/
def State.ownLine (s : State) (t line : Nat) : Bool :=
  match s.channel (64 * line) with
  | some ch => (s.task t).channels.contains ch
  | none => false

/-- Physical lines of ranges of virtual addresses of a task. -/
def State.physLines (s : State) (t : Nat) (ranges : List (Nat × Nat)) : List Nat :=
  ((ranges.flatMap fun r => spadLines r.1 r.2).eraseDups).filterMap fun l => (s.physOf (s.task t).ctx (64 * l)).map (· / 64)

/-- Those on channels that the task owns (10 R204). -/
def State.ownedLines (s : State) (t : Nat) (ranges : List (Nat × Nat)) : List Nat :=
  (s.physLines t ranges).filter (s.ownLine t ·)

/-- An engine moves lines in open slots: those on channels that the task does not own (10 R204, R206). -/
def State.openMoves (s : State) (t : Nat) (lines : List Nat) : State := s.activate (lines.filter fun l => !s.ownLine t l)

/-- A copy meets main memory for its piece `m`: an uncorrectable line suspends it at the 4 KiB chunk that the piece lies in (09
R195). -/
def State.engineMemoryRead (s : State) (t c e m : Nat) : State :=
  match ((s.core t c).engine e).running with
  | none => s
  | some r =>
    if r.cmd.op.length ≤ 512 * m || r.suspended.isSome || (s.pieceLines t r m).isEmpty then s
    else
      let bad := s.pieceFail t r m
      let s1 := (s.spend (s.pieceLines t r m)).openMoves t (s.pieceLines t r m)
      s1.setEngine t c e fun g => { g with running := some (match bad with
        | some line => { r with suspended := some (m / 8, line) }
        | none => { r with chunks := max r.chunks (m + 1) }) }

/-- Bytes of main-memory ranges of a task, in memory as it stood at some time. -/
def State.readMemory (s : State) (t : Nat) (mem : Memory) (ranges : List (Nat × Nat)) : List Byte :=
  ranges.flatMap fun r => (List.range r.2).map fun i =>
    match s.physOf (s.task t).ctx (r.1 + i) with
    | some pa => Memory.byte mem pa
    | none => Config.emptyByte

/-- A command after it has read piece `m`: the index words and scratchpad ranges of the piece, and the records of a gather from main memory
that the words read now name. -/
def State.readPiece (s : State) (t : Nat) (r : Running) (m : Nat) (idx : List Byte) (src : List (Nat × Nat)) : Running :=
  let records := if r.cmd.op.gathers then (r.cmd.op.memorySource idx).drop (r.indices.length / 4) else []
  { r with
    chunks := if r.cmd.op.length ≤ 512 * m then r.chunks else m + 1
    indices := idx
    bytes := r.bytes ++ src.flatMap (fun x => (s.task t).spadBytes x.1 x.2) ++ s.readMemory t r.source records }

/-- Read what a running command reads in this dc, as one requester of every bank it touches. -/
def State.engineRead (s : State) (t c e : Nat) : State :=
  let k := s.task t
  match ((k.core c).engine e).running with
  | none => s
  | some r =>
    let m := k.dc - r.cmd.start
    let list := r.cmd.op.listChunk m
    let idx := r.indices ++ (match list with
      | some (a, n) => k.spadBytes a n
      | none => [])
    let src := r.cmd.op.sourceChunk m idx
    let lines := ((list.toList ++ src).flatMap fun x => spadLines x.1 x.2).eraseDups
    if m < r.chunks then s
    else if lines.isEmpty then s.engineMemoryRead t c e m
    else match s.claim t c 4 r.cmd.pc lines with
      | .error f => s.cmdTrap t c e r.cmd f
      | .ok s1 =>
        let sram := lines.findSome? fun l => (k.core (l / 2 ^ 16)).sramFail 3 (l % 2 ^ 16)
        match (s.early t c k.dc (list.toList ++ src)).or sram with
        | some f => s.cmdTrap t c e r.cmd f
        | none => ((s1.noteRead t c e r.cmd.slot r.cmd.pc (list.toList ++ src)).setEngine t c e fun g =>
            { g with running := some (s.readPiece t r m idx src) }).engineMemoryRead t c e m

/-! ### Starts (03 R51, 09 R191, 10 R204) -/

/-- Why a record at `a` of a gather or scatter does not lie where it may, if it does not: it must be aligned and lie within its endpoint,
the slice of its base or the contiguous run of pages of its base, which ends at `limit`; one at a page that its copy may not touch takes
that page's permission fault (08 R153, 09 R191). -/
def State.recordFail (s : State) (t base limit a z : Nat) (write : Bool) : Option Fail :=
  let n := 2 ^ z
  let bad : Fail := { cause := 0x0F, sub := 4, addr := a % 2 ^ 57, kind := if write then 2 else 1 }
  if a % min n 64 ≠ 0 || 2 ^ 57 ≤ a then some bad
  else if inWindow base then
    if inWindow a && a % 2 ^ 32 < 2 ^ 31 && spadCore (a % 2 ^ 32) = spadCore (base % 2 ^ 32) && spadOff a + n ≤ sliceTop then none
    else some bad
  else if inWindow a then some bad
  else match s.copyClass (s.task t).ctx a n write with
    | .error f => some (if f.cause = 0x16 then { f with kind := if write then 2 else 1 } else bad)
    | .ok _ => if a + n ≤ limit then none else some bad

/-- The first record of a gather or scatter that breaks its limits; the records of the contiguous side are records too
(log 39). -/
def State.badRecord (s : State) (t : Nat) (op : CmdOp) : Option Fail :=
  let k := s.task t
  let check (base list n z : Nat) (write : Bool) : Option Fail :=
    let idx := k.spadBytes list (4 * n)
    let top := (List.range n).foldl (fun m i => max m (indexAt idx i)) 0 + 2 ^ z
    let limit := if inWindow base then 0 else s.copyRun k.ctx base write (top / 4096 + 2)
    (List.range n).findSome? fun i => s.recordFail t base limit (base + indexAt idx i) z write
  let packed (base z : Nat) (write : Bool) : Option Fail :=
    if base % min (2 ^ z) 64 = 0 then none
    else some { cause := 0x0F, sub := 4, addr := base % 2 ^ 57, kind := if write then 2 else 1 }
  match op with
  | .gather a d list n z => (check a list n z false).or (packed d z true)
  | .scatter a d list n z => (check d list n z true).or (packed a z false)
  | _ => none

/-- Raw elements of a tape or a tensor, as (raw, poisoned), at an address with a bit in its byte. -/
def State.readCell (s : State) (t va bit f : Nat) : Nat × Bool :=
  let n := (elemBits f + 7) / 8
  let bytes := (List.range n).map fun i =>
    match s.physOf (s.task t).ctx (va + i) with
    | some pa => (Memory.byte s.mem pa, s.lostByte pa)
    | none => (Config.emptyByte, true)
  let v := leNat (bytes.map (·.1)) / 2 ^ bit % 2 ^ elemBits f
  (v, bytes.any (·.2) || (f = 9 && v = 2))

/-- Where element `e` of a tape lies: byte address and bit. -/
def tapePlace (base f e : Nat) : Nat × Nat := (base + e * elemBits f / 8, e * elemBits f % 8)

/-- The source elements of a run as it stands at S (11 R214, R216, R224). -/
def State.runSource (s : State) (t n index : Nat) : List (Nat × Bool) :=
  let st := s.stream n
  let r := st.record
  let c := recCount r
  let e := s.tape (s.task t).ctx (st.handle.toNat % 2 ^ 16)
  if st.scatter then
    (List.range c).map fun i =>
      let p := tapePlace e.base.toNat e.format.toNat (index * c + i)
      s.readCell t p.1 p.2 e.format.toNat
  else (recCells r (originOf r index)).map fun x =>
    if recInside r x then
      let p := recPlace r x
      s.readCell t p.1 p.2 (recFormat r)
    else (recFillElem r, false)

/-- The 320-byte record of a dimension (12 R237). -/
def SeqUnit.image (u : SeqUnit) (d : Nat) : List Byte :=
  let w (v : Lane) : List Byte := leBytes 4 v.toNat
  ((List.range 32).flatMap fun j => w (get u.v 0 (32 * d + j))) ++
    ((List.range 32).flatMap fun j => w (get u.l 0 (32 * d + j))) ++ w (get u.e 0 d) ++ List.replicate 60 0

/-- The source of a command as it stands at S: main memory, the sequence store, a stream's window. -/
def State.startSource (s : State) (t c : Nat) (cmd : Cmd) : Running :=
  let k := s.task t
  match cmd.op with
  | .qsave _ f n => ⟨cmd, 0, (List.range n).flatMap fun i => (k.core c).seq.image (f + i), [], none, []⟩
  | .run n _ index _ _ =>
    let l := s.runSource t n index
    ⟨cmd, 0, l.flatMap (fun e => leBytes 4 e.1), l.map fun e => if e.2 then 1 else 0, none, []⟩
  | op => ⟨cmd, 0, s.readMemory t s.mem (op.memorySource []), [], none, if op.gathers then s.mem else []⟩

/-- The tape elements that a scatter run reads, as byte ranges. -/
def State.runTape (s : State) (t n index : Nat) : List (Nat × Nat) :=
  let st := s.stream n
  let e := s.tape (s.task t).ctx (st.handle.toNat % 2 ^ 16)
  let c := recCount st.record
  (List.range c).map fun i => ((tapePlace e.base.toNat e.format.toNat (index * c + i)).1, (elemBits e.format.toNat + 7) / 8)

/-- The areas that a LEAF run writes, as byte ranges (11 R219). -/
def State.runAreas (_ : State) (st : Stream) : List (Nat × Nat) :=
  (List.range (ceilDiv (recCount st.record * elemBits (recFormat st.record)) (8 * 4096))).map fun a =>
    (recBase st.record + 4160 * a, 4160)

/-- What a started command must move in STREAM windows, with its last dc: a run's cells, or the areas that a LEAF run writes, and the
tape elements that a scatter reads; a run with no cell in extent moves no line, and tape output moves in open slots (10 R204, 11 R219,
R224, R225). -/
def State.startDebt (s : State) (t c e : Nat) (cmd : Cmd) : List Debt :=
  let k := s.task t
  let (ranges, deadline) := match cmd.op with
    | .run n bill index _ _ =>
      let deadline := cmd.perform - 8 * ((s.bill t bill).map (·.depth)).getD 0
      let st := s.stream n
      let inside := (recCells st.record (originOf st.record index)).filter (recInside st.record)
      let cells := inside.map fun x => ((recPlace st.record x).1, 1)
      let areas := if ((s.bill t bill).map (·.leaf)).getD false then some (s.runAreas st) else none
      if inside.isEmpty then ([], deadline)
      else if st.scatter then (areas.getD cells ++ s.runTape t n index, deadline) else (cells, deadline)
    | op => (op.memorySource (k.indicesOf op []) ++ op.memoryDest (k.indicesOf op []), cmd.perform)
  match s.ownedLines t ranges with
  | [] => []
  | l => [⟨cmd.id, c, e, cmd.pc, cmd.slot, cmd.start, deadline, l⟩]

/-- Physical lines of main memory that a run reads at S, none where no cell is in extent; a copy's are read piece by piece. -/
def State.startLines (s : State) (t : Nat) (cmd : Cmd) : List Nat :=
  let ranges := match cmd.op with
    | .run n _ index _ _ =>
      let st := s.stream n
      let inside := (recCells st.record (originOf st.record index)).filter (recInside st.record)
      if inside.isEmpty then []
      else if st.scatter then s.runTape t n index
      else inside.map fun x =>
        ((recPlace st.record x).1, (elemBits (recFormat st.record) + 7) / 8)
    | _ => []
  s.physLines t ranges

/-- ENGINE_COMMAND_START (03 R51, 09 R187, R191): at S the command is no longer pending, reads what it reads at S, and a
record out of range is copy trap 0x4. -/
def execEngineCommandStart (t c e : Nat) (s : State) : Out :=
  let k := s.task t
  .next (match ((k.core c).engine e).pending.find? (·.start = k.dc) with
    | none => s
    | some cmd =>
      match s.badRecord t cmd.op with
      | some f => s.cmdTrap t c e cmd f
      | none =>
        let s1 := s.setEngine t c e fun g => { g with
          pending := g.pending.filter (·.id ≠ cmd.id), running := some (s.startSource t c cmd) }
        (((s1.setTask t fun k => { k with debts := k.debts ++ s.startDebt t c e cmd }).engineRead t c e).spend
          (s.startLines t cmd)).openMoves t (s.startLines t cmd))

/-! ### Suspension and replay (09 R195, 17 R309) -/

/-- The memory error of a copy that a line has suspended at a chunk; which of the engine's commands it is counts from a number left
open (09 R195, 17 R307, log 101). -/
def State.copyTrap (s : State) (t c e : Nat) (r : Running) (x : Nat × Nat) : State :=
  let (n, s1) := s.free
  s1.trapAt t c r.cmd.pc r.cmd.slot e 0x1A 0 fun tr => { tr with
    kind := if (r.cmd.op.memoryDest ((s.task t).indicesOf r.cmd.op r.indices)).isEmpty then 4 else 5
    d7 := BitVec.ofNat 64 (64 * x.2)
    d8 := BitVec.ofNat 64 ((s.channel (64 * x.2)).getD 0)
    d9 := BitVec.ofNat 64 (n % 4)
    d10 := BitVec.ofNat 64 x.1 }

/-- COPY_SUSPEND: an uncorrectable line of a main-memory endpoint has suspended the copy; the domain waits for Floor. -/
def execCopySuspend (t c e : Nat) (s : State) : Out :=
  .next (match ((s.core t c).engine e).running with
    | none => s
    | some r =>
      match r.suspended with
      | none => s
      | some x => s.copyTrap t c e r x)

/-- A suspended command reads again from chunk `q`: a main-memory source takes its bytes anew from there; an error that the replay
meets suspends it once more (09 R195). -/
def State.replay (s : State) (t : Nat) (r : Running) (q : Nat) : Running × List Nat :=
  let m := (s.task t).dc - r.cmd.start
  let pieces := (List.range (m + 1)).filter (8 * q ≤ ·)
  let idx := (s.task t).indicesOf r.cmd.op r.indices
  let src := r.cmd.op.memorySource (if r.cmd.op.gathers then r.indices else idx)
  let fresh := s.readMemory t s.mem src
  let r := { r with source := if r.cmd.op.gathers then s.mem else [] }
  let bytes := if src.isEmpty then r.bytes else r.bytes.take (4096 * q) ++ fresh.drop (4096 * q)
  let lines := pieces.flatMap fun p => s.pieceLines t r p
  match pieces.findSome? fun p => (s.pieceFail t r p).map fun line => (p / 8, line) with
  | some x => ({ r with bytes := bytes, suspended := some x }, lines)
  | none => ({ r with bytes := bytes, suspended := none, chunks := max r.chunks (m + 1) }, lines)

/-- Whether a line that suspended an engine of the task reads no better again (17 R309). -/
def State.stillFails (s : State) (t : Nat) : Bool :=
  (s.task t).cores.any fun c => c.2.engines.any fun e => match e.2.running with
    | none => false
    | some r => match r.suspended with
      | none => false
      | some (q, line) => (List.range 8).any fun i => s.pieceFail t r (8 * q + i) = some line

/-- Whether an engine of the task is suspended. -/
def Task.suspends (k : Task) : Bool :=
  k.cores.any fun c => c.2.engines.any fun e => (e.2.running.bind (·.suspended)).isSome

/-- COPY_REPLAY_CAUGHT_UP: the engine has read again from the cursor; once every suspended engine has, the domain goes on.  Where the
fault arose inside a fabric graph, which no rule tells from outside, the copy is replayed whole (09 R195; log 137). -/
def execCopyReplayCaughtUp (t c e : Nat) (s : State) : Out :=
  let kind : Option ServiceKind := (s.task t).service.map (·.kind)
  .next (match ((s.core t c).engine e).running, kind with
    | some r, some (.replay due) =>
      match r.suspended with
      | none => s
      | some (q, _) =>
        if s.gcyc < due then s
        else
          let (n, s0) := s.free
          let (r', lines) := s.replay t r (if n % 2 = 0 then q else 0)
          let s1 := (s0.setEngine t c e fun g => { g with running := some r' }).spend lines |>.openMoves t lines
          match r'.suspended with
          | some x => (s1.copyTrap t c e r' x).resumeService t
          | none => if (s1.task t).suspends then s1 else s1.resumeService t
    | _, _ => s)

/-! ### Performs (09 R188 to R192) -/

/-- An engine write to scratchpad ranges: bytes, and the entries of the leaves it overlaps (09 R192). -/
def State.engineSpad (s : State) (t c e : Nat) (cmd : Cmd) (l : List (Nat × List Byte)) : State :=
  let k := s.task t
  match k.captureFail (l.flatMap fun x => spadLines x.1 x.2.length) with
  | some f => s.cmdTrap t c e cmd f
  | none => (s.setTask t (·.portWrite l)).touchSpad t c (l.map fun x => (x.1, x.2.length))

/-- Bytes at a virtual address of main memory, line by line, feeding a core's digest. -/
def State.engineMemory (s : State) (t c va : Nat) (l : List Byte) : State :=
  let lines := (List.range ((va % 64 + l.length + 63) / 64)).map fun i => va / 64 + i
  lines.foldl (fun (s : State) ln =>
    match s.physOf (s.task t).ctx (64 * ln) with
    | none => s
    | some pa =>
      let lo := max va (64 * ln)
      let hi := min (va + l.length) (64 * ln + 64)
      s.writeLine t c (64 * ln) (pa + (lo - 64 * ln)) ((l.drop (lo - va)).take (hi - lo))) s

/-- The permission fault of an engine's writes to ranges of which a byte lies in a page that is mapped executable (02 R33). -/
def State.executableFail (s : State) (t : Nat) (ranges : List (Nat × Nat)) : Option Fail :=
  let ctx := (s.task t).ctx
  (memoryLines ranges).findSome? fun ln =>
    (s.physOf ctx (64 * ln)).bind fun pa =>
      if s.attributed pa 64 [2] then
        let p := s.pinOf ctx (64 * ln)
        some { cause := 0x16, sub := 0, addr := 64 * ln, kind := 2
               d7 := (p.map fun p => levelOf p.size).getD 0, d8 := (p.map fun p => p.leaf.toNat).getD 0 }
      else none

/-- Ranges with their bytes, to scratchpad or to main memory; nothing is written where a page of them is executable. -/
def State.engineWrite (s : State) (t c e : Nat) (cmd : Cmd) (l : List (Nat × List Byte)) : State :=
  let spad := (l.filter fun x => inWindow x.1).map fun x => (x.1 % 2 ^ 32, x.2)
  match s.executableFail t ((l.filter fun x => !inWindow x.1).map fun x => (x.1, x.2.length)) with
  | some f => s.cmdTrap t c e cmd f
  | none =>
  let s1 := if spad.isEmpty then s else s.engineSpad t c e cmd spad
  (l.filter fun x => !inWindow x.1).foldl (fun (s : State) x => s.engineMemory t c x.1 x.2) s1

/-- One element of a reduction (09 R190). -/
def reduceElem (m : Modes) (f a b : Nat) : Nat :=
  if isIntFmt f then wrapInt f (intOf f a + intOf f b)
  else toFloat m f false (addNum (m.forFmt f) (floatValue f m.flush a) (floatValue f m.flush b))

/-- The bytes that a command writes at P. -/
def State.cmdWrites (s : State) (t c : Nat) (r : Running) : List (Nat × List Byte) :=
  match r.cmd.op with
  | .copy _ d n => [(d, r.bytes.take n)]
  | .fill d n w => [(d, (List.range (n / 4)).flatMap fun _ => leBytes 4 w.toNat)]
  | .gather _ d _ k z => [(d, r.bytes.take (k * 2 ^ z))]
  | .scatter _ d _ k z => (List.range k).map fun i => (d + indexAt r.indices i, (r.bytes.drop (i * 2 ^ z)).take (2 ^ z))
  | .reduce _ d n fmt =>
    let f := fmtElem fmt
    let b := elemBits f
    let m := modesOf fmt (s.core t c).cmpat
    let old := (s.task t).spadBytes (d % 2 ^ 32) n
    [(d, bytesOfElems b ((List.range (n / (b / 8))).map fun i => reduceElem m f (elemAt old b i) (elemAt r.bytes b i)))]
  | _ => []

/-- A command performs: what it executes is done. -/
def State.endCmd (s : State) (t c e : Nat) : State := s.setEngine t c e fun g => { g with running := none }

/-- The running command of an engine, if it performs in this dc. -/
def State.performing (s : State) (t c e : Nat) : Option Running :=
  let k := s.task t
  ((k.core c).engine e).running.bind fun r => if r.cmd.perform ≤ k.dc then some r else none

/-- The SRAM error of a reduction's destination, which it reads as it performs (09 R190, 17 R303). -/
def State.reduceFail (s : State) (t : Nat) (op : CmdOp) : Option Fail :=
  match op with
  | .reduce _ d n _ => (spadLines (spadOff d) n).findSome? (((s.task t).core (spadCore (d % 2 ^ 32))).sramFail 3)
  | _ => none

/-- COPY_PERFORM (09 R187 to R192). -/
def execCopyPerform (t c e : Nat) (s : State) : Out :=
  .next (match s.performing t c e with
    | none => s
    | some r => match s.reduceFail t r.cmd.op with
      | some f => (s.endCmd t c e).cmdTrap t c e r.cmd f
      | none => (s.endCmd t c e).engineWrite t c e r.cmd (s.cmdWrites t c r))

/-- A dimension taken from its 320-byte record (12 R237). -/
def SeqUnit.load (u : SeqUnit) (d : Nat) (l : List Byte) : SeqUnit :=
  let w (i : Nat) : Lane := BitVec.ofNat 32 (leNat ((l.drop (4 * i)).take 4))
  { u with
    v := (List.range 32).foldl (fun m j => put m (32 * d + j) (w j)) u.v
    l := (List.range 32).foldl (fun m j => put m (32 * d + j) (w (32 + j))) u.l
    e := put u.e d (w 64)
    bad := u.bad.filter fun x => x / 32 ≠ d ∧ x / 32 ≠ 256 + d }

/-- SEQUENCE_ENGINE_PERFORM (12 R237). -/
def execSequenceEnginePerform (t c : Nat) (s : State) : Out :=
  .next (match s.performing t c 6 with
    | none => s
    | some r =>
      let s1 := s.endCmd t c 6
      match r.cmd.op with
      | .qload _ f n => s1.setCore t c fun k => { k with
          seq := (List.range n).foldl (fun u i => u.load (f + i) ((r.bytes.drop (320 * i)).take 320)) k.seq }
      | .qsave a _ _ => s1.engineSpad t c 6 r.cmd [(a, r.bytes)]
      | _ => s1)

/-! ### Runs (11 R219, R223, R224) -/

/-- A cell to write: byte address, bit, format, raw element, poison. -/
structure CellWrite where
  va : Nat
  bit : Nat
  fmt : Nat
  raw : Nat
  poison : Bool
  deriving DecidableEq, Repr

/-- The bytes of a line, by offset, after a cell is written into it. -/
def patchCell (line : List Byte) (w : CellWrite) : List Byte :=
  let o := w.va % 64
  if w.fmt = 9 then
    let b := (line.getD o 0).toNat
    let k := 2 ^ w.bit
    line.set o (BitVec.ofNat 8 (b - b / k % 4 * k + (if w.poison then 2 else w.raw % 4) * k))
  else
    let n := elemBits w.fmt / 8
    (List.range n).foldl (fun l i => l.set (o + i) (BitVec.ofNat 8 (w.raw / 256 ^ i))) line

/-- Offsets of the line that a cell covers. -/
def CellWrite.covers (w : CellWrite) : List Nat := (List.range ((elemBits w.fmt + 7) / 8)).map (w.va % 64 + ·)

/-- Write cells in order, each line once, feeding a core's digest; elements that stand poisoned are marked (08 R168, 11 R218). -/
def State.writeCells (s : State) (t c : Nat) (l : List CellWrite) : State :=
  ((l.map fun w => w.va / 64).eraseDups).foldl (fun (s : State) ln =>
    match s.physOf (s.task t).ctx (64 * ln) with
    | none => s
    | some pa =>
      let mine := l.filter fun w => w.va / 64 = ln
      let line := mine.foldl patchCell (Memory.bytes s.mem pa 64)
      let offs := (mine.flatMap CellWrite.covers).eraseDups
      let s1 := s.writeScattered t c (64 * ln) pa (offs.map fun o => (o, line.getD o 0))
      let marks := mine.foldl (fun (m : BitVec 64) w =>
        let own : BitVec 64 := BitVec.ofNat 64 (total (w.covers.map fun o => 2 ^ o))
        if w.poison && w.fmt ≠ 9 then m ||| own else m &&& ~~~own) 0
      if marks = 0 then s1 else s1.markPoison pa marks) s

/-- The modes in which a bill works: its nodes round to nearest even (11 R218); Flush() is that of the bundle that issued the run (05
R100, log 52). -/
def billModes (cmpat : Word) (sub : Bool) : Modes := ⟨0, sub || compatSubflush cmpat, compatNancanon cmpat, compatFp8rtz cmpat⟩

/-- Leaf areas of a LEAF run: each 4,096 packed bytes as a stored leaf of 65 lines (11 R219). -/
def leafAreas (l : List Byte) : List (List Byte) :=
  (chunk 4096 l.length l).map fun b =>
    let x := buildLeaf [] 0 (b ++ List.replicate (4096 - b.length) 0)
    let body := x.header ++ x.payload
    (body ++ List.replicate (4160 - body.length) 0).take 4160

/-- Bytes of a virtual range marked poisoned. -/
def State.poisonRange (s : State) (t va n : Nat) : State :=
  (List.range n).foldl (fun (s : State) i => match s.physOf (s.task t).ctx (va + i) with
    | some pa => s.markPoison pa (BitVec.ofNat 64 (2 ^ (pa % 64)))
    | none => s) s

/-- Marks of the poisoned elements of a LEAF run: the payload of each logical line that holds one, or its mode where it has no payload
(11 R218, R219; log 112). -/
def State.poisonAreas (s : State) (t base bits : Nat) (poison : List Bool) (areas : List (List Byte)) : State :=
  let perLine := 512 / bits
  ((List.range areas.length).zip areas).foldl (fun (s : State) a =>
    let modes := lineModes (a.2.take 16)
    (List.range 64).foldl (fun (s : State) j =>
      if ((poison.drop ((64 * a.1 + j) * perLine)).take perLine).any id then
        let n := modeSize (modes.getD j 0)
        let at' := if n = 0 then j / 4 else payloadAt modes j
        s.poisonRange t (base + 4160 * a.1 + at') (max n 1)
      else s) s) s

/-- STREAM_RUN_PERFORM (11 R223, R224): at P the run's elements reach the tape and its mirror, or the tensor's cells; one that would write
an executable page takes the permission fault and writes nothing (02 R33).  A rollback gives a run issued since the rollback point its
place in the stream back (15 R282, log 138). -/
def execStreamRunPerform (t c : Nat) (s : State) : Out :=
  .next (match s.performing t c 5 with
    | none => s
    | some r =>
      match r.cmd.op with
      | .run n slot index last sub =>
        let st := s.stream n
        let ctx := (s.task t).ctx
        let i := st.handle.toNat % 2 ^ 16
        let e := s.tape ctx i
        let rec' := st.record
        let count := recCount rec'
        let src := if st.scatter then e.format.toNat else recFormat rec'
        let out := if st.scatter then recFormat rec' else e.format.toNat
        let input : List Edge := (List.range count).map fun j => ((indexAt r.bytes j : Nat), r.indices.getD j 0 = 1)
        let o := match s.bill t slot with
          | some b => b.eval (billModes (s.core t c).cmpat sub) src input st.crc
          | none => plainNode st.crc input
        let s1 := s.endCmd t c 5
        if o.bad then s1.cmdTrap t c 5 r.cmd { cause := 0x10, sub := 7 }
        else
          let value (j : Nat) : Nat × Bool :=
            let x := o.out.getD j (0, false)
            (if x.2 && out = 9 then 2 else x.1.toNat, x.2)
          let cell (p : Nat × Nat) (j : Nat) : CellWrite := ⟨p.1, p.2, out, (value j).1, (value j).2⟩
          let cells := recCells rec' (originOf rec' index)
          let writes := if st.scatter then
              ((List.range count).zip cells).filterMap fun x =>
                if recInside rec' x.2 then some (cell (recPlace rec' x.2) x.1) else none
            else (List.range count).map fun j => cell (tapePlace e.base.toNat out (index * count + j)) j
          let leafy := st.scatter && ((s.bill t slot).map (·.leaf)).getD false
          let poison := (List.range count).map fun j => (value j).2
          match s.executableFail t (if leafy then s.runAreas st else writes.map fun w => (w.va, w.covers.length)) with
          | some f => s1.cmdTrap t c 5 r.cmd f
          | none =>
          let s2 := if leafy then
              let areas := leafAreas (bytesOfElems (elemBits out) ((List.range count).map fun j => (value j).1))
              let done := ((List.range areas.length).zip areas).foldl (fun (s : State) a =>
                s.engineMemory t c (recBase rec' + 4160 * a.1) a.2) s1
              if out = 9 then done else done.poisonAreas t (recBase rec') (elemBits out) poison areas
            else s1.writeCells t c writes
          let s3 := if !st.scatter && e.mirror then s2.writeCells t c ((List.range count).map fun j =>
              cell (tapePlace e.mbase.toNat out (index * count + j)) j) else s2
          let wrote := writes.map (fun w => (w.va, (elemBits out + 7) / 8)) ++
            if !st.scatter && e.mirror then (List.range count).map fun j =>
              ((tapePlace e.mbase.toNat out (index * count + j)).1, (elemBits out + 7) / 8) else []
          let lines := s3.physLines t (if leafy then s.runAreas st else wrote)
          let s3' := if st.scatter then s3.openMoves t lines else s3.activate lines
          let s4 := if st.scatter then s3' else (s3'.setTape ctx i { e with
            length := BitVec.ofNat 40 (st.total + count)
            state := if last then 2 else e.state
            stale := e.stale && !last }).setTask t fun k =>
              if r.cmd.id < k.rollId then k else { k with undo := (c, .length ctx i e.length) :: k.undo }
          let st' := { st with
            runs := st.runs + 1, total := st.total + count, origin := originOf rec' (st.runs + 1)
            isSealed := st.isSealed || (last && !st.scatter), crc := o.crc
            clamps := min 0xFFFFFFFF (st.clamps + o.clamps), sats := st.sats + o.sats
            poisons := st.poisons + (if leafy then (poison.filter id).length else (writes.filter (·.poison)).length)
            lastP := r.cmd.perform }
          (s4.changeStream t c r.cmd.id n st').tapeRace t c r.cmd.pc i r.cmd.issueGc
      | _ => s)

/-- STREAM_DEADLINE_FAULT (10 R204, 11 R225): lines that have not moved by their last dc are timing fault 0x6. -/
def execStreamDeadlineFault (t c e : Nat) (s : State) : Out :=
  let k := s.task t
  .next (match k.debts.find? fun d => d.core = c && d.engine = e && d.deadline ≤ k.dc && !d.lines.isEmpty with
    | none => s
    | some d =>
      let line := d.lines.getD 0 0
      let ch := (s.channel (64 * line)).getD 0
      s.trapAt t c d.pc d.slot e 5 6 fun tr => { tr with
        d7 := BitVec.ofNat 64 d.start
        d8 := BitVec.ofNat 64 (ch + 0x0A * 2 ^ 32 + ((k.timeline ch).map (·.1)).getD 0 * 2 ^ 40)
        addr := 0 })

end Sys2Proof.Machine
end

