-- ==== Sys2Proof/Machine/Heads.lean ====
section
/-!
DEFINITION. Class HEAD as a slot issues it (08 R159, R160): opening, closing, reading, writing and moving heads.
-/

namespace Sys2Proof.Machine

/-- The handle of a tape operand: s[a][31:0], or the handle bound to a declaration index, which the ext byte gives; an
index that no declaration has gives a handle that names no tape (log 21). -/
def State.tapeHandle (s : State) (t : BitVec 6) (x : Ext) : BitVec 32 :=
  if t = 0x21 then (s.me.reg (extReg x)).truncate 32 else s.myTask.tapes.getD (x.getD 0).toNat (BitVec.allOnes 32)

/-- A slot's use of head `n`: refused while an MTX command engages it, while it is not open, or in a mode it does not
admit (08 R160, R161). -/
def State.useHead (s : State) (n : Nat) (ok : HeadMode → Bool) (f : Head → State) : Out :=
  let h := s.me.head n
  .next (if s.me.engages true n then s.fail { cause := 0x0A, sub := 7 }
    else if h.status ≠ .opened then s.fail (headFail 0x0B 1 n h h.pos)
    else if !ok h.mode then s.fail (headFail 0x0B 3 n h h.pos)
    else f h)

def anyMode : HeadMode → Bool := fun _ => true
def readOrUpdate : HeadMode → Bool := fun m => m = .read || m = .update

/-- Open a head: opening from n + 1, the table operation at n + 320 (08 R155). -/
def State.openHead (s : State) (n : Nat) (handle : BitVec 32) (mode : HeadMode) (back : Bool) (grain : Nat)
    (op : TableOp) : Out :=
  let h := s.me.head n
  let oid := s.nextId
  .next (if s.me.engages true n then s.fail { cause := 0x0A, sub := 7 }
    else if h.status ≠ .closed then s.fail (headFail 0x0B 2 n h h.pos)
    else (s.issue 0 (.head n { Head.start with
        status := .opening, oid := oid, handle := handle, mode := mode, back := back, grain := grain })).issue 320
      (.table n handle oid op 0 s.gcyc false))

/-- HOPEN (08 R160). -/
def execHopen (h : BitVec 4) (t : BitVec 6) (b a : BitVec 1) (w : BitVec 3) (x : Ext) (s : State) : Out :=
  s.openHead h.toNat (s.tapeHandle t x) (if a = 1 then .append else .read) (b = 1) (2 ^ w.toNat)
    (.open_ (a = 1) (b = 1) (2 ^ w.toNat))

/-- HNEW (08 R160). -/
def execHnew (h : BitVec 4) (t : BitVec 6) (w : BitVec 3) (x : Ext) (s : State) : Out :=
  s.openHead h.toNat (s.tapeHandle t x) .append false (2 ^ w.toNat) (.new_ (2 ^ w.toNat))

/-- HLEASE (08 R160). -/
def execHlease (h : BitVec 4) (t : BitVec 6) (b : BitVec 1) (w : BitVec 3) (x : Ext) (s : State) : Out :=
  s.openHead h.toNat (s.tapeHandle t x) .update (b = 1) (2 ^ w.toNat) (.lease (b = 1) (2 ^ w.toNat))

/-- HFREE (08 R160): a table operation that names no head. -/
def execHfree (t : BitVec 6) (x : Ext) (s : State) : Out :=
  .next (s.issue 320 (.table 0 (s.tapeHandle t x) s.nextId .free_ 0 s.gcyc false))

/-- Close a head at issue; its table write performs at n + 320 or when its last write reaches memory (08 R160). -/
def State.closeHead (s : State) (n : Nat) (h : Head) (last : Bool) (d : Nat) : State :=
  (s.issue 0 (.head n Head.start)).issue 320 (.table n h.handle h.oid
    (if h.mode = .read then .closeRead else .closeWrite h.mode last h.pos) d s.gcyc false)

/-- HCLOSE (08 R160). -/
def execHclose (h : BitVec 4) (d : BitVec 5) (s : State) : Out :=
  s.useHead h.toNat anyMode fun hd => s.closeHead h.toNat hd false d.toNat

/-- HSEAL (08 R160). -/
def execHseal (h : BitVec 4) (d : BitVec 5) (s : State) : Out :=
  s.useHead h.toNat (· = .append) fun hd => s.closeHead h.toNat hd true d.toNat

/-- Whether a slot reads a poison trit of a format in the lanes of its predicate, which consumes it (05 R92). -/
def readsPoison (f : Nat) (m : Pred) (r : Row) : Bool := f = 9 && hasPoison m r

/-- HRD (08 R160): the delivered row to a destination at n + 3. -/
def execHrd (h : BitVec 4) (o : BitVec 6) (p : BitVec 4) (s : State) : Out :=
  s.useHead h.toNat readOrUpdate fun old =>
    match s.deliver s.cur.task s.cur.core h.toNat with
    | .error e => s.fail e
    | .ok (row, hd) =>
      if readsPoison old.fmt (s.me.pred p.toNat) row then s.fail poisonFail
      else (s.issue 0 (.head h.toNat hd)).writeRow o 3 (s.me.pred p.toNat) row

/-- A source row written through a head, lanes that the predicate masks as zero (08 R158, R160). -/
def State.writeHead (s : State) (h : BitVec 4) (o : BitVec 6) (p : BitVec 4) (x : Ext) (ok : HeadMode → Bool) : Out :=
  s.useHead h.toNat ok fun hd =>
    let (row, s1) := s.readRow o x hd.fmt
    if readsPoison hd.fmt (s.me.pred p.toNat) row then s.fail poisonFail
    else match s.headStore s.cur.task s.cur.core h.toNat (blend (s.me.pred p.toNat) Row.zero row) with
    | .error e => s.fail e
    | .ok (eff, hd') => (s1.issue 0 (.head h.toNat hd')).issue 3 eff

/-- HWR (08 R160): append. -/
def execHwr (h : BitVec 4) (o : BitVec 6) (p : BitVec 4) (x : Ext) (s : State) : Out :=
  s.writeHead h o p x (· = .append)

/-- HUPD (08 R160): update in place. -/
def execHupd (h : BitVec 4) (o : BitVec 6) (p : BitVec 4) (x : Ext) (s : State) : Out :=
  s.writeHead h o p x (· = .update)

/-- Move a read or update head, seen from n + 1. -/
def State.moveHead (s : State) (h : BitVec 4) (f : Head → Head) : Out :=
  s.useHead h.toNat readOrUpdate fun hd => s.issue 0 (.head h.toNat (f hd))

/-- HSTEP (08 R160): by a signed count of elements, in the head's direction. -/
def execHstep (h : BitVec 4) (i : BitVec 8) (x : Ext) (s : State) : Out :=
  s.moveHead h fun hd => { hd with pos := hd.pos + BitVec.ofInt 64 (immS x i * hd.dir) }

/-- HSKIP (08 R160): by s[a] elements, modulo 2^64. -/
def execHskip (h : BitVec 4) (x : Ext) (s : State) : Out :=
  let v := s.me.reg (extReg x)
  s.moveHead h fun hd => { hd with pos := if hd.back then hd.pos - v else hd.pos + v }

/-- HMARK (08 R160): push the position, at most four. -/
def execHmark (h : BitVec 4) (s : State) : Out :=
  s.useHead h.toNat readOrUpdate fun hd =>
    if 4 ≤ hd.marks.length then s.fail (headFail 0x0B 5 h.toNat hd hd.pos)
    else s.issue 0 (.head h.toNat { hd with
      marks := hd.marks ++ [hd.pos], markBack := if hd.marks.isEmpty then hd.back else hd.markBack })

/-- HRWD (08 R160): back to the top mark, which pop also removes. -/
def execHrwd (h : BitVec 4) (y : BitVec 1) (s : State) : Out :=
  s.useHead h.toNat readOrUpdate fun hd =>
    match hd.marks.getLast? with
    | none => s.fail (headFail 0x0B 5 h.toNat hd hd.pos)
    | some m => s.issue 0 (.head h.toNat { hd with pos := m, marks := if y = 1 then hd.marks.dropLast else hd.marks })

/-- HDROP (08 R160): remove the top mark. -/
def execHdrop (h : BitVec 4) (s : State) : Out :=
  s.useHead h.toNat readOrUpdate fun hd =>
    if hd.marks.isEmpty then s.fail (headFail 0x0B 5 h.toNat hd hd.pos)
    else s.issue 0 (.head h.toNat { hd with marks := hd.marks.dropLast })

/-- HPOS (08 R160): the position as it stands at issue. -/
def execHpos (h : BitVec 4) (d : BitVec 5) (s : State) : Out :=
  s.useHead h.toNat anyMode fun hd => s.writeScalar 1 d hd.pos

/-- HREV (08 R160): the other direction. -/
def execHrev (h : BitVec 4) (s : State) : Out := s.moveHead h fun hd => { hd with back := !hd.back }

/-- The last perform dc of the writes through an opening that its core owes, at least the next dc (03 R359). -/
def State.lastHeadWrite (s : State) (oid : Nat) : Nat :=
  (s.myTask.owed ++ s.issued).foldl (fun (dc : Nat) o => match o.eff with
    | .headWrite w .. => if w = oid then max dc o.dc else dc
    | _ => dc) (s.dc + 1)

/-- HWAIT (08 R160): s[d] := 0 once every write through the head has reached memory; at n + 1 for a read head. -/
def execHwait (h : BitVec 4) (d : BitVec 5) (s : State) : Out :=
  s.useHead h.toNat anyMode fun hd =>
    if hd.mode = .read then s.writeScalar 1 d 0 else s.issue (s.lastHeadWrite hd.oid - s.dc) (.hwait hd.oid d.toNat)

end Sys2Proof.Machine
end

