-- ==== Sys2Proof/Machine/Commit.lean ====
section
/-!
DEFINITION. The bundles about to issue, the rollback point they may set, the checks of a bundle as a whole, and what a bundle
changes when it commits (02 R23, R36; 03 R48, R65; 15 R279, R282).
-/

namespace Sys2Proof.Machine

/-! ### The bundles about to issue -/

/-- Slots of a bundle that hold an instruction. -/
def Bundle.instrs (b : Bundle) : List (Nat × Instr) :=
  ((List.range 4).zip b.slots).filterMap fun e => e.2.toOption.map fun i => (e.1, i)

def Bundle.isWheel (b : Bundle) : Bool := b.hdr.any (·.wheel)

/-- Whether a core issues at a dc: it has not halted and no WAITC holds it (04 R78). -/
def Core.ready (k : Core) (dc : Nat) : Bool := !k.halted && k.waitDc ≤ dc

/-- Cores that issue in the current dc, each with its bundle; none where its PC names no bundle that can be read. -/
def State.issuing (s : State) (t : Nat) : List (Nat × Option Bundle) :=
  let k := s.task t
  (k.cores.filter fun e => e.2.ready k.dc).map fun e => (e.1, s.bundleAt t e.2.pc)

/-- Whether every core that has not halted is about to issue a restart bundle (03 R57, 15 R279); where every core has halted there is
none to issue one (log 97). -/
def State.atRestart (s : State) (t : Nat) : Bool :=
  let k := s.task t
  let alive := (k.cores.filter fun e => !e.2.halted).length
  0 < alive && ((s.issuing t).filter fun e => (e.2.map Bundle.isRestart).getD false).length = alive

/-- A new rollback point at the current dc: every core's shadow and the timelines (15 R279).  The lines that loads had read at the same point
before a rollback are kept for the loads' re-issue (15 R280). -/
def Task.newShadow (k : Task) (nextId : Nat) : Task :=
  { k with
    rollDc := k.dc
    rollId := nextId
    snap := k.cores
    snapOwed := k.owed.filter fun o => o.eff.inShadow
    snapRuns := k.timelines
    undo := []
    counts := []
    loadMarks := if k.dc = k.rollDc then k.loadMarks.filter (·.rolled) else [] }

/-! ### Checks of a bundle as a whole (02 R23) -/

/-- A trap of a whole bundle with its slot mask. -/
def wideTrap (core pc : Nat) (slots : List Nat) (cause sub : Nat) : Trap :=
  { Trap.plain core pc 4 cause sub with mask := BitVec.ofNat 4 (total (slots.eraseDups.map (2 ^ ·))) }

/-- The first bundle-wide cause of a core's bundle: 02 R36, then 06 R116, then 06 R122. -/
def State.bundleTrap (s : State) (t c : Nat) (b : Bundle) : Option Trap :=
  let k := s.core t c
  let l := Bundle.instrs b
  let bad := k.illegalSlots l
  let map := mapSlots l
  let pair := pairSlots l
  if !bad.isEmpty then some (wideTrap c k.pc bad 1 0)
  else if 2 ≤ map.length then some (wideTrap c k.pc map 9 3)
  else if 2 ≤ pair.length && fmtElem (k.fmtAt (s.task t).dc) = 8 then some (wideTrap c k.pc pair 7 3)
  else none

/-! ### What an issue uses up of the rollback's room (15 R279, R282) -/

/-- Tile-row writes and writes through heads. -/
def Eff.isRow : Eff → Bool
  | .tileRow .. | .mtxRow .. | .headWrite .. => true
  | _ => false

/-- Table operations of 15 R282. -/
def Eff.isTableOp : Eff → Bool
  | .table .. | .sfbind .. | .sfrel .. => true
  | _ => false

/-- What one slot of this issue adds to its core's counts. -/
def State.slotCounts (s : State) (c slot : Nat) : Counts :=
  let mine := s.issued.filter fun o => o.core = c && o.slot = slot
  ⟨(s.newQueue.filter fun a => a.core = c && a.slot = slot && a.kind.isWrite).length,
    (mine.filter fun o => o.eff.isRow).length, (mine.filter fun o => o.eff.isTableOp).length⟩

def Counts.add (a b : Counts) : Counts := ⟨a.stores + b.stores, a.rows + b.rows, a.tables + b.tables⟩
def Counts.above (a : Counts) : Bool := 256 < a.stores || 64 < a.rows || 16 < a.tables

/-- Counts of a core after its slots, and the slot that passes a limit, if one does. -/
def State.countCore (s : State) (k : Task) (c : Nat) : Counts × Option Nat :=
  (List.range 4).foldl (fun (acc : Counts × Option Nat) i =>
    let n := acc.1.add (s.slotCounts c i)
    (n, acc.2.or (if n.above then some i else none))) (get k.counts Counts.start c, none)

/-- The rollback-overflow fault of every core that passes a limit (15 R279). -/
def State.overflowTraps (s : State) (t : Nat) : List Trap :=
  let k := s.task t
  k.cores.filterMap fun e => (s.countCore k e.1).2.map fun i => Trap.plain e.1 e.2.pc i 0x18 0

/-! ### Commit -/

/-- What an effect changes in the core of its slot. -/
def Core.commitOne (k : Core) (dc : Nat) (o : Owed) : Core :=
  match o.eff with
  | .pc v => { k with pc := v }
  | .halt => { k with halted := true, pc := o.pc }
  | .waitUntil d => { k with waitDc := d }
  | .cursor n v => { k with c := put k.c n v }
  | .walker n v => { k with w := put k.w n v }
  | .head n v => { k with h := put k.h n v }
  | .lc v => { k with lc := v }
  | .base n v => { k with b := put k.b n v }
  | .fmt image => k.setFmt dc image
  | .twin v => { k with twin := v }
  | .frptr v => { k with frptr := v }
  | .dgst clear add => { k with dgst := if clear then 0 else k.dgst + add }
  | .detc code => k.record code o.pc
  | .talloc n => { k with tallocmap := BitVec.ofNat 80 (2 ^ n - 1) }
  | .trel n => (List.range 16).foldl (fun k r => k.setTileRow n r Row.zero)
      { k with tallocmap := k.tallocmap &&& ~~~BitVec.ofNat 80 (2 ^ n) }
  | .checker r => { k with checker := r }
  | .seqUnit v => { k with seq := v }
  | .prio v => { k with launchPrio := v }
  | .matrix m => { k with mtx := m }
  | .command e c => { k with engines := upd k.engines Engine.start e fun g =>
      { g with pending := g.pending ++ [c], lastP := c.perform } }
  | _ => k

/-- What an effect changes in a core's leaf table. -/
def Core.commitLeaf (k : Core) (o : Owed) : Core :=
  match o.eff with
  | .leafEntry _ n v => { k with leaf := put k.leaf n v }
  | .leafNext _ n next => { k with leaf := upd k.leaf LeafEntry.start n fun e => { e with next := next } }
  | .leafExpect _ n v => { k with leaf := upd k.leaf LeafEntry.start n fun e => { e with expect := v } }
  | _ => k

/-- The core whose leaf table an effect changes. -/
def Eff.leafCore : Eff → Option Nat
  | .leafEntry c .. | .leafNext c .. | .leafExpect c .. => some c
  | _ => none

/-- Cursors stepped once each, however many slots name them, and once more for every row that an MTX command takes through
them (06 R117, 07 R137); a cursor that a slot sets is not stepped. -/
def Core.stepCursors (k : Core) (effs : List Eff) : Core :=
  let row (n : Nat) : Nat := if effs.any fun e => e = .step n then 1 else 0
  let mtx (n : Nat) : Nat := total (effs.map fun e => match e with
    | .mtxSteps m c => if m = n then c else 0
    | _ => 0)
  (List.range 8).foldl (fun (k : Core) n =>
    let steps := row n + mtx n
    if steps = 0 then k else { k with c := put k.c n ((k.cursor n).after (twinEn k.twin) steps) }) k

/-- What commits in the task's own lists: launches and signals.  A launch takes the priority that its core had before this
dc's GPRIO (16 R298). -/
def Task.commitPost (before k : Task) (o : Owed) : Task :=
  let prio := (before.core o.core).launchPrio
  let add (isSignal now : Bool) (addr : Nat) (tag : BitVec 16) (value : Word) : Task :=
    { k with posts := k.posts ++ [⟨o.id, o.core, o.pc, isSignal, now, addr, tag, value, prio, k.dc, false⟩] }
  match o.eff with
  | .launch addr now =>
    if k.posts.any fun p => !p.isSignal && p.addr = addr then k else add false now addr 0 0
  | .signal tag value => add true true 0 tag value
  | .qsync reg => { k with qsyncs := k.qsyncs ++ [(o.core, o.id, reg)] }
  | _ => k

/-- Tile rows owed to a tile that a slot releases are discarded (06 R114). -/
def Task.dropReleased (k : Task) (o : Owed) : Task :=
  match o.eff with
  | .trel n => { k with owed := k.owed.filter fun w => !(w.core = o.core && match w.eff with
      | .tileRow t .. | .mtxRow t .. => t = n
      | _ => false) }
  | _ => k

/-- The registers that wait, from a dc on, for a result in global time (03 R65, R359). -/
def Owed.busy (o : Owed) (dc : Nat) : List Busy :=
  match o.eff with
  | .table _ _ _ _ reg .. | .hwait _ reg => if reg = 0 then [] else [⟨reg, o.id, o.dc⟩]
  | .qsync reg => if reg = 0 then [] else [⟨reg, o.id, dc + 1⟩]
  | _ => []

/-- Lines that a queued load reads: physical ones where they are mapped, those of a peer's frame, or those of a slice. -/
def State.loadLines (s : State) (a : QAcc) : List Nat :=
  if inWindow a.va then
    match a.target with
    | .slice c o => (spadLines o a.size).map fun ln => (s.task a.task).sliceLine c (64 * ln)
    | _ => []
  else (List.range ((a.va % 64 + a.size + 63) / 64)).filterMap fun i =>
    let va := 64 * (a.va / 64 + i)
    let ctx := (s.task a.task).ctx
    (s.physOf ctx va).map (· / 64) |>.or (match s.walk ctx va with
      | .ok pa leaf _ => some (peerAt (Machine.bits leaf 44 8) (pa % 2 ^ 44) / 64)
      | _ => none)

/-- Note the line of a queued load as it issues; a load that a rollback re-issues counts code 0x0C if another agent has
written its line (15 R280). -/
def State.markLoad (s : State) (a : QAcc) : State :=
  (s.loadLines a).foldl (fun (s : State) ln =>
    let k := s.task a.task
    let same (m : LoadMark) : Bool := m.core = a.core && m.pc = a.pc && m.line = ln
    let old := k.loadMarks.find? fun m => same m && m.rolled
    let s1 := if (old.map (·.hit)).getD false then s.recordEvent a.task a.core 0x0C a.pc else s
    s1.setTask a.task fun k =>
      { k with loadMarks := k.loadMarks.filter (fun m => !(same m && m.rolled)) ++ [⟨a.core, a.pc, ln, false, false⟩] }) s

/-- SFMASH (11 R229). -/
def State.commitMash (s : State) (o : Owed) : State :=
  match o.eff with
  | .sfmash n bill => { s with streams := upd s.streams Stream.start n fun st => { st with bill := bill } }
  | _ => s

/-- The bundles of the current dc commit: every core that issues goes to its next bundle, effects that stand from the next
dc on are made, the rest is owed, queued accesses go on their way (02 R23). -/
def State.commitAll (s : State) (t : Nat) : State :=
  let k := s.task t
  let now := s.issued.filter fun o => o.dc ≤ k.dc
  let later := s.issued.filter fun o => k.dc < o.dc
  let counts := k.cores.map fun e => (e.1, (s.countCore k e.1).1)
  let core (c : Nat) (q : Core) : Core :=
    if !q.ready k.dc then q
    else
      let mine := now.filter (·.core = c)
      let waits := (mine ++ later.filter (·.core = c)).flatMap (·.busy k.dc)
      let loads := (s.newQueue.filter fun a => a.core = c && a.dest ≠ 0).map fun a => (⟨a.dest, a.id, k.dc + 1⟩ : Busy)
      let q1 := { q with pc := q.pc + 1, busy := q.busy ++ waits ++ loads }
      mine.foldl (fun q o => q.commitOne k.dc o) (q1.stepCursors (mine.map (·.eff)))
  let k1 := { k with cores := mapVals k.cores core, owed := k.owed ++ later, counts := counts }
  let k2 := now.foldl (fun (k : Task) o => match o.eff.leafCore with
    | some c => k.setCore c (·.commitLeaf o)
    | none => k) k1
  let k3 := now.foldl (fun (q : Task) o => (k.commitPost q o).dropReleased o) k2
  let s1 := { s with tasks := put s.tasks t k3, queue := s.queue ++ s.newQueue }
  let s2 := now.foldl State.commitMash s1
  let s3 := (s.newQueue.filter fun a => a.kind.isLoad).foldl State.markLoad s2
  { s3 with issued := [], newQueue := [] }

/-- Breakpoints of the bundles that commit (04 R83). -/
def State.breaks (s : State) : List Trap :=
  s.issued.filterMap fun o => match o.eff with
    | .brk imm => some { Trap.plain o.core o.pc o.slot 4 0 with imm := imm }
    | _ => none

/-- The domain cycle ends (03 R48). -/
def State.endCycle (s : State) (t : Nat) : State :=
  s.setTask t fun k =>
    let k1 := { k with dc := k.dc + 1, mc := k.mc + 1, cores := mapVals k.cores fun _ c => c.settleHeads s.gcyc }
    if k.lastHalt = 0 && k1.cores.all (·.2.halted) then { k1 with lastHalt := k1.dc } else k1

/-- The precise schedule fault 0x2 of reads of the current dc that came before a copy of the same dc was issued (09 R194). -/
def State.lateReads (s : State) (t : Nat) : List Trap :=
  let k := s.task t
  (s.reads.filter (·.task = t)).filterMap fun r => (k.owedFail k.dc s.newCopies r.lines).map fun f =>
    { f with kind := if r.engine < 4 then 4 else 1 }.fill { Trap.plain r.core r.pc r.slot f.cause f.sub with engine := r.engine }

/-- The commit of the current dc, or the traps of it, in which case nothing of it commits; the breakpoint of a core is one of them where
another core has trapped (02 R23, 17 R304, R305). -/
def State.commit (s : State) (t : Nat) : State :=
  let k := s.task t
  let raised := k.raised ++ s.traps ++ s.lateReads t ++ s.overflowTraps t
  let all := if raised.isEmpty then [] else raised ++ s.breaks
  let clean := { s with traps := [], reads := s.reads.filter (·.task ≠ t) }
  if all.isEmpty then
    let stop := s.breaks
    let done := clean.commitAll t
    match stop with
    | [] => done.endCycle t
    | _ => (done.takeTraps t stop false).endCycle t
  else ({ clean with issued := [], newQueue := [] }.setTask t fun k => { k with raised := [] }).takeTraps t all false

end Sys2Proof.Machine
end

