-- ==== Sys2Proof/Machine/Domain.lean ====
section
/-!
DEFINITION. The timed domain in one reference period: the causes of a stall, the freeze and the save of a pre-emption, fault
service, and the end of a task (03 R50 to R61; 17 R309, R314; 14 R264; 24 R355).
-/

namespace Sys2Proof.Machine

/-- Put work at the head of what comes next. -/
def State.push (s : State) (ws : List Work) : State := { s with agenda := ws ++ s.agenda }

/-- The state that a step of its own answers, or the state before it. -/
def after (o : Out) (s : State) : State :=
  match o with
  | .next s' => s'
  | _ => s

/-! ### Table operations that fall due (08 R155) -/

/-- Owed table operations, binds and releases of a task that are due, as (group, physical core, id, event): streams before
heads, closes that wait for memory after them, then HWAIT.  `late`: only what completes in global time while the domain stands, a
close or an HWAIT whose perform dc has passed (03 R53, R359). -/
def State.dueTables (s : State) (t : Nat) (late : Bool) : List (Nat × Nat × Nat × Event) :=
  let k := s.task t
  k.owed.filterMap fun o =>
    let place (g : Nat) (e : Event) : Option (Nat × Nat × Nat × Event) := some (g, k.physCore o.core, o.id, e)
    if k.dc < o.dc || (late && o.dc = k.dc) then none
    else match o.eff with
      | .sfbind .. => if late then none else place 0 (.sfbindPerform t o.id)
      | .sfrel .. => if late then none else place 0 (.sfrelPerform t o.id)
      | .table .. =>
        if o.eff.isClose then
          if s.closeReady t o then place (if o.eff.isCloseWrite then 2 else 1)
            (if o.eff.isCloseWrite then .headCloseTableWrite t o.id else .tableOperationPerform t o.id) else none
        else if late then none else place 1 (.tableOperationPerform t o.id)
      | .hwait oid _ => if s.headSettled t o.core oid o.id then place 3 (.hwaitComplete t o.id) else none
      | _ => none

/-- In the order of 08 R155: by group, then by physical core. -/
def orderTables (l : List (Nat × Nat × Nat × Event)) : List Event :=
  let close (g : Nat) : Nat := if g = 2 then 1 else g
  (sortBy (fun e => close e.1 * 1024 + e.2.1) l).map (·.2.2.2)

/-- One of these operations. -/
def State.runTable (s : State) (e : Event) : State :=
  match e with
  | .sfbindPerform t id => after (execSfbindPerform t id s) s
  | .sfrelPerform t id => after (execSfrelPerform t id s) s
  | .tableOperationPerform t id => after (execTableOperationPerform t id s) s
  | .headCloseTableWrite t id => after (execHeadCloseTableWrite t id s) s
  | .hwaitComplete t id => after (execHwaitComplete t id s) s
  | _ => s

/-- The state in which the bundles of the next domain cycle will find their heads and registers. -/
def State.ahead (s : State) (t : Nat) : State := (orderTables (s.dueTables t false)).foldl State.runTable s

/-! ### Causes of a stall (03 R54) -/

/-- Whether the pulse of a global cycle is swallowed at a rate (24 R355). -/
def swallowed (rate gc : Nat) : Bool :=
  let j := gc % 64
  j * (64 - rate) / 64 < (j + 1) * (64 - rate) / 64

/-- Whether a group of a task opens in a global cycle (14 R263, R264). -/
def WheelAlloc.opens (w : WheelAlloc) (gc : Nat) : Bool := gc % 4096 % w.stride = w.base

/-- Causes outside the bundles: clock swallow or power hold, power-gate exit, inserted refreshes, fault service. -/
def State.outsideCauses (s : State) (t : Nat) : List Nat :=
  let k := s.task t
  (if k.held || swallowed k.rate s.gcyc then [1] else []) ++
    (match k.gated with
      | some g => if s.gcyc < g then [2] else []
      | none => []) ++
    ((k.stalls.filter fun e => s.gcyc < e.2).map (·.1)).eraseDups ++
    (if k.status = .service then [8] else [])

/-- Lines that the bundles about to issue, or the matrix engine's pops, wait for (08 R163). -/
def State.refillLines (s : State) (t : Nat) : List (Nat × Nat × Nat) :=
  let k := s.task t
  let bundles := (s.issuing t).flatMap fun e => match e.2 with
    | some b => s.missing t e.1 ((Bundle.instrs b).flatMap fun i => headUses i.2)
    | none => []
  let pops := k.cores.flatMap fun e => s.missing t e.1 (e.2.mtx.headPops k.mc)
  (bundles ++ pops).eraseDups

/-- Causes of the bundles about to issue: the scoreboard, busy registers, window lines, the wheel (03 R65, 14 R264). -/
def State.bundleCauses (s : State) (t : Nat) : List Nat :=
  let k := s.task t
  let a := s.ahead t
  let bundles := (s.issuing t).filterMap fun e => e.2.map fun b => (e.1, b)
  let any (p : Nat → Instr → Bool) : Bool := bundles.any fun e => (Bundle.instrs e.2).any fun i => p e.1 i.2
  let board := any fun c i => (k.core c).scoreboard k.mc i
  let busy := any fun c i => (usesOf i).reads.any ((a.core t c).isBusy k.dc ·)
  let wheel := match k.wheel with
    | some w => bundles.any (fun e => Bundle.isWheel e.2) && !w.opens s.gcyc
    | none => false
  (if board then [3] else []) ++ (if busy then [4] else []) ++
    (if (a.refillLines t).isEmpty then [] else [5]) ++ (if wheel then [9] else [])

/-- Every active cause.  A domain whose cores have all halted waits for no bundle. -/
def State.causes (s : State) (t : Nat) : List Nat := s.outsideCauses t ++ s.bundleCauses t

/-- An event of a cause on every core that has not halted, at its next bundle (17 R314). -/
def State.recordCause (s : State) (t code : Nat) : State :=
  s.setTask t fun k => { k with cores := mapVals k.cores fun _ c => if c.halted then c else c.record code c.pc }

/-- CLOCK_SWALLOW (24 R355): the domain's pulse is swallowed, one event for each maximal run. -/
def execClockSwallow (t : Nat) (s : State) : Out :=
  let k := s.task t
  .next (if k.held || swallowed k.rate s.gcyc then (if k.causes.contains 1 then s else s.recordCause t 1) else s)

/-- POWER_GATE_EXIT (03 R54): the unit is powered, within 480 gc of the need. -/
def execPowerGateExit (t : Nat) (s : State) : Out :=
  .next (match (s.task t).gated with
    | some g => if g ≤ s.gcyc then s.setTask t fun k => { k with gated := none } else s
    | none => s)

/-- WHEEL_GROUP_ISSUE (14 R264): the bundles that carry WHEEL issue at the opening of a group; each counts one event. -/
def execWheelGroupIssue (t : Nat) (s : State) : Out :=
  .next ((s.issuing t).foldl (fun (s : State) e =>
    if (e.2.map Bundle.isWheel).getD false then s.recordEvent t e.1 9 (s.core t e.1).pc else s) s)

/-! ### Work outside domain time -/

/-- Lines behind the heads of a task that go to memory now (08 R158). -/
def State.flushAll (s : State) (t : Nat) : State :=
  (s.task t).cores.foldl (fun (s : State) e => (s.flushable t e.1).foldl (fun s b => s.flushLine t e.1 b) s) s

/-- A stalled period of a domain: its causes are recorded, missing lines are asked for, and what completes in global time
goes on. -/
def State.stalledPeriod (s : State) (t : Nat) : State :=
  let causes := s.causes t
  let k := s.task t
  let fresh := causes.filter fun c => !k.causes.contains c && c ≠ 1 && c ≠ 9
  let s1 := fresh.foldl (fun (s : State) c => s.recordCause t c) s
  let s2 := s1.setTask t fun k => { k with causes := causes, stallLen := k.stallLen + 1 }
  let s3 := if causes.contains 5 && k.refill.isNone then
      let (n, s') := s2.free
      s'.setTask t fun k => { k with refill := some (s.gcyc + 1 + n, (s.ahead t).refillLines t) }
    else s2
  let s4 := s3.flushAll t
  let fetch := match (s4.task t).refill with
    | some (due, _) => if due ≤ s.gcyc then [Work.auto (.headRefillFetch t)] else []
    | none => []
  s4.push (fetch ++ if causes = [3] then [.stage (.matrix t), .stage (.close t)] else [])

/-! ### The domain cycle, phase by phase -/

/-- Timed writes of the current dc, in order of issue. -/
def State.timedEvents (s : State) (t : Nat) : List Event :=
  let k := s.task t
  (k.owed.filter (·.dc ≤ k.dc)).filterMap fun o => match o.eff with
    | .leafWrite .. => some (.walkerLeafWritePerform t o.id)
    | .headWrite .. => some (.headWritePerform t o.id)
    | e => if e.isTimed then some (.timedWritePerform t o.id) else none

/-- Whether a command is a plain write, a reducing write or a sequence load (09 R188, 12 R238). -/
def CmdOp.rank : CmdOp → Nat
  | .reduce .. => 1
  | .qload .. => 2
  | _ => 0

/-- Engine commands that perform in the current dc, in the order of 09 R188: those that are executing, and runs that start in this dc and
perform in it too, since they read no line and pass no bill (11 R224). -/
def State.performEvents (s : State) (t : Nat) : List Event :=
  let k := s.task t
  let due := k.cores.flatMap fun c => c.2.engines.flatMap fun e =>
    (e.2.running.toList.filterMap fun r => if r.cmd.perform ≤ k.dc then some (c.1, e.1, false, r.cmd) else none) ++
      e.2.pending.filterMap fun x => if e.1 = 5 && x.start = k.dc && x.perform = k.dc then some (c.1, e.1, true, x) else none
  (sortBy (fun x => x.2.2.2.op.rank * 2 ^ 64 + x.2.2.2.issueGc) due).flatMap fun x =>
    if x.2.1 = 5 then (if x.2.2.1 then [Event.engineCommandStart t x.1 5] else []) ++ [.streamRunPerform t x.1]
    else if x.2.1 = 6 then [.sequenceEnginePerform t x.1] else [.copyPerform t x.1 x.2.1]

/-- Commands that start in the current dc. -/
def State.startEvents (s : State) (t : Nat) : List Event :=
  let k := s.task t
  k.cores.flatMap fun c => c.2.engines.filterMap fun e =>
    if e.2.pending.any (·.start = k.dc) then some (.engineCommandStart t c.1 e.1) else none

/-- A read of this dc that the drain of a freeze has made ahead requests its banks now and meets the early-read checker (09 R176,
R194, log 103). -/
def State.claimCapture (s : State) (t : Nat) (e : Capture) : State :=
  let bad (f : Fail) : State :=
    s.trapAt t e.core e.pc e.slot e.engine f.cause f.sub { f with kind := if e.kind = 4 then 4 else 1 }.fill
  if e.ranges.isEmpty then s
  else match s.claim t e.core e.kind e.pc (rangeLines e.ranges) with
    | .error f => bad f
    | .ok s1 =>
      match s.early t e.core e.dc e.ranges with
      | some f => bad f
      | none => s1.noteRead t e.core e.engine e.slot e.pc e.ranges

/-- Source reads of the engines that were already running. -/
def State.readSources (s : State) (t : Nat) : State :=
  let k := s.task t
  let s := (k.captured.filter (·.dc = k.dc)).foldl (fun (s : State) e => s.claimCapture t e) s
  (k.cores.flatMap fun c => c.2.engines.filterMap fun e => e.2.running.map fun _ => (c.1, e.1)).foldl
    (fun (s : State) x => s.engineRead t x.1 x.2) s

/-- Copies that an uncorrectable line has suspended. -/
def State.suspendEvents (s : State) (t : Nat) : List Event :=
  (s.task t).cores.flatMap fun c => c.2.engines.filterMap fun e =>
    e.2.running.bind fun r => r.suspended.map fun _ => .copySuspend t c.1 e.1

/-- Commands of 10 R204 whose last dc has come with lines left. -/
def State.deadlineEvents (s : State) (t : Nat) : List Event :=
  let k := s.task t
  (k.debts.filter fun d => d.deadline ≤ k.dc && !d.lines.isEmpty).map fun d => .streamDeadlineFault t d.core d.engine

/-- The matrix engines of a task at an mc: pops, then what falls due. -/
def State.matrixStage (s : State) (t : Nat) : State :=
  let s1 := (s.task t).cores.foldl (fun (s : State) e => s.mtxPops t e.1) s
  let k := s1.task t
  s1.push ((k.cores.flatMap fun e => e.2.mtx.due t e.1 k.mc).map .auto)

/-- The end of an mc: swaps and loads that begin, and what it brings to an end. -/
def State.matrixEnd (s : State) (t : Nat) : State :=
  (s.task t).cores.foldl (fun (s : State) e =>
    (s.mtxBegin t e.1).setMtx t e.1 fun m => m.prune (s.task t).mc (s.task t).dc) s

/-- The end of a stalled period in which the matrix engines advanced. -/
def State.closeStage (s : State) (t : Nat) : State :=
  let s1 := (s.matrixEnd t).setTask t fun k =>
    { k with mc := k.mc + 1, cores := mapVals k.cores fun _ c => c.settleHeads s.gcyc }
  let raised := (s1.task t).raised
  if raised.isEmpty then s1 else (s1.setTask t fun k => { k with raised := [] }).takeTraps t raised

/-- Whether the bundles of the coming dc hold an instruction, or an engine has a command to start at it: work for units and banks that
may be gated (03 R54). -/
def State.needsUnits (s : State) (t : Nat) : Bool :=
  let k := s.task t
  (s.issuing t).any (fun e => match e.2 with
    | some b => (Bundle.instrs b).any (·.2 ≠ .nop)
    | none => false) ||
  k.cores.any fun c => c.2.engines.any fun e => e.2.pending.any (·.start = k.dc)

/-- A unit or bank that the coming dc needs may be gated: which, when and for how long, up to 480 gc, is left open (03 R54; log 110). -/
def State.gateStage (s : State) (t : Nat) : State :=
  if s.needsUnits t && (s.task t).gated.isNone then
    let (n, s1) := s.free
    if n = 0 then s1 else s1.setTask t fun k => { k with gated := some (s.gcyc + 1 + n % 480) }
  else s

/-- The issue of the current dc: a trap raised before it ends the cycle; else a rollback point may be set, every bundle is
checked, and its slots come next. -/
def State.issueStage (s : State) (t : Nat) : State :=
  let raised := (s.task t).raised
  if !raised.isEmpty then (s.setTask t fun k => { k with raised := [] }).takeTraps t raised
  else
    let s1 := s.matrixEnd t
    let s2 := if s1.atRestart t then s1.setTask t (·.newShadow s1.nextId) else s1
    let bundles := s2.issuing t
    let traps := bundles.filterMap fun e => e.2.bind (s2.bundleTrap t e.1)
    let slots := bundles.flatMap fun e => match e.2 with
      | some b => if traps.any (·.core = e.1) then [] else
          ((List.range 4).filter fun i => !(i = 0 && b.hdr.isSome)).map (Work.slot t e.1)
      | none => [.slot t e.1 0]
    let wheel := if bundles.any fun e => (e.2.map Bundle.isWheel).getD false then [Work.auto (.wheelGroupIssue t)] else []
    let closes := if (s2.task t).cores.all (·.2.halted) then [Work.auto (.taskEndCloses t)] else []
    ({ s2 with traps := traps, issued := [], newQueue := [] }).push (wheel ++ closes ++ slots ++ [Work.stage (.commit t), Work.stage (.gate t)])

/-! ### The end of a task (03 R50) -/

/-- Streams of a task that are bound, with no run left and no release on its way. -/
def State.releasable (s : State) (t : Nat) : List Nat :=
  (s.streams.filter fun e => e.2.owner = some t && e.2.bound && (s.streamRuns t e.1).isEmpty && !s.releasing t e.1 &&
    (e.2.runs = 0 || e.2.lastP < (s.task t).dc)).map (·.1)

/-- TASK_END_CLOSES: an HCLOSE for every head still open, and an SFREL for every stream still bound whose last run has
performed. -/
def execTaskEndCloses (t : Nat) (s : State) : Out :=
  let k := s.task t
  let heads := k.cores.flatMap fun c => (c.2.h.filter fun h => h.2.status = .opened).map fun h => (c.1, h.1, h.2)
  let owe (s : State) (core : Nat) (e : Eff) : State :=
    State.setTask { s with nextId := s.nextId + 1 } t fun k =>
      { k with owed := k.owed ++ [⟨s.nextId, core, (k.core core).pc, 0, k.dc + 320, e⟩] }
  let close (s : State) (x : Nat × Nat × Head) : State :=
    let op := if x.2.2.mode = .read then TableOp.closeRead else .closeWrite x.2.2.mode false x.2.2.pos
    (owe s x.1 (.table x.2.1 x.2.2.handle x.2.2.oid op 0 s.gcyc true)).setCore t x.1 fun c =>
      { c with h := put c.h x.2.1 Head.start }
  .next (if k.cores.all (·.2.halted) then
    (s.releasable t).foldl (fun s n => owe s (s.stream n).core (.sfrel n (s.stream n).gen s.gcyc)) (heads.foldl close s)
  else s)

/-- Whether everything the task owes is done (03 R50). -/
def State.taskDone (s : State) (t : Nat) : Bool :=
  let k := s.task t
  k.status = .running && 0 < k.lastHalt && k.lastHalt < k.dc + 1 && k.owed.isEmpty && k.raised.isEmpty &&
    k.cores.all (fun c => c.2.halted && c.2.mtx.idle k.mc && c.2.behind.isEmpty &&
      c.2.engines.all (fun e => e.2.pending.isEmpty && e.2.running.isNone) && c.2.h.all (fun h => h.2.status = .closed)) &&
    !(s.streams.any fun e => e.2.owner = some t && e.2.bound)

/-- A head that a failing task leaves open closes; what it has written reaches memory. -/
def State.dropHead (s : State) (t core : Nat) (h : Head) : State :=
  let ctx := (s.task t).ctx
  let i := h.handle.toNat % 2 ^ 16
  let op := if h.mode = .read then TableOp.closeRead else .closeWrite h.mode false h.pos
  match tableEffect (s.tape ctx i) false ((s.task t).physCore core) op with
  | .ok e => s.setTape ctx i e
  | .error _ => s

/-- A failed task's heads close and its streams are released, as at a task's end (17 R310). -/
def State.dropAll (s : State) (t : Nat) : State :=
  let k := s.task t
  let s1 := k.cores.foldl (fun (s : State) c => c.2.behind.foldl (fun s b => s.flushLine t c.1 b) s) s
  let s2 := k.cores.foldl (fun (s : State) c =>
    c.2.h.foldl (fun (s : State) h => if h.2.status = .opened then s.dropHead t c.1 h.2 else s) s) s1
  (s2.streams.filter fun e => e.2.owner = some t && e.2.bound).foldl (fun (s : State) e => s.releaseStream t e.2.core 0 e.1) s2

/-- TASK_END (03 R50, 17 R310): the task is over; its node completes once its queued accesses have performed. -/
def execTaskEnd (t : Nat) (s : State) : Out :=
  let k := s.task t
  .next (if k.status = .failed && !k.closed then
    (s.dropAll t).setTask t fun k => { k with closed := true, cores := mapVals k.cores fun _ c => { c with h := [], behind := [] } }
  else if s.taskDone t then s.setTask t fun k => { k with status := .ended, closed := true }
  else s)

/-! ### Pre-emption (03 R57 to R61) -/

/-- Whether the domain freezes now: the first dc at or after the request at which every core is about to issue a restart
bundle and no other cause is active. -/
def State.freezes (s : State) (t : Nat) : Bool :=
  let k := s.task t
  k.status = .running && k.preempt && k.raised.isEmpty && (k.freezeDc ≠ k.dc + 1) && (s.causes t).isEmpty && s.atRestart t

/-- Read piece `m` of a running command's source ahead of its dc, from the data of the freeze, and keep the read for the capture
check (03 R61). -/
def State.drainPiece (s : State) (t c e m : Nat) : State :=
  match ((s.core t c).engine e).running with
  | none => s
  | some r =>
    if m < r.chunks || r.suspended.isSome then s
    else
      let k := s.task t
      let list := r.cmd.op.listChunk m
      let idx := r.indices ++ (match list with
        | some (a, n) => k.spadBytes a n
        | none => [])
      let src := r.cmd.op.sourceChunk m idx
      let ranges := list.toList ++ src
      let s1 := if ranges.isEmpty then s
        else match (rangeLines ranges).findSome? fun l => (k.core (l / 2 ^ 16)).sramFail 3 (l % 2 ^ 16) with
          | some f => s.cmdTrap t c e r.cmd f
          | none => (s.setEngine t c e fun g => { g with running := some (s.readPiece t r m idx src) }).setTask t fun k =>
                { k with captured := k.captured ++ [⟨c, e, r.cmd.slot, r.cmd.pc, 4, r.cmd.start + m, ranges, []⟩] }
      s1.engineMemoryRead t c e m

/-- Read what is left of a running command's source. -/
def State.drainEngine (s : State) (t c e : Nat) : State :=
  match ((s.core t c).engine e).running with
  | none => s
  | some r => (List.range (r.cmd.perform - r.cmd.start)).foldl (fun (s : State) m => s.drainPiece t c e m) s

/-- One mc of the drain of a core's matrix engine, whose pops fall in domain cycle `dc` of a run without the freeze: the dc of the
freeze and the mc's distance from it, as if no stall of code 0x03 followed (07 R150; log 125). -/
def State.drainMc (s : State) (t c mc dc : Nat) : State :=
  let s1 := State.setTask { s with banks := [] } t fun k => { k with mc := mc }
  let m := (s1.core t c).mtx
  let s2 := (s1.missing t c (m.headPops mc)).foldl (fun (s : State) e => s.fetchLine t e.1 e.2.1 e.2.2 false) s1
  let caps := (m.popsAt mc).flatMap (s2.capturePop t c dc)
  let s3 := (s2.setTask t fun k => { k with captured := k.captured ++ caps }).mtxPops t c
  ((s3.core t c).mtx.due t c mc).foldl State.runMatrix { s3 with banks := s.banks }

/-- Every started matrix command of a core completes into the state; commands that wait keep their mc, and so do busy bits (07
R150). -/
def State.drainMatrix (s : State) (t c : Nat) : State :=
  let k := s.task t
  let (mine, rest) := (s.core t c).mtx.started k.mc
  let s1 := (List.range (mine.doneBy + 1 - k.mc)).foldl (fun (s : State) i => s.drainMc t c (k.mc + i) (k.dc + i))
    (s.setMtx t c fun _ => mine)
  (s1.setTask t fun k' => { k' with mc := k.mc }).setMtx t c fun m =>
    { m with fills := rest.fills, loads := rest.loads, mmas := rest.mmas, awrs := rest.awrs }

/-- The drain of a domain (03 R58). -/
def State.drain (s : State) (t : Nat) : State :=
  (s.task t).cores.foldl (fun (s : State) c =>
    (c.2.engines.foldl (fun (s : State) e => s.drainEngine t c.1 e.1) s).drainMatrix t c.1) s

/-- Bytes that the spec's writes take in the shadow result buffer: the bytes written, without tag and destination; a table operation
takes none (03 R58, log 104). -/
def Eff.bufferBytes (e : Eff) : Nat :=
  match e with
  | .scalar .. => 8
  | .pred .. => 16
  | .tileRow .. | .mtxRow .. | .seqRow .. => 512
  | .seqV .. | .seqL .. | .seqE .. => 4
  | .spad _ l _ | .leafWrite _ _ _ l _ => l.length
  | .headWrite _ _ f l .. => ceilDiv (elemBits f * l.length) 8
  | _ => 0

/-- The same of a started command. -/
def State.cmdBytes (s : State) (t : Nat) (r : Running) : Nat :=
  match r.cmd.op with
  | .run n slot _ _ _ =>
    let st := s.stream n
    let count := recCount st.record
    let leaf := ((s.bill t slot).map (·.leaf)).getD false
    let out := if st.scatter then recFormat st.record else (s.tape (s.task t).ctx (st.handle.toNat % 2 ^ 16)).format.toNat
    let bytes := ceilDiv (elemBits out * count) 8
    if st.scatter && leaf then ceilDiv bytes 4096 * 4160 else bytes
  | op => op.length

/-- Bytes that a core's owed writes take in its shadow result buffer (03 R58, 11 R231, 12 R240). -/
def State.owedBytes (s : State) (t c : Nat) : Nat :=
  let k := s.task t
  total ((k.owed.filter (·.core = c)).map (·.eff.bufferBytes)) +
    total ((k.core c).engines.map fun e => match e.2.running with
      | some r => s.cmdBytes t r
      | none => 0)

/-- The buffer of 64 KiB and its spill of 1 MiB (03 R58). -/
def shadowLimit : Nat := 65536 + 1048576

/-- PREEMPT_FREEZE: the domain stops before the restart bundles and is drained; where a core owes more than the buffer and its spill
hold, the device declines: the domain goes on at F, and the freeze is tried again at a later dc. -/
def execPreemptFreeze (t : Nat) (s : State) : Out :=
  .next (if !s.freezes t then s
  else
    let (n, s1) := s.free
    let s2 := (s1.recordCause t 0x0A).drain t
    if (s2.task t).cores.any fun c => shadowLimit < s2.owedBytes t c.1 then
      s2.setTask t fun k => { k with freezeDc := k.dc + 1 }
    else
      (s2.setTask t fun k =>
        { k with status := .frozen, freezeDc := 0, saveGc := s.gcyc + 1 + n, causes := [], stallLen := 0, refill := none }).push
        ((s2.suspendEvents t).map .auto))

/-- PREEMPT_SAVE (03 R59, 13 R246): once every queued access has performed and no fault of the drain is being served, the
context is saved; quires, channels and fabric allotments return to the pool, and the task waits to be bound again. -/
def execPreemptSave (t : Nat) (s : State) : Out :=
  let k := s.task t
  .next (if k.status = .frozen && k.saveGc ≤ s.gcyc && k.raised.isEmpty && s.queue.all (·.task ≠ t) then
    let s := s.drain t
    if (s.task t).suspends then s.push ((s.suspendEvents t).map .auto) else
    let mine := s.streams.filter fun e => e.2.owner = some t
    let s1 := s.setTask t fun k => { k with status := .saved, preempt := false, savedStreams := mine }
    { s1 with
      quireOwner := s.quireOwner.filter fun e => e.2 ≠ t
      chanOwner := s.chanOwner.filter fun e => e.2 ≠ t
      mashOwner := mapVals s.mashOwner fun _ l => l.filter (· ≠ t)
      streams := s.streams.map fun e => if e.2.owner = some t then (e.1, { Stream.start with gen := e.2.gen }) else e
      ready := s.ready ++ [⟨k.ctx, k.node, ((s.readWord k.ctx k.node).map fun w => bits w 6 4).getD 0, k.prio, k.readyGc, s.gcyc, k.attempt, some t⟩] }
  else s)

/-! ### Fault service (17 R309, 15 R280) -/

/-- FAULT_SERVICE_RESUME: Floor resumes the domain, or fails the kernel with its cause.  After copies' memory errors the
controller has read each line twice more, which decides: where every line reads clean, the engines replay before the domain goes on,
and otherwise the kernel fails (17 R305, R309). -/
def execFaultServiceResume (t : Nat) (resume : Bool) (s : State) : Out :=
  s.up fun s => match (s.task t).service with
    | none => s
    | some v =>
      match v.kind with
      | .brk | .pageFault => if resume then s.resumeService t else s.failService t
      | .copyError =>
        if s.stillFails t then s.failService t
        else
          let (n, s1) := s.free
          s1.setTask t fun k => { k with service := some { v with kind := .replay (s.gcyc + 1 + n) } }
      | .replay _ => s

/-- SERVICE_TIMEOUT: 1,000 ms after SERVICE was set the kernel fails with the original cause. -/
def execServiceTimeout (t : Nat) (s : State) : Out :=
  .next (match (s.task t).service with
    | some v => match v.kind with
      | .replay .. => s
      | _ => if v.deadline ≤ s.gcyc then s.failService t else s
    | none => s)

/-! ### The clock (24 R354 to R356) -/

/-- RATE_CHANGE (24 R355): at the start of an aligned block of 64 global cycles. -/
def execRateChange (t r : Nat) (s : State) : Out :=
  .next (if s.gcyc % 64 = 0 && (s.task t).nextRate = r then s.setTask t fun k => { k with rate := r } else s)

/-- POWER_HOLD_END (24 R356): the domain runs at 32 of 64 pulses again, from the start of a block (24 R355). -/
def execPowerHoldEnd (t : Nat) (s : State) : Out :=
  .next (if s.gcyc % 64 = 0 && (s.task t).held then s.setTask t fun k => { k with held := false, rate := 32, nextRate := 32 } else s)

end Sys2Proof.Machine
end

