-- ==== Sys2Proof/Machine/Dram.lean ====
section
/-!
DEFINITION. The command timelines of owned channels, refresh, guarded mode, patrol scrub and row retirement (10 R201 to R208).
-/

namespace Sys2Proof.Machine

/-! ### Figures (10 R203) -/

/-- JEDEC figures of a tier in dc. -/
structure Jedec where
  rcd : Nat
  rp : Nat
  ras : Nat
  rc : Nat
  rrd : Nat
  bl : Nat
  rfcPb : Nat
  rfcAb : Nat
  deriving DecidableEq, Repr

def jedec (phys : Nat) : Jedec :=
  if phys < 512 then ⟨38, 38, 77, 115, 5, 5, 288, 840⟩ else ⟨43, 43, 101, 144, 10, 8, 336, 672⟩

/-- A timeline entry's fields (10 R202). -/
def windowOf (i : Nat) (e : Word) : Window := ⟨i, bits e 28 4, bits e 24 4, bits e 16 8, bits e 0 16⟩
def entryDc (e : Word) : Nat := bits e 32 32

/-- Dcs of the data lines of a window at dc `t`. -/
def dataLines (j : Jedec) (w : Window) (t : Nat) : List Nat :=
  match w.cmd with
  | 1 => [t + j.rcd]
  | 2 => (List.range w.lines).map fun i => t + j.rcd + i * j.bl
  | _ => []

/-- PRE of a window at dc `t`, and the dc until which its bank is busy. -/
def windowPre (j : Jedec) (w : Window) (t : Nat) : Nat :=
  if w.cmd = 2 then max (t + j.ras) (t + j.rcd + w.lines * j.bl + 12) else t + j.ras

def windowBusy (j : Jedec) (w : Window) (t : Nat) : Nat :=
  match w.cmd with
  | 1 => t + j.rc
  | 2 => windowPre j w t + j.rp
  | 3 => t + j.rfcPb
  | _ => t + j.rfcAb

/-- Entries of a section due at a dc (10 R202), each with its index. -/
def TimelineSec.due (c : Option (Nat × Nat)) (entries : List Word) (dc : Nat) : List Window :=
  ((List.range entries.length).zip entries).filterMap fun e =>
    let hit : Bool := match c with
      | none => entryDc e.2 = dc
      | some (from', period) => from' ≤ dc && (dc - from') % period = entryDc e.2
    if hit then some (windowOf e.1 e.2) else none

/-! ### The checker (10 R205, 17 R307) -/

/-- The lowest rule number that a window at dc `t` breaks, the JEDEC rules before the bank-busy times.  tRP runs from a PRE that
has been given: an ACT before the earlier window's PRE breaks tRC or the bank's busy time (log 33). -/
def TimelineRun.broken (r : TimelineRun) (w : Window) (t : Nat) : Option Nat :=
  let j := jedec r.phys
  let banks := if w.cmd = 4 then List.range 16 else [w.bank]
  let opens := w.cmd = 1 || w.cmd = 2
  let since (m : SMap Nat) (b n : Nat) : Bool := match find? m b with
    | some x => t < x + n
    | none => false
  let rules : List (Nat × Bool) :=
    [(2, opens && since r.pre w.bank j.rp && !since r.pre w.bank 0), (4, opens && since r.act w.bank j.rc),
     (5, opens && r.act.any fun e => e.1 ≠ w.bank && t < e.2 + j.rrd),
     (6, (dataLines j w t).any fun x => r.lines.any fun y => x < y + j.bl && y < x + j.bl),
     (7, banks.any fun b => t < get r.refUntil 0 b), (8, t < r.refAll),
     (9, banks.any fun b => t < get r.busyUntil 0 b)]
  (rules.find? (·.2)).map (·.1)

def State.setRun (s : State) (t rel : Nat) (f : TimelineRun → TimelineRun) : State :=
  s.setTask t fun k => { k with timelines := upd k.timelines TimelineRun.start rel f }

/-- The timeline's core: that of the first .timetable entry, or relative core 0 (10 R203). -/
def State.timelineCore (s : State) (t : Nat) : Nat := ((s.kernel t).bind fun k => k.timetable.head?.map (·.core)).getD 0

/-- The timing fault 0x6 of a window: recorded by the timeline's core as the memory controller's (17 R305, R307). -/
def State.windowFault (s : State) (t rel phys index rule : Nat) : State :=
  let c := s.timelineCore t
  s.trapAt t c (s.core t c).pc 0 7 5 6 fun tr => { tr with
    mask := 0, d8 := BitVec.ofNat 64 (phys + index * 2 ^ 16 + rule * 2 ^ 32 + rel * 2 ^ 40) }

/-! ### Refresh stamps (10 R206) -/

/-- Row groups of a bank of a channel, and its rows. -/
def State.groups (s : State) (ch : Nat) : Nat := if ch < 512 then 4096 else s.subChannel / (16 * 1024 * 16)
def State.bankRows (s : State) (ch : Nat) : Nat := 16 * s.groups ch

/-- The stamp of a group of an owned channel: what the timeline has known since its binding, or an age that the spec leaves open,
below the limit at which R207 would have refreshed it (log 2). -/
def State.stampOf (s : State) (r : TimelineRun) (bank group : Nat) : Nat :=
  let known := get s.dram.stamps 0 (stampKey r.phys bank group)
  if r.boundAt ≤ known then known else max known (r.boundAt - Config.freeNat (r.ages + bank * 2 ^ 20 + group) % r.limit)

/-- The group of a bank with the oldest stamp, the lowest of several. -/
def State.oldestGroup (s : State) (r : TimelineRun) (bank : Nat) : Nat :=
  ((List.range (s.groups r.phys)).foldl (fun (best : Option (Nat × Nat)) g =>
    let v := s.stampOf r bank g
    match best with
    | none => some (g, v)
    | some (_, w) => if v < w then some (g, v) else best) none).map (·.1) |>.getD 0

/-- A group is refreshed: stamped, and a row of it whose copy to a spare is complete is switched (10 R206, R208).  The spare's score
starts at 0 (log 130). -/
def State.refreshGroup (s : State) (ch bank group : Nat) : State :=
  let switched (row : Nat) : Bool := row / 2 ^ 24 = 16 * ch + bank && row % 2 ^ 24 / 16 = group
  let s1 := s.stamp ch bank group
  { s1 with dram := { s1.dram with
      copying := s1.dram.copying.filter fun r => !switched r.1
      scores := s1.dram.copying.foldl (fun m r => if switched r.1 then erase m r.1 else m) s1.dram.scores } }

/-! ### Data commands (10 R203, R204; 08 R162) -/

/-- The line a FILL window brings in: the nearest one from the home line on, in the head's direction, that lies in the range,
is not held and is stored on the channel. -/
def State.fillLine (s : State) (t core h ch : Nat) : Option Nat :=
  let hd := (s.core t core).head h
  let e := hd.entry s t
  let home := lineOf hd.fmt hd.at
  let last := lineOf hd.fmt ((e.length.toNat : Int) - 1)
  let cand := (List.range 96).map fun (i : Nat) => if hd.back then home - i else home + i
  (cand.filter fun l => 0 ≤ l && l ≤ last).map (·.toNat) |>.find? fun l =>
    !hd.held.contains l && !(hd.coming.any (·.1 = l)) && ((s.physOf (s.task t).ctx (e.base.toNat + 64 * l)).bind s.channel) = some ch

/-- What a FILL window moves: a line of its head to fetch, or a line written through it to one of the places it goes to, the oldest that
has such a place on the channel (10 R203, log 115). -/
def State.fillMove (s : State) (t ch h : Nat) : Option (Sum Nat (Behind × Nat)) :=
  let c := s.timelineCore t
  let q := s.core t c
  let hd := q.head h
  let here (va : Nat) : Bool := (s.physOf (s.task t).ctx va).bind s.channel = some ch
  let back : Option (Sum Nat (Behind × Nat)) :=
    ((q.behind.filter (·.oid = hd.oid)).findSome? fun b => (b.goes.find? here).map fun g => (b, g)).map .inr
  if hd.status ≠ .opened then none
  else if hd.mode = .append then back
  else match s.fillLine t c h ch with
    | some l => some (.inl l)
    | none => if hd.mode = .update then back else none

/-- A FILL window's data command. -/
def State.moveFill (s : State) (t ch h : Nat) : State :=
  let c := s.timelineCore t
  match s.fillMove t ch h with
  | some (.inl l) => s.fetchLine t c h l true
  | some (.inr x) => s.flushPlace t c x.1 x.2
  | none => s

/-- The command that a tag of the kernel's .timetable names: core, engine, start cycle. -/
def State.tagged (s : State) (t tag : Nat) : Option (Nat × Nat × Nat) :=
  (s.kernel t).bind fun k => (k.timetable.find? (·.tag = tag)).map fun e => (e.core, e.engine, e.start)

/-- The next owed line that a STREAM window may move: of its bank, on its channel, in the row it has opened. -/
def State.streamLine (s : State) (t ch : Nat) (w : Window) (row : Option Nat) : Option (Debt × Nat) :=
  (s.tagged t w.target).bind fun x =>
    let fits (l : Nat) : Bool :=
      let off := s.channelOffset (64 * l)
      s.channel (64 * l) = some ch && bankOf off = w.bank && row.all (rowNumber off = ·)
    ((s.task t).debts.find? fun d => d.core = x.1 && d.engine = x.2.1 && d.start = x.2.2).bind fun d => (d.lines.find? fits).map fun l => (d, l)

/-- A STREAM window's data command. -/
def State.moveStream (s : State) (t rel ch : Nat) (m : Move) : State :=
  match s.streamLine t ch m.w m.row with
  | none => s
  | some (d, l) =>
    let row := rowNumber (s.channelOffset (64 * l))
    let moved (x : Debt) : Debt := if x = d then { x with lines := x.lines.filter (· ≠ l) } else x
    let opened (x : Move) : Move := if x.w = m.w && x.start = m.start then { x with row := some row } else x
    let s1 := s.setTask t fun k => { k with debts := k.debts.map moved }
    let s2 := s1.setRun t rel fun r => { r with
      moves := r.moves.map opened, rows := if m.row.isNone then put r.rows m.w.bank row else r.rows }
    if m.row.isNone then s2.stampLine l else s2

/-- The row that the controller opens for a window: that of the line the window would move now, where it lies in the window's bank. -/
def State.windowRow (s : State) (t ch : Nat) (w : Window) : Option Nat :=
  let row (pa : Nat) : Option Nat :=
    let off := s.channelOffset pa
    if bankOf off = w.bank then some (rowNumber off) else none
  if w.cmd = 2 then ((s.streamLine t ch w none).map fun x => 64 * x.2).bind row
  else ((s.fillMove t ch w.target).bind fun m =>
    let q := s.core t (s.timelineCore t)
    s.physOf (s.task t).ctx (match m with
      | .inl l => ((q.head w.target).entry s t).base.toNat + 64 * l
      | .inr x => x.2)).bind row

/-- A window at the current dc: it is expanded and checked, its ACT opens and stamps a row that the controller chooses, its banks are
reserved, its data commands are to come (10 R203, R206; log 115). -/
def State.openWindow (s : State) (t ch : Nat) (w : Window) : State :=
  let k := s.task t
  match k.timeline ch with
  | none => s
  | some (rel, r) =>
    match r.broken w k.dc with
    | some rule => s.windowFault t rel ch w.index rule
    | none =>
      let j := jedec ch
      let busy := windowBusy j w k.dc
      let data := dataLines j w k.dc
      let banks := if w.cmd = 4 then List.range 16 else [w.bank]
      let row := if w.cmd ≤ 2 then s.windowRow t ch w else none
      let (n, s1) := s.free
      let opened := row.getD (n % s.bankRows ch)
      let s2 := if w.cmd ≤ 2 then s1.stamp ch w.bank (opened / 16) else s
      s2.setRun t rel fun r => { r with
        rows := if w.cmd ≤ 2 then put r.rows w.bank opened else r.rows
        act := if w.cmd ≤ 2 then put r.act w.bank k.dc else r.act
        pre := if w.cmd ≤ 2 then put r.pre w.bank (windowPre j w k.dc) else r.pre
        busyUntil := banks.foldl (fun m b => put m b (max busy (get m 0 b))) r.busyUntil
        refUntil := if w.cmd = 3 then put r.refUntil w.bank busy else r.refUntil
        refAll := if w.cmd = 4 then busy else r.refAll
        lines := (r.lines.filter fun x => k.dc < x + j.bl) ++ data
        moves := r.moves ++ data.map fun x => ⟨x, w, k.dc, if w.cmd = 2 then row else none⟩ }

/-- Every data command of the current dc. -/
def State.runMoves (s : State) (t : Nat) : State :=
  let dc := (s.task t).dc
  (s.task t).timelines.foldl (fun (s : State) e =>
    let n := (e.2.moves.filter (·.dc ≤ dc)).length
    let s1 := (List.range n).foldl (fun (s : State) _ =>
      match (get (s.task t).timelines TimelineRun.start e.1).moves.find? (·.dc ≤ dc) with
      | none => s
      | some m =>
        let s1 := if m.w.cmd = 1 then s.moveFill t e.2.phys m.w.target else s.moveStream t e.1 e.2.phys m
        s1.setRun t e.1 fun r => { r with moves := r.moves.eraseP (·.dc ≤ dc) }) s
    s1) s

/-- TIMELINE_FILL (10 R203). -/
def execTimelineFill (t ch : Nat) (w : Window) (s : State) : Out := .next (s.openWindow t ch w)

/-- TIMELINE_STREAM (10 R203). -/
def execTimelineStream (t ch : Nat) (w : Window) (s : State) : Out := .next (s.openWindow t ch w)

/-- A refresh window: it refreshes the group with the oldest stamp in each bank it names. -/
def State.refreshWindow (s : State) (t ch : Nat) (w : Window) (banks : List Nat) : State :=
  let s1 := s.openWindow t ch w
  match (s.task t).timeline ch with
  | some (_, r) =>
    if (r.broken w (s.task t).dc).isSome then s1
    else banks.foldl (fun (s : State) b => s.refreshGroup ch b (s.oldestGroup r b)) s1
  | none => s1

/-- TIMELINE_REFPB (10 R203, R206). -/
def execTimelineRefpb (t ch : Nat) (w : Window) (s : State) : Out := .next (s.refreshWindow t ch w [w.bank])

/-- TIMELINE_REFAB (10 R203, R206). -/
def execTimelineRefab (t ch : Nat) (w : Window) (s : State) : Out := .next (s.refreshWindow t ch w (List.range 16))

/-- Windows of a task due in the current dc. -/
def State.windowEvents (s : State) (t : Nat) : List Event :=
  let k := s.task t
  match s.kernel t with
  | none => []
  | some img => img.timelines.flatMap fun sec =>
    let ch := k.channels.getD sec.chan 0
    (TimelineSec.due sec.cycle sec.entries k.dc).filterMap fun w => match w.cmd with
      | 1 => some (.timelineFill t ch w)
      | 2 => some (.timelineStream t ch w)
      | 3 => some (.timelineRefpb t ch w)
      | 4 => some (.timelineRefab t ch w)
      | _ => none

/-- Banks of a timeline in which a window holds a row open at a dc, with the row. -/
def TimelineRun.openRows (r : TimelineRun) (dc : Nat) : List (Nat × Nat) :=
  r.rows.filter fun e => get r.act 0 e.1 ≤ dc && dc < get r.pre 0 e.1

/-- Open rows of a timeline activated again: every one, or that of one bank (10 R205, R207). -/
def State.reactivate (s : State) (ch dc : Nat) (r : TimelineRun) (banks : List Nat) : State :=
  ((r.openRows dc).filter fun e => banks.contains e.1).foldl (fun (s : State) e => s.stamp ch e.1 (e.2 / 16)) s

/-- A stall of a domain for an inserted refresh: as long as the refresh takes, and a time left open (log 2).  A row that a window holds
open in the bank is precharged, and activated again (10 R207). -/
def State.insertRefresh (s : State) (t ch bank code : Nat) : State :=
  match (s.task t).timeline ch with
  | none => s
  | some (_, r) =>
    let (n, s1) := s.free
    ((s1.refreshGroup ch bank (s.oldestGroup r bank)).reactivate ch (s.task t).dc r [bank]).setTask t fun k =>
      { k with stalls := (k.stalls.filter fun e => s.gcyc < e.2) ++ [(code, s.gcyc + (jedec ch).rfcPb + n)] }

/-- Whether a bank of an owned channel must be refreshed now (10 R207). -/
def State.mustRefresh (s : State) (r : TimelineRun) (bank : Nat) : Bool :=
  let w := s.refreshWindowOf r.phys
  let ages := (List.range (s.groups r.phys)).map fun g => s.micros - s.stampOf r bank g
  ages.any (w - 256 ≤ ·) || 8 ≤ (ages.filter fun a => w * 10 < a * 10 + 624).length

/-- FORCED_REFRESH (10 R207): the owner of the channel stalls under code 0x06. -/
def execForcedRefresh (ch bank : Nat) (s : State) : Out :=
  .next (match s.tasks.find? fun e => (e.2.timeline ch).isSome && find? s.chanOwner ch = some e.1 with
    | none => s
    | some (t, k) => match k.timeline ch with
      | some (_, r) => if s.mustRefresh r bank then s.insertRefresh t ch bank 6 else s
      | none => s)

/-- Forced refreshes due, looked at once a µs, the unit of the stamps. -/
def State.forcedEvents (s : State) (t : Nat) : List Event :=
  if s.gcyc % 2400 ≠ 0 then []
  else (s.task t).timelines.flatMap fun e =>
    ((List.range 16).filter (s.mustRefresh e.2 ·)).map fun b => .forcedRefresh e.2.phys b

/-- Whether a task owns a physical channel now: a frozen task owns none (10 R201). -/
def State.owns (s : State) (t ch : Nat) : Bool := find? s.chanOwner ch = some t

/-- GUARDED_MODE_ENTRY (10 R207): a DRAM, on the capacity tier a controller group (log 129), enters the doubled-refresh range, for a
time left open (log 2); tasks that own a channel of it are guarded to their end. -/
def execGuardedModeEntry (dram : Nat) (s : State) : Out :=
  s.up fun s =>
    let (n, s1) := s.free
    let was := s.dram.hotRange.contains dram
    let guard (t : Nat) (r : TimelineRun) : TimelineRun :=
      if stackOf r.phys = dram && s.owns t r.phys && !r.guarded then { r with guarded := true, guardGc := s.gcyc + 9360 } else r
    { s1 with
    dram := { s.dram with
      hotRange := if was then s.dram.hotRange else s.dram.hotRange ++ [dram]
      cools := if was then s.dram.cools else put s.dram.cools dram (s.gcyc + 1 + n) }
    tasks := mapVals s.tasks fun t k => { k with timelines := mapVals k.timelines fun _ r => guard t r } }

/-- GUARDED_REFRESH (10 R207): the oldest group of a bank, every 3.9 µs, under code 0x07. -/
def execGuardedRefresh (t ch bank : Nat) (s : State) : Out :=
  .next (match (s.task t).timeline ch with
    | none => s
    | some (rel, r) =>
      if r.guarded && r.guardGc ≤ s.gcyc then
        let s1 := s.insertRefresh t ch bank 7
        if bank = 15 then s1.setRun t rel fun r => { r with guardGc := r.guardGc + 9360 } else s1
      else s)

def State.guardedEvents (s : State) (t : Nat) : List Event :=
  (s.task t).timelines.flatMap fun e =>
    if e.2.guarded && e.2.guardGc ≤ s.gcyc then (List.range 16).map fun b => .guardedRefresh t e.2.phys b else []

/-- LONG_STALL_PRECHARGE (10 R205): after 2,400 gc of one stall every open row of the domain's channels is precharged. -/
def execLongStallPrecharge (t : Nat) (s : State) : Out :=
  .next (if 2400 < (s.task t).stallLen then
    s.setTask t fun k => { k with timelines := mapVals k.timelines fun _ r => { r with precharged := true } }
  else s)

/-- Rows that a long stall has precharged are activated again before the domain goes on, at no dc (10 R205). -/
def State.reopenRows (s : State) (t : Nat) : State :=
  let k := s.task t
  (k.timelines.filter (·.2.precharged)).foldl (fun (s : State) e =>
    (s.reactivate e.2.phys k.dc e.2 (List.range 16)).setRun t e.1 fun r => { r with precharged := false }) s

/-! ### Scrub and retirement (10 R208) -/

/-- The physical line of a row's line `i`, of 16. -/
def State.rowLine (s : State) (ch bank row i : Nat) : Nat :=
  let off := row * 2 ^ 14 + bank * 2 ^ 10 + i % 16 * 64
  (if ch < 512 then ch * 2 ^ 30 + off else capacityBase + (ch - 512) * s.subChannel + off) / 64

/-- Lines of a row that cannot be read. -/
def State.failedLines (s : State) (ch bank row : Nat) : List Nat :=
  ((List.range 16).map (s.rowLine ch bank row)).filter fun l => get s.info.failing 0 l != 0

/-- PATROL_SCRUB: a row is read, corrected and rewritten, and its score follows what was found.  Where no line of the row was known to
fail, which line holds an uncorrectable error, and whether it is gone, fails one more read or lasts, is left open (log 2, 38). -/
def execPatrolScrub (ch bank row : Nat) (found : ScrubResult) (s : State) : Out :=
  let key := rowKey ch bank row
  let score := get s.dram.scores 0 key
  s.up fun s =>
    let (m, s0) := (s.stamp ch bank (row / 16)).free
    let switch := s.micros + m % s.refreshWindowOf ch
    match found with
    | .clean => { s0 with dram := s0.dram.setScore key (score - 1) }
    | .corrected => { s0 with dram := ((s0.dram.setScore key (score + 16)).heat (stackOf ch) key).retire ch bank key switch }
    | .uncorrectable =>
      let (n, s1) := s0.free
      let line := s.rowLine ch bank row n
      { s1 with
        dram := (s1.dram.setScore key (score + 64)).retire ch bank key switch
        info := { s1.info with
          failing := if !(s.failedLines ch bank row).isEmpty || n / 16 % 3 = 0 then s1.info.failing
            else put s1.info.failing line (n / 16 % 3) } }

/-- Rows of main memory, and the place of the i-th of them: channel, bank and row. -/
def State.rowCount (s : State) : Nat := 512 * 16 * 2 ^ 16 + 80 * (s.subChannel / 2 ^ 10)
def State.rowAt (s : State) (i : Nat) : Nat × Nat × Nat :=
  let fast := 512 * 16 * 2 ^ 16
  if i < fast then (i / 2 ^ 20, i / 2 ^ 16 % 16, i % 2 ^ 16)
  else
    let per := s.subChannel / 2 ^ 10
    (512 + (i - fast) / per, (i - fast) % per / (per / 16), (i - fast) % per % (per / 16))

/-- What a scrub finds in a row: an uncorrectable error in a line that fails; else whether some bit had to be corrected is left open
(log 2). -/
def State.scrubFinds (s : State) (ch bank row n : Nat) : ScrubResult :=
  if !(s.failedLines ch bank row).isEmpty then .uncorrectable else if n % 2 = 1 then .corrected else .clean

/-- The patrol scrubs that the device makes in this global cycle: the rows of its round, each at its share of 24 hours, and the rows of
the hot lists 64 times as often (10 R208; log 139). -/
def State.scrubEvents (s : State) : List Event × State :=
  let due := s.gcyc * s.rowCount / day
  let round := (List.range (due - s.dram.scrubbed)).map fun i => s.rowAt ((s.dram.scrubbed + i) % s.rowCount)
  let hot := (s.dram.hot.map (·.2)).filter fun key => get s.dram.hotNext (s.gcyc + 1) key ≤ s.gcyc
  let rows := round ++ hot.map fun key => (key / 2 ^ 28, key / 2 ^ 24 % 16, key % 2 ^ 24)
  let next := s.dram.hot.foldl (fun (m : SMap Nat) e =>
    if hot.contains e.2 || (find? s.dram.hotNext e.2).isNone then put m e.2 (s.gcyc + day / 64) else m)
    (s.dram.hotNext.filter fun e => s.dram.hot.any (·.2 = e.1))
  let events := ((List.range rows.length).zip rows).map fun e =>
    Event.patrolScrub e.2.1 e.2.2.1 e.2.2.2 (s.scrubFinds e.2.1 e.2.2.1 e.2.2.2 (Config.freeNat (s.freeCount + e.1)))
  (events, { s with dram := { s.dram with scrubbed := max due s.dram.scrubbed, hotNext := next }, freeCount := s.freeCount + rows.length })

/-- Rows whose copies are complete on channels that no task owns are switched as their groups come to be refreshed (10 R206, R208). -/
def State.idleRefreshes (s : State) : State :=
  (s.dram.copying.filter fun e => e.2 ≤ s.micros && (find? s.chanOwner (e.1 / 2 ^ 28)).isNone).foldl
    (fun (s : State) e => s.refreshGroup (e.1 / 2 ^ 28) (e.1 / 2 ^ 24 % 16) (e.1 % 2 ^ 24 / 16)) s

/-- DRAMs whose time in the doubled-refresh range is over leave it (10 R206). -/
def State.coolDown (s : State) : State :=
  let out := (s.dram.cools.filter (·.2 ≤ s.gcyc)).map (·.1)
  { s with dram := { s.dram with
      hotRange := s.dram.hotRange.filter fun d => !out.contains d
      cools := s.dram.cools.filter fun e => !out.contains e.1 } }

end Sys2Proof.Machine
end

