-- ==== Sys2Proof/Machine/Flits.lean ====
section
/-!
DEFINITION. The link layer of the Ngapor ports: flits, their CRC, messages and coded runs, and what a port sends (23 R341 to
R344).
-/

namespace Sys2Proof.Machine

def State.port (s : State) (p : Nat) : Port := get s.ports Port.start p
def State.setPort (s : State) (p : Nat) (f : Port → Port) : State := { s with ports := upd s.ports Port.start p f }

/-! ### CRC-64 with the ECMA-182 polynomial (23 R341; log 30) -/

/-- One bit of the remainder, the highest bit first. -/
def crc64Bit (r : Nat) : Nat :=
  let x := r * 2 % 2 ^ 64
  if r / 2 ^ 63 % 2 = 1 then Nat.xor x 0x42F0E1EBA9EA3693 else x

def crc64Byte (r : Nat) (b : Byte) : Nat := (List.range 8).foldl (fun r _ => crc64Bit r) (Nat.xor r (b.toNat * 2 ^ 56))

/-- The CRC of bytes, lowest address first. -/
def crc64 (l : List Byte) : Nat := l.foldl crc64Byte 0

/-! ### Flits -/

/-- The fields of a flit. -/
structure Flit where
  seq : Nat
  ack : Nat
  chan : Nat
  kind : Nat
  payload : List Byte
  deriving DecidableEq, Repr

/-- The 256 bytes of a flit. -/
def Flit.bytes (f : Flit) : List Byte :=
  let head := leBytes 8 (f.seq + f.ack * 2 ^ 12 + f.chan * 2 ^ 24 + f.kind * 2 ^ 28 + f.payload.length * 2 ^ 32)
  let body := head ++ (f.payload ++ List.replicate (240 - f.payload.length) 0)
  body ++ leBytes 8 (crc64 body)

/-- A flit as it is received; none where its CRC fails. -/
def readFlit (l : List Byte) : Option Flit :=
  let body := l.take 248
  let h := leNat (l.take 8)
  if l.length = 256 && crc64 body = leNat (l.drop 248) then
    some ⟨h % 2 ^ 12, h / 2 ^ 12 % 2 ^ 12, h / 2 ^ 24 % 16, h / 2 ^ 28 % 16, (l.drop 8).take (min 240 (h / 2 ^ 32 % 256))⟩
  else none

/-! ### Coded runs (23 R343) -/

/-- The exponent table at link training. -/
def trainTable : List Byte := (List.range 15).map fun i => BitVec.ofNat 8 (127 - i)

/-- The exponent moves to the front of the table. -/
def moveFront (t : List Byte) (e : Byte) : List Byte :=
  match t.idxOf? e with
  | some i => e :: (t.take i ++ t.drop (i + 1))
  | none => e :: t.take 14

/-- Bits of bytes, least significant first. -/
def bitsOf (l : List Byte) : List Bool := l.flatMap fun b => (List.range 8).map fun i => bitAt b i

/-- The number that bits hold, lowest first. -/
def bitsNat (l : List Bool) : Nat := l.foldr (fun b n => (if b then 1 else 0) + 2 * n) 0

/-- One element with a fraction of `n` bits: its bits and the stream and table after it; none where the stream ends. -/
def decodeElem (n : Nat) (t : List Byte) (l : List Bool) : Option (Nat × List Byte × List Bool) :=
  if l.length < 4 then none
  else
    let i := bitsNat (l.take 4)
    let wide := i = 15
    let rest := l.drop (if wide then 12 else 4)
    if rest.length < n + 1 || (wide && l.length < 12) then none
    else
      let e : Byte := if wide then BitVec.ofNat 8 (bitsNat ((l.drop 4).take 8)) else t.getD i 0
      let v := bitsNat ((rest.drop 1).take n) + e.toNat * 2 ^ n + (if rest.getD 0 false then 2 ^ (n + 8) else 0)
      some (v, moveFront t e, rest.drop (n + 1))

/-- A coded run of `k` elements: their bytes, the table after it, and how many bits it took. -/
def decodeRun (fp32 : Bool) (t : List Byte) (l : List Bool) : Nat → Option (List Byte × List Byte × List Bool)
  | 0 => some ([], t, l)
  | k + 1 =>
    match decodeElem (if fp32 then 23 else 7) t l with
    | none => none
    | some (v, t', l') =>
      match decodeRun fp32 t' l' k with
      | none => none
      | some (bs, t'', l'') => some (leBytes (if fp32 then 4 else 2) v ++ bs, t'', l'')

/-! ### Messages (23 R344) -/

/-- The header of a message. -/
def messageHeader (m : Message) : List Byte :=
  leBytes 8 (m.op + m.size * 2 ^ 8 + m.aop * 2 ^ 12 + m.scope * 2 ^ 18 + m.tag * 2 ^ 24 + m.length * 2 ^ 40) ++ leBytes 8 m.addr

/-- A message with plain data.  A coded run is one a sender may choose and this one never does (log 31). -/
def messageBytes (m : Message) : List Byte := messageHeader m ++ m.data

/-- Whether a message carries data after its header. -/
def carriesData (op : Nat) : Bool := op = 2 || op = 3 || op = 4 || op = 6

/-- The first message of a channel's bytes, with the table and the bytes after it; none where it is not all there. -/
def readMessage (t : List Byte) (l : List Byte) : Option (Message × List Byte × List Byte) :=
  if l.length < 16 then none
  else
    let h := leNat (l.take 8)
    let coded := h / 2 ^ 16 % 2 = 1
    let fp32 := h / 2 ^ 17 % 2 = 1
    let len := h / 2 ^ 40 % 2 ^ 24
    let op := h % 256
    let m : Message := ⟨op, h / 2 ^ 8 % 16, h / 2 ^ 12 % 16, coded, fp32, h / 2 ^ 18 % 4, h / 2 ^ 24 % 2 ^ 16, len,
      leNat ((l.drop 8).take 8), []⟩
    let rest := l.drop 16
    if !carriesData op then some (m, t, rest)
    else if coded then
      match decodeRun fp32 t (bitsOf rest) (len / (if fp32 then 4 else 2)) with
      | none => none
      | some (bs, t', left) => some ({ m with data := bs }, t', rest.drop (rest.length - left.length / 8))
    else if rest.length < len then none
    else some ({ m with data := rest.take len }, t, rest.drop len)

/-! ### Sending -/

/-- Flits that the replay buffer of one direction holds (23 R341). -/
def replayFlits : Nat := 4096

/-- One flit goes out: it stays in the replay buffer until the far end acknowledges it. -/
def Port.putFlit (p : Port) (chan kind : Nat) (payload : List Byte) : Port :=
  let f : Flit := ⟨p.txSeq, (p.rxSeq + 4095) % 4096, chan, kind, payload⟩
  { p with txSeq := (p.txSeq + 1) % 4096, replay := p.replay ++ [⟨p.txSeq, f.bytes, p.txTables⟩] }

/-- One flit of a port: it goes out behind those that wait, and waits itself while the replay buffer is full. -/
def Port.sendFlit (p : Port) (chan kind : Nat) (payload : List Byte) : Port :=
  if p.outbox.isEmpty && p.replay.length < replayFlits then p.putFlit chan kind payload
  else { p with outbox := p.outbox ++ [(chan, kind, payload)] }

/-- Flits that wait go out as far as the replay buffer has room. -/
def Port.drainOutbox (p : Port) : Port :=
  let n := replayFlits - p.replay.length
  (p.outbox.take n).foldl (fun p f => p.putFlit f.1 f.2.1 f.2.2) { p with outbox := p.outbox.drop n }

/-- Bytes of a channel sent in as many data flits as they need. -/
def Port.sendBytes (p : Port) (chan : Nat) (l : List Byte) : Port :=
  (chunk 240 l.length l).foldl (fun p piece => p.sendFlit chan 1 piece) p

def State.send (s : State) (port chan : Nat) (m : Message) : State := s.setPort port (·.sendBytes chan (messageBytes m))

/-- A control flit (23 R344). -/
def State.control (s : State) (port kind : Nat) (payload : List Byte) : State := s.setPort port (·.sendFlit 0 kind payload)

/-- A NACK of a request. -/
def State.sendNack (s : State) (port tag chan reason : Nat) : State :=
  s.control port 5 (leBytes 4 (tag + chan * 2 ^ 16 + reason * 2 ^ 20))

/-- A port to a chip that is up, the lowest. -/
def State.portTo (s : State) (chip : Nat) : Option Nat := (s.ports.find? fun e => e.2.chip = chip && e.2.up).map (·.1)

/-- The channel of a core's requests. -/
def requestChan (pcore : Nat) : Nat := 1 + pcore % 15

/-- Data flits that a message takes. -/
def messageFlits (m : Message) : Nat := ((messageBytes m).length + 239) / 240

/-- Whether the replay buffer has room for every flit of a message. -/
def Port.room (p : Port) (m : Message) : Bool := p.outbox.isEmpty && p.replay.length + messageFlits m ≤ replayFlits

/-- A tag from `n` up that no outstanding request of a channel has, with fuel for the requests to pass. -/
def freeTag (used : List Nat) (n : Nat) : Nat → Nat
  | 0 => n % 2 ^ 16
  | k + 1 => if used.contains (n % 2 ^ 16) then freeTag used (n + 1) k else n % 2 ^ 16

/-- A tag unique among the outstanding requests of a channel to a chip, whichever of its ports they went out on. -/
def State.freshTag (s : State) (chip chan next : Nat) : Nat :=
  let used := s.ports.flatMap fun e =>
    if e.2.chip = chip then (e.2.requests.filter (·.chan = chan)).map (·.tag) else []
  freeTag used next used.length

/-- Send a request of a queued access and remember it. -/
def State.request (s : State) (port access grant : Nat) (pcore : Nat) (m : Message) : State :=
  let p := s.port port
  let chan := requestChan pcore
  let tag := s.freshTag p.chip chan p.nextTag
  (s.send port chan { m with tag := tag }).setPort port fun p =>
    { p with nextTag := tag + 1, requests := p.requests ++ [⟨tag, chan, access, grant, (p.txSeq + 4095) % 4096⟩] }

end Sys2Proof.Machine
end

