-- ==== Sys2Proof/Machine/Queued.lean ====
section
/-!
DEFINITION. What a slot puts on the queued path: class QMEM (13) and the fences it shares with class SYS.
-/

namespace Sys2Proof.Machine

/-- An access of the slot being run with nothing said yet. -/
def State.blankAcc (s : State) (kind : QKind) (va : Nat) : QAcc where
  id := s.nextId
  task := s.cur.task
  core := s.cur.core
  pcore := s.myTask.physCore s.cur.core
  pc := s.me.pc
  slot := s.cur.slot
  kind := kind
  va := va
  size := 0
  scope := 0
  wheel := none
  dest := 0
  v := 0
  v2 := 0
  data := []
  spad := 0
  group := s.nextId
  due := 0
  walkAt := 0
  target := .untranslated
  old := none
  lost := none
  remote := none
  retried := false

/-- Put an access on the path: it performs no sooner than the 16th global cycle after its issue (22 R333), at a time the
spec leaves open beyond that (log 2), and a walk it needs takes a time left open too. -/
def State.enqueue (s : State) (a : QAcc) : State :=
  let (n, s1) := s.free
  let (m, s2) := s1.free
  { s2 with
    newQueue := s2.newQueue ++ [{ a with due := s.gcyc + 16 + n, walkAt := s.gcyc + 1 + m }]
    nextId := s2.nextId + 1 }

/-- Queue entries a core's accesses hold; a fence holds none (13 R243). -/
def State.entriesHeld (s : State) (t c : Nat) : Nat :=
  ((s.queue ++ s.newQueue).filter fun a => a.task = t && a.core = c && !a.kind.isFence).length

def queueCapacity : Nat := 2048

/-- EA of 13 R248. -/
def State.ea (s : State) (b : BitVec 5) (i : BitVec 6) (x : Ext) (u : Nat) : Nat :=
  (s.me.reg b.toNat + BitVec.ofInt 64 (immS x i * (u : Int))).toNat

/-- The trap of an effective address at issue: above the space, or not aligned (13 R248). -/
def eaFail (ea u kind : Nat) : Option Fail :=
  if 2 ^ 57 ≤ ea then some { cause := 0x12, sub := 1, addr := ea, kind := kind }
  else if ea % u ≠ 0 then some { cause := 0x12, sub := 2, addr := ea, kind := kind }
  else none

/-- Where an access of `n` bytes in the scratchpad window goes: a slice of the core's own quire, or the scratchpad trap
(09 R174, R175). -/
def State.windowTarget (s : State) (ea n kind : Nat) : Res Target :=
  if inWindow ea then
    let a := ea % 2 ^ 32
    match s.myTask.spadFault s.cur.core a n 1 with
    | some sub => .error { cause := 0x0D, sub := sub, addr := a, kind := kind }
    | none => .ok (.slice (spadCore a) (spadOff a))
  else .ok .untranslated

/-- Issue an access of `n` bytes at an effective address aligned to `u`, completed by `f`. -/
def State.access (s : State) (kind : QKind) (ea u n rw : Nat) (f : QAcc → QAcc) : State :=
  match eaFail ea u rw with
  | some e => s.fail e
  | none =>
    match s.windowTarget ea n rw with
    | .error e => s.fail e
    | .ok tgt =>
      if queueCapacity ≤ s.entriesHeld s.cur.task s.cur.core then s.fail { cause := 0x12, sub := 3, addr := ea, kind := rw }
      else s.enqueue (f { s.blankAcc kind ea with size := n, target := tgt })

/-- The wheel cycle of an SC slot: the bundle issues at the opening position of a group, and relative core r takes the
r-th position after it (14 R264). -/
def State.wheelCycle (s : State) (sc : BitVec 1) : Option Nat := if sc = 1 then some (s.gcyc + s.cur.core) else none

/-- A scalar load (13 R249). -/
def State.qLoad (s : State) (kind : QKind) (d b : BitVec 5) (i : BitVec 6) (z c : BitVec 2) (sc : BitVec 1) (x : Ext) : Out :=
  let n := 2 ^ z.toNat
  .next (s.access kind (s.ea b i x n) n n 1 fun a =>
    { a with scope := c.toNat, dest := d.toNat, wheel := s.wheelCycle sc })

/-- A scalar store (13 R249). -/
def State.qStore (s : State) (kind : QKind) (d b : BitVec 5) (i : BitVec 6) (z c : BitVec 2) (sc : BitVec 1) (x : Ext) : Out :=
  let n := 2 ^ z.toNat
  .next (s.access kind (s.ea b i x n) n n 2 fun a =>
    { a with scope := c.toNat, data := leBytes n (s.me.reg d.toNat).toNat, wheel := s.wheelCycle sc })

/-- A scalar atomic (13 R254). -/
def State.qAmo (s : State) (op : Nat) (d b : BitVec 5) (i : BitVec 6) (z : BitVec 1) (c : BitVec 2) (sc : BitVec 1)
    (x : Ext) : Out :=
  let n := if z = 1 then 8 else 4
  .next (s.access (.amo op) (s.ea b i x n) n n 3 fun a =>
    { a with
      scope := c.toNat
      dest := d.toNat
      v := s.me.reg d.toNat
      v2 := s.me.reg ((d.toNat + 1) % 32)
      wheel := s.wheelCycle sc })

/-- A barrier instruction (13 R258): on the 8-byte word at EA, which R259 tests once it is translated. -/
def State.qBar (s : State) (kind : QKind) (dest : Nat) (d b : BitVec 5) (i : BitVec 6) (c : BitVec 2) (x : Ext) : Out :=
  let ea := s.ea b i x 8
  .next (match eaFail ea 8 3 with
    | some e => s.fail e
    | none =>
      if queueCapacity ≤ s.entriesHeld s.cur.task s.cur.core then s.fail { cause := 0x12, sub := 3, addr := ea, kind := 3 }
      else s.enqueue { s.blankAcc kind ea with
        size := 8, scope := c.toNat, dest := dest, v := (s.me.reg d.toNat).truncate 16 |>.zeroExtend 64 })

/-- The row of a vector access: R = 64 × 2^size bytes at a scratchpad address of the own quire, aligned to R (13 R250). -/
def State.rowSpad (s : State) (d : BitVec 5) (n : Nat) (rw : Nat) : Option Fail :=
  let a := (s.me.reg d.toNat).toNat % 2 ^ 32
  (s.myTask.spadFault s.cur.core a n n).map fun sub => { cause := 0x0D, sub := sub, addr := a, kind := rw }

/-- Active lanes of an operand block: (lane, EA + 4x, value), the sum modulo 2^64 (13 R256). -/
def vamoLanes (ea : Nat) (block : List Byte) : List (Nat × Nat) :=
  (List.range 128).filterMap fun l =>
    let idx := elemAt block 32 l
    if idx = 0xFFFFFFFF then none else some ((ea + 4 * idx) % 2 ^ 64, elemAt block 32 (128 + l))

/-- A vector atomic: one access for each active lane, all of one group (13 R256). -/
def State.qVamo (s : State) (add : Bool) (d b : BitVec 5) (i : BitVec 6) (c : BitVec 2) (x : Ext) : Out :=
  let ea := s.ea b i x 4
  let a := (s.me.reg d.toNat).toNat % 2 ^ 32
  .next (match eaFail ea 4 3 with
    | some e => s.fail e
    | none =>
      match s.readTimed s.cur.task s.cur.core a 1024 64 6 s.me.pc with
      | .error e => s.fail e
      | .ok (block, s') =>
        let lanes := vamoLanes ea block
        if queueCapacity < s'.entriesHeld s.cur.task s.cur.core + lanes.length then
          s.fail { cause := 0x12, sub := 3, addr := ea, kind := 3 }
        else
          let group := s'.nextId
          lanes.foldl (fun st l => st.access (.vamo add) l.1 4 4 3 fun q =>
            { q with scope := c.toNat, v := BitVec.ofNat 64 l.2, group := group }) s')

/-- A fence of the slot being run: it takes its place in issue order, behind the accesses of lower slots of its
bundle and before those of higher ones (04 R87 to R89, log 119). -/
def State.qFence (s : State) (kind : QKind) (scope dest : Nat) : State :=
  s.enqueue { s.blankAcc kind 0 with scope := scope, dest := dest }

/-! ### Class QMEM -/

/-- LD (13 R249: a load). -/
def execLd (d b : BitVec 5) (i : BitVec 6) (z c : BitVec 2) (sc : BitVec 1) (x : Ext) (s : State) : Out :=
  s.qLoad .load d b i z c sc x

/-- ST (13 R249: a store). -/
def execSt (d b : BitVec 5) (i : BitVec 6) (z c : BitVec 2) (sc : BitVec 1) (x : Ext) (s : State) : Out :=
  s.qStore .store d b i z c sc x

/-- LDA (13 R249, R252: a load that is an acquire). -/
def execLda (d b : BitVec 5) (i : BitVec 6) (z c : BitVec 2) (sc : BitVec 1) (x : Ext) (s : State) : Out :=
  s.qLoad .acquire d b i z c sc x

/-- STL (13 R249, R252: a store that is a release). -/
def execStl (d b : BitVec 5) (i : BitVec 6) (z c : BitVec 2) (sc : BitVec 1) (x : Ext) (s : State) : Out :=
  s.qStore .release d b i z c sc x

/-- LDV (13 R250: a row from memory into the scratchpad). -/
def execLdv (d b : BitVec 5) (i : BitVec 6) (z : BitVec 2) (x : Ext) (s : State) : Out :=
  let n := 64 * 2 ^ z.toNat
  let ea := s.ea b i x n
  .next (match s.rowSpad d n 2 with
    | some e => s.fail e
    | none => s.access .loadRow ea n n 1 fun a => { a with spad := (s.me.reg d.toNat).toNat % 2 ^ 32 })

/-- STV (13 R250: a row of the scratchpad, read at issue, to memory). -/
def execStv (d b : BitVec 5) (i : BitVec 6) (z : BitVec 2) (x : Ext) (s : State) : Out :=
  let n := 64 * 2 ^ z.toNat
  let ea := s.ea b i x n
  .next (match s.readTimed s.cur.task s.cur.core ((s.me.reg d.toNat).toNat % 2 ^ 32) n n 6 s.me.pc with
    | .error e => s.fail e
    | .ok (row, s') => s'.access .storeRow ea n n 2 fun a => { a with data := row })

/-- AMOADD (13 R254: old + v). -/
def execAmoadd (d b : BitVec 5) (i : BitVec 6) (z : BitVec 1) (c : BitVec 2) (sc : BitVec 1) (x : Ext) (s : State) : Out :=
  s.qAmo 0 d b i z c sc x

/-- AMOAND (13 R254: old & v). -/
def execAmoand (d b : BitVec 5) (i : BitVec 6) (z : BitVec 1) (c : BitVec 2) (sc : BitVec 1) (x : Ext) (s : State) : Out :=
  s.qAmo 1 d b i z c sc x

/-- AMOOR (13 R254: old | v). -/
def execAmoor (d b : BitVec 5) (i : BitVec 6) (z : BitVec 1) (c : BitVec 2) (sc : BitVec 1) (x : Ext) (s : State) : Out :=
  s.qAmo 2 d b i z c sc x

/-- AMOXOR (13 R254: old ^ v). -/
def execAmoxor (d b : BitVec 5) (i : BitVec 6) (z : BitVec 1) (c : BitVec 2) (sc : BitVec 1) (x : Ext) (s : State) : Out :=
  s.qAmo 3 d b i z c sc x

/-- AMOMIN (13 R254: the signed minimum). -/
def execAmomin (d b : BitVec 5) (i : BitVec 6) (z : BitVec 1) (c : BitVec 2) (sc : BitVec 1) (x : Ext) (s : State) : Out :=
  s.qAmo 4 d b i z c sc x

/-- AMOMAX (13 R254: the signed maximum). -/
def execAmomax (d b : BitVec 5) (i : BitVec 6) (z : BitVec 1) (c : BitVec 2) (sc : BitVec 1) (x : Ext) (s : State) : Out :=
  s.qAmo 5 d b i z c sc x

/-- AMOSWP (13 R254: v). -/
def execAmoswp (d b : BitVec 5) (i : BitVec 6) (z : BitVec 1) (c : BitVec 2) (sc : BitVec 1) (x : Ext) (s : State) : Out :=
  s.qAmo 6 d b i z c sc x

/-- AMOCAS (13 R254: s[d + 1] if old = v). -/
def execAmocas (d b : BitVec 5) (i : BitVec 6) (z : BitVec 1) (c : BitVec 2) (sc : BitVec 1) (x : Ext) (s : State) : Out :=
  s.qAmo 7 d b i z c sc x

/-- VAMOOR (13 R256: 128 or-atomics). -/
def execVamoor (d b : BitVec 5) (i : BitVec 6) (c : BitVec 2) (x : Ext) (s : State) : Out :=
  s.qVamo false d b i c x

/-- VAMOADD (13 R256: 128 add-atomics). -/
def execVamoadd (d b : BitVec 5) (i : BitVec 6) (c : BitVec 2) (x : Ext) (s : State) : Out :=
  s.qVamo true d b i c x

/-- BARRIV (13 R258: an arrival). -/
def execBarriv (d b : BitVec 5) (i : BitVec 6) (c : BitVec 2) (x : Ext) (s : State) : Out :=
  s.qBar .barriv d.toNat d b i c x

/-- BARWAIT (13 R258: a look at the generation). -/
def execBarwait (d b : BitVec 5) (i : BitVec 6) (c : BitVec 2) (x : Ext) (s : State) : Out :=
  s.qBar .barwait d.toNat d b i c x

/-- BARINIT (13 R258: set up a barrier word). -/
def execBarinit (d b : BitVec 5) (i : BitVec 6) (c : BitVec 2) (x : Ext) (s : State) : Out :=
  s.qBar .barinit 0 d b i c x

end Sys2Proof.Machine
end

