-- ==== Sys2Proof/Machine/Path.lean ====
section
/-!
DEFINITION. The queued path at work: translation, the order in which accesses may perform, their effects, fences, and the events
of the determinism record (13; 15 R276 to R281; 14 R266 to R268; 04 R87 to R89).
-/

namespace Sys2Proof.Machine

/-! ### What an access is -/

/-- Whether an access needs R, and whether it needs W. -/
def QKind.reads : QKind → Bool
  | .load | .acquire | .loadRow | .amo _ | .vamo _ | .barriv | .barwait | .barinit => true
  | _ => false

def QKind.isBarrier : QKind → Bool
  | .barriv | .barwait | .barinit => true
  | _ => false

/-- The KIND of a fault record (17 R306). -/
def QKind.recordKind (k : QKind) : Nat :=
  match k with
  | .load | .acquire | .loadRow => 1
  | .store | .release | .storeRow => 2
  | _ => 3

/-- Acquires: an LDA, a BARWAIT, and the read of an SC access (13 R252, R258; 14 R266). -/
def QAcc.isAcquire (a : QAcc) : Bool := a.kind = .acquire || a.kind = .barwait || (a.wheel.isSome && a.kind.reads)

/-- Releases: an STL, BARRIV and BARINIT, and the write of an SC access. -/
def QAcc.isRelease (a : QAcc) : Bool :=
  a.kind = .release || a.kind = .barriv || a.kind = .barinit || (a.wheel.isSome && a.kind.isWrite)

/-- The first byte of a place that an access of a task reaches. -/
def Target.at (g : Target) (k : Task) : Option Nat :=
  match g with
  | .untranslated => none
  | .slice c o => some (sliceAt (k.physCore c) o)
  | .memory pa _ => some pa
  | .peer chip addr => some (peerAt chip addr)

/-- The slice row that an LDV writes (13 R250). -/
def QAcc.rowAt (a : QAcc) (k : Task) : Option Nat :=
  if a.kind = .loadRow then some (sliceAt (k.physCore (spadCore a.spad)) (spadOff a.spad)) else none

/-- A cached translation of an address for a core: its own 64 entries, then its quire's 1,024 (15 R276). -/
def State.cached (s : State) (ctx va pcore : Nat) : Option TlbEntry :=
  let hit (l : List TlbEntry) : Option TlbEntry := l.find? fun e => e.ctx = ctx && e.page = va / 2 ^ e.bits
  (hit (get s.tlbCore [] pcore)).or (hit (get s.tlbQuire [] (pcore / 8)))

/-- The entry of a page for an address, from the entry that a walk of some address of the page read: the sixteen of a 64 KiB page
differ in their frames (15 R272). -/
def pageEntry (leaf : Word) (bits va : Nat) : Word :=
  if bits = 16 then BitVec.ofNat 64 (leaf.toNat - leafFrame leaf % 2 ^ 16 + va % 2 ^ 16 / 2 ^ 12 * 2 ^ 12) else leaf

/-- The address in its frame, or in the export space of a peer, that a page gives an address. -/
def pageAddr (leaf : Word) (bits va : Nat) : Nat := leafFrame (pageEntry leaf bits va) + va % 2 ^ (if bits = 16 then 12 else bits)

/-- The places that an access reaches; one that is not translated yet, those that its cached translation and the page tables as they
stand would give it.  None for an access that no page maps, which may reach any place. -/
def State.reaches (s : State) (a : QAcc) : List (Option Nat) :=
  let k := s.task a.task
  let at' (leaf : Word) (pa : Nat) : Nat := if leafHome leaf = 2 then peerAt (Machine.bits leaf 44 8) (pa % 2 ^ 44) else pa
  match a.target with
  | .untranslated =>
    let kept := (s.cached k.ctx a.va a.pcore).map fun e => at' e.leaf (pageAddr e.leaf e.bits a.va)
    let walked := match s.walk k.ctx a.va with
      | .ok pa leaf _ => some (at' leaf pa)
      | _ => none
    let l := kept.toList ++ walked.toList
    if l.isEmpty then [none] else l.map some
  | g => [g.at k]

/-- Whether two accesses may touch a byte in common: at the places they reach, the slice row of an LDV among them (13 R251). -/
def State.meets (s : State) (a b : QAcc) : Bool :=
  let places (q : QAcc) : List (Option Nat) :=
    if q.kind.isFence then [] else s.reaches q ++ (q.rowAt (s.task q.task)).toList.map some
  (places a).any fun p => (places b).any fun q => match p, q with
    | some p, some q => rangesMeet p a.size q b.size
    | _, _ => true

/-! ### Order (13 R245, R251, R252, R255; 14 R266; 04 R87; 08 R155) -/

/-- Two SC entries whose scopes each include the other's thread (14 R266). -/
def QAcc.mutual (a b : QAcc) : Bool := inScope a.scope a.pcore b.pcore && inScope b.scope b.pcore a.pcore

/-- Whether an SC access may take its place: no mutually scoped SC access still to perform comes before it by wheel cycle and slot,
and none can any more. -/
def State.wheelTurn (s : State) (a : QAcc) : Bool :=
  match a.wheel with
  | none => true
  | some w => w < s.gcyc && s.queue.all fun b => match b.wheel with
    | some v =>
      b.id = a.id || !a.mutual b || w < v || (w = v && a.slot < b.slot) || (w = v && a.slot = b.slot && a.id < b.id)
    | none => true

/-- Table operations that open a head, which are acquires (08 R155). -/
def Eff.isOpen : Eff → Bool
  | .table _ _ _ op .. => match op with
    | .open_ .. | .new_ .. | .lease .. => true
    | _ => false
  | _ => false

/-- Whether no head that the core opened before an access is still opening.  A bundle that waits for a load does not wait for the
table too, nor does the drain of a freeze, in which no dc passes: neither would ever end (08 R155, 03 R55, R58; log 102). -/
def State.opened (s : State) (a : QAcc) : Bool :=
  let k := s.task a.task
  k.causes.contains 4 || k.status = .frozen || k.owed.all fun o => !(o.core = a.core && o.id < a.id && o.eff.isOpen)

/-- Whether an access may perform now. -/
def State.mayPerform (s : State) (a : QAcc) : Bool :=
  let before := s.queue.filter fun b => b.task = a.task && b.core = a.core && b.id < a.id
  a.target ≠ .untranslated && a.due ≤ s.gcyc && a.remote.isNone &&
    before.all (fun b => !b.kind.isFence && !b.isAcquire && !s.meets a b) &&
    (!a.isRelease || before.isEmpty) &&
    (!a.kind.isWrite || pastGate s.queue a) && s.wheelTurn a && s.opened a &&
    (match a.old with
      | some (_, g) => g ≤ s.gcyc
      | none => true)

/-- Whether a fence is complete: every access of its core before it has performed; a fence before it is no access (04 R88, 14 R268). -/
def State.fenceDone (s : State) (a : QAcc) : Bool :=
  a.kind.isFence && s.queue.all fun b => !(b.task = a.task && b.core = a.core && b.id < a.id) || b.kind.isFence

/-! ### Small updates of the path -/

def State.acc (s : State) (id : Nat) : Option QAcc := s.queue.find? (·.id = id)
def State.setAcc (s : State) (id : Nat) (f : QAcc → QAcc) : State :=
  { s with queue := s.queue.map fun a => if a.id = id then f a else a }
def State.dropAcc (s : State) (id : Nat) : State := { s with queue := s.queue.filter (·.id ≠ id) }

/-- A fault of an access, with the PC of its instruction; a kernel that has failed takes no other, and one under fault service no other
page fault until it goes on (15 R280). -/
def State.accFail (s : State) (a : QAcc) (f : Fail) : State :=
  let status := (s.task a.task).status
  if status = .failed || (status = .service && f.cause = 0x15) then s
  else s.trapAt a.task a.core a.pc a.slot 0xF f.cause f.sub { f with addr := a.va, kind := a.kind.recordKind }.fill

/-! ### Translation (15 R276, R278, R281; 13 R259) -/

/-- Put a translation into both caches, the oldest leaving a full one (log 32). -/
def State.cache (s : State) (pcore : Nat) (e : TlbEntry) : State :=
  let add (n : Nat) (l : List TlbEntry) : List TlbEntry := (l ++ [e]).drop (l.length + 1 - n)
  { s with tlbCore := upd s.tlbCore [] pcore (add 64), tlbQuire := upd s.tlbQuire [] (pcore / 8) (add 1024) }

/-- The place a page gives an access, or the fault it takes.  A write to an executable page is refused whichever mapping it takes
(02 R33). -/
def State.placeOf (s : State) (a : QAcc) (first : Word) (bits level : Nat) : Except Fail Target :=
  let write := a.kind.isWrite
  let leaf := pageEntry first bits a.va
  let pa := pageAddr first bits a.va
  let executable := leafX leaf || (leafHome leaf ≠ 2 && s.attributed pa a.size [2])
  let bad (cause sub : Nat) : Except Fail Target := .error { cause := cause, sub := sub, d7 := level, d8 := leaf.toNat }
  if leafBarrier leaf != a.kind.isBarrier then .error { cause := 0x12, sub := 4 }
  else if leafTape leaf || (write && executable) || (a.kind.reads && !leafR leaf) || (write && !leafW leaf) then bad 0x16 0
  else if write && leafMigr leaf then bad 0x15 0
  else
    if leafHome leaf = 2 then .ok (.peer (Machine.bits leaf 44 8) (pa % 2 ^ 44))
    else .ok (.memory pa (leafBarrier leaf))

/-- An access takes the translation of a leaf, or its fault. -/
def State.place (s : State) (a : QAcc) (e : TlbEntry) : State :=
  match s.placeOf a e.leaf e.bits (levelOf (2 ^ e.bits)) with
  | .ok tgt => s.setAcc a.id fun q => { q with target := tgt }
  | .error f => (s.accFail a f).setAcc a.id fun q => { q with walkAt := s.gcyc + 1 }

/-- Whether an access has missed both caches. -/
def State.missed (s : State) (a : QAcc) : Bool :=
  a.target = .untranslated && !a.kind.isFence && (s.cached (s.task a.task).ctx a.va a.pcore).isNone

/-- Whether the walker of a core's die has a place for the walk of an access: it runs 64 at once, and further misses wait in the
order of their arrival (15 R276). -/
def State.walking (s : State) (a : QAcc) : Bool :=
  s.gcyc ≥ a.walkAt && ((s.queue.takeWhile (·.id ≠ a.id)).filter fun b => b.pcore / 128 = a.pcore / 128 && s.missed b).length < 64

/-- TRANSLATION_WALK (15 R276): the walk of a miss answers a leaf, which both caches keep, or a fault. -/
def execTranslationWalk (id : Nat) (s : State) : Out :=
  .next (match s.acc id with
    | none => s
    | some a =>
      let ctx := (s.task a.task).ctx
      let fault (cause level : Nat) (e : Word) : State :=
        (s.accFail a { cause := cause, sub := 0, d7 := level, d8 := e.toNat }).setAcc id fun q => { q with walkAt := s.gcyc + 1 }
      if a.target ≠ .untranslated || a.kind.isFence || !s.walking a then s
      else if inWindow a.va then
        (s.accFail a { cause := 0x12, sub := 4 }).setAcc id fun q => { q with walkAt := s.gcyc + 1 }
      else match s.walk ctx a.va with
        | .page level e => fault 0x15 level e
        | .entry level e => fault 0x17 level e
        | .ok _ leaf size =>
          let e : TlbEntry := ⟨ctx, a.va / size, log2 size, leaf⟩
          (s.cache a.pcore e).place a e)

/-! ### Events for the determinism record (13 R261; 14 R269) -/

/-- The first byte of the place an access reaches. -/
def QAcc.placeAt (a : QAcc) (k : Task) : Nat := (a.target.at k).getD 0

def linesFrom (base n : Nat) : List Nat := (List.range ((base % 64 + n + 63) / 64)).map fun i => base / 64 + i

/-- Lines of the place an access reaches. -/
def QAcc.lines (a : QAcc) (k : Task) : List Nat := (a.target.at k).toList.flatMap (linesFrom · a.size)

/-- Lines of the slice row that an LDV writes. -/
def QAcc.rowLines (a : QAcc) (k : Task) : List Nat := (a.rowAt k).toList.flatMap (linesFrom · a.size)

/-- Lines that an access writes. -/
def QAcc.writes (a : QAcc) (k : Task) : List Nat := if a.kind.isWrite then a.lines k else a.rowLines k

/-- Two SC accesses of one task that are mutually scoped. -/
def QAcc.scPair (a : QAcc) (tr : LineTrace) : Bool :=
  tr.sc && a.wheel.isSome && tr.task = a.task && inScope tr.scope tr.core a.pcore && inScope a.scope a.pcore tr.core

def QKind.isPlain : QKind → Bool
  | .load | .acquire | .store | .release | .loadRow | .storeRow => true
  | _ => false

/-- An LDA that returns the value of another core's STL. -/
def State.readsRelease (s : State) (a : QAcc) : Bool :=
  a.kind = .acquire && 0 < a.size && (List.range a.size).all fun i =>
    match find? s.info.stlBytes (a.placeAt (s.task a.task) + i) with
    | some c => c ≠ a.pcore
    | none => false

/-- A plain access to a line whose last queued write another core made after this core's last acquire. -/
def State.unordered (s : State) (a : QAcc) : Bool :=
  let k := s.task a.task
  a.kind.isPlain && !s.readsRelease a && (a.lines k ++ a.rowLines k).any fun ln => match find? s.info.lastWrite ln with
    | none => false
    | some tr => tr.core ≠ a.pcore && get s.info.lastAcq 0 a.pcore < tr.gc && !a.scPair tr

/-- The 4-byte words of an access. -/
def QAcc.words (a : QAcc) (k : Task) : List Nat := (List.range ((a.size + 3) / 4)).map fun i => a.placeAt k / 4 + i

/-- Atomics whose outcome an order can show: AMOSWP, AMOCAS, and one that returns its old value. -/
def QAcc.shows (a : QAcc) : Bool :=
  match a.kind with
  | .amo op => op = 6 || op = 7 || a.dest ≠ 0
  | _ => false

/-- Whether an atomic returns its old value. -/
def QAcc.returns (a : QAcc) : Bool :=
  match a.kind with
  | .amo _ => a.dest ≠ 0
  | _ => false

/-- An atomic whose outcome depends on an order that no acquire of its core fixes; or one whose write loses the write of another core's
atomic, which came between its read and it, where either returns a value (13 R255). -/
def State.orderDependent (s : State) (a : QAcc) : Bool :=
  (match a.lost with
    | some returned => returned || a.returns
    | none => false) ||
  a.shows && (a.words (s.task a.task)).any fun w => match find? s.info.lastRmw w with
    | none => false
    | some tr => tr.core ≠ a.pcore && get s.info.lastAcq 0 a.pcore ≤ tr.gc && !a.scPair tr

/-- A read-modify-write performs: atomics of other cores whose scope leaves its core out, and which have read the word and not written it,
lose its write (13 R255, R261). -/
def State.loseTo (s : State) (a : QAcc) : State :=
  let at' (q : QAcc) : Nat := q.placeAt (s.task q.task)
  let lose (b : QAcc) : QAcc :=
    if b.old.isSome && b.pcore ≠ a.pcore && !inScope b.scope b.pcore a.pcore && rangesMeet (at' b) b.size (at' a) a.size then
      { b with lost := some (b.lost.getD false || a.returns) }
    else b
  { s with queue := s.queue.map lose }

/-- Note the events of an access as it performs, and what later accesses will be compared with. -/
def State.trace (s : State) (a : QAcc) : State :=
  let k := s.task a.task
  let s1 := if s.unordered a then s.recordEvent a.task a.core 0x0C a.pc else s
  let s' := if s.orderDependent a then s1.recordEvent a.task a.core 0x0D a.pc else s1
  let s2 := if a.kind.isWrite && !a.kind.isPlain then s'.loseTo a else s'
  let tr : LineTrace := ⟨a.pcore, s.gcyc, a.task, a.scope, a.wheel.isSome⟩
  let info := s2.info
  let bytes := (if a.kind.isWrite then [a.placeAt k] else (a.rowAt k).toList).flatMap fun p => (List.range a.size).map (p + ·)
  { s2 with info := { info with
      lastWrite := (a.writes k).foldl (fun m l => put m l tr) info.lastWrite
      stlBytes := bytes.foldl (fun m b => if a.kind = .release then put m b a.pcore else erase m b) info.stlBytes
      lastRmw := if a.kind.isWrite && !a.kind.isPlain then (a.words k).foldl (fun m w => put m w tr) info.lastRmw
        else info.lastRmw
      lastAcq := if a.kind = .acquire then put info.lastAcq a.pcore s.gcyc else info.lastAcq } }

/-- Source lines, physical, of the runs that execute in a task (11 R226). -/
def State.runSources (s : State) (t : Nat) : List Nat :=
  let k := s.task t
  let lines := k.cores.flatMap fun c => match (c.2.engine 5).running with
    | none => []
    | some r => match r.cmd.op with
      | .run n _ index _ _ =>
        let st := s.stream n
        let e := s.tape k.ctx (st.handle.toNat % 2 ^ 16)
        let f := e.format.toNat
        if st.scatter then (List.range (recCount st.record)).map fun i => (tapePlace e.base.toNat f (index * recCount st.record + i)).1 / 64
        else (s.runLines k.ctx st.record (originOf st.record index)).1
      | _ => []
  lines.eraseDups.filterMap fun l => (s.physOf k.ctx (64 * l)).map (· / 64)

/-- A queued write to a run's source between S and P adds code 0x0C (11 R226). -/
def State.traceRun (s : State) (a : QAcc) : State :=
  let mine := match a.target with
    | .memory .. => a.lines (s.task a.task)
    | _ => []
  if s.tasks.any (fun e => shares mine (s.runSources e.1)) then s.recordEvent a.task a.core 0x0C a.pc else s

/-! ### Reads and writes of the place an access reaches -/

/-- The bytes an access reads, or the error that loses them (10 R199, 17 R303). -/
def State.readPlace (s : State) (a : QAcc) : Except Fail (List Byte) :=
  match a.target with
  | .memory pa _ =>
    if s.lost pa a.size then
      let first := ((List.range a.size).find? fun i => s.lost (pa + i) 1).getD 0
      .error { cause := 0x1A, sub := 0, d7 := (pa + first) / 64 * 64, d8 := (s.channel (pa + first)).getD 0 }
    else .ok (Memory.bytes s.mem pa a.size)
  | .slice c o =>
    let q := (s.task a.task).core c
    match (spadLines o a.size).findSome? (q.sramFail 3) with
    | some f => .error f
    | none => .ok (Memory.bytes q.slice o a.size)
  | _ => .ok []

/-- Bytes written at the place of an access, line by line, with their digest terms. -/
def State.writePlace (s : State) (a : QAcc) (l : List Byte) : State :=
  match a.target with
  | .memory pa _ =>
    let n := (pa % 64 + l.length + 63) / 64
    (List.range n).foldl (fun (s : State) i =>
      let lo := if i = 0 then 0 else 64 * i - pa % 64
      let hi := min l.length (64 * (i + 1) - pa % 64)
      s.writeLine a.task a.core ((a.va + lo) / 64 * 64) (pa + lo) ((l.drop lo).take (hi - lo))) s
  | .slice c o => (s.setTask a.task (·.setSpad (c * 2 ^ 22 + o) l)).touchSpad a.task a.core [(c * 2 ^ 22 + o, l.length)]
  | _ => s

/-- The pre-emption capture of an access that writes scratchpad: its place in a slice, or the row of an LDV (03 R61). -/
def State.capturedAcc (s : State) (a : QAcc) : Option Fail :=
  let k := s.task a.task
  match a.target with
  | .slice c o => if a.kind.isWrite then k.captureFail (spadLines (c * 2 ^ 22 + o) a.size) else none
  | _ => none

/-- A queued write has performed, so a DGST of this global cycle includes its terms (04 R86). -/
def Core.closeDigest (k : Core) : Core := { k with dgst := k.dgst + k.dgstNext, dgstNext := 0 }

/-- Lines of main memory that an access reaches. -/
def QAcc.memoryLines (a : QAcc) : List Nat :=
  match a.target with
  | .memory pa _ => spadLines pa a.size
  | _ => []

/-- An access is done: its entries are free; it has activated the rows of its lines (10 R206). -/
def State.finish (s : State) (a : QAcc) : State :=
  (((s.trace a).setCore a.task a.core Core.closeDigest).activate a.memoryLines).dropAcc a.id

/-- The result of an access in its register, if it has one. -/
def State.answer (s : State) (a : QAcc) (v : Word) : State :=
  if a.dest = 0 then s else s.globalResult a.task a.core a.id a.dest v

/-- An access ends in a fault. -/
def State.finishBad (s : State) (a : QAcc) (f : Fail) : State :=
  let lines := if f.cause = 0x1A then a.memoryLines else []
  (((s.spend lines).activate lines).accFail a f).dropAcc a.id

/-! ### Requests to a peer (23 R344, R345) -/

/-- The atomic operation number of a message. -/
def QKind.aop : QKind → Nat
  | .amo op => op
  | .vamo add => if add then 0 else 2
  | .barriv => 8
  | .barwait => 9
  | .barinit => 10
  | _ => 0

/-- The request of an access to a peer frame; the unit of an LDV or STV is its row (13 R247). -/
def QAcc.message (a : QAcc) (addr : Nat) : Message :=
  let op := if a.kind.isPlain then (if a.kind.isWrite then 2 else 1) else 3
  let data := match a.kind with
    | .store | .release | .storeRow => a.data
    | .amo 7 => leBytes a.size a.v.toNat ++ leBytes a.size a.v2.toNat
    | .amo _ | .vamo _ => leBytes a.size a.v.toNat
    | .barriv | .barwait | .barinit => leBytes 8 a.v.toNat
    | _ => []
  { op := op, size := log2 a.size, aop := a.kind.aop, coded := false, fp32 := false, scope := a.scope, tag := 0
    length := if op = 1 then a.size else data.length, addr := addr, data := data }

/-- The grant under which this chip may reach an address of a peer's export space; 0 where none does. -/
def State.grantNum (s : State) (chip addr : Nat) : Nat :=
  ((s.imports.find? fun g => (s.port g.port).chip = chip && g.first ≤ addr / 4096 && addr / 4096 < g.first + g.count).map
    (·.num)).getD 0

/-- The port by which the request of an access can go to a peer: one to the chip that is up, with room in its replay buffer. -/
def State.portFor (s : State) (a : QAcc) (chip addr : Nat) : Option Nat :=
  (s.portTo chip).filter fun p => (s.port p).room (a.message addr)

/-- Send the request of an access, if a port can take it; else it waits.  Whether the far end will discard a flit of it, so that
the link sends that flit again, is left open (log 140). -/
def State.sendAcc (s : State) (a : QAcc) (chip addr : Nat) : State :=
  match s.portFor a chip addr with
  | none => s
  | some p =>
    let (n, s1) := s.free
    (s1.request p a.id (s.grantNum chip addr) a.pcore (a.message addr)).setAcc a.id fun q =>
      { q with remote := some p, retried := q.retried || n % 2 = 1 }

/-- The slice or memory controller that serves an access (03 R55). -/
def State.server (s : State) (a : QAcc) : Option Nat :=
  match a.target with
  | .slice c _ => some ((s.task a.task).physCore c)
  | .memory pa _ => (s.channel pa).map (1024 + ·)
  | _ => none

/-- How lately a server has served the core of an access: 0 for never. -/
def State.turnOf (s : State) (a : QAcc) : Nat :=
  match s.server a with
  | some u => ((get s.turns [] u).idxOf? a.pcore).elim 0 (· + 1)
  | none => 0

/-- A server has served a core. -/
def State.serveTurn (s : State) (a : QAcc) : State :=
  match s.server a with
  | some u => { s with turns := upd s.turns [] u fun l => l.filter (· ≠ a.pcore) ++ [a.pcore] }
  | none => s

/-- An access that may perform: at a peer it is sent; elsewhere `f` performs it. -/
def State.performAcc (s : State) (id : Nat) (kinds : QKind → Bool) (f : QAcc → State) : Out :=
  .next (match s.acc id with
    | none => s
    | some a =>
      if kinds a.kind && s.mayPerform a then
        match a.target with
        | .peer chip addr => s.sendAcc a chip addr
        | _ => (f a).serveTurn a
      else s)

/-! ### The performs (13 R249 to R258) -/

/-- A load takes its bytes. -/
def State.takeLoad (s : State) (a : QAcc) (l : List Byte) : State :=
  match a.kind with
  | .loadRow => match (s.task a.task).captureFail (spadLines a.spad l.length) with
    | some f => s.finishBad a f
    | none => ((s.setTask a.task (·.setSpad a.spad l)).touchSpad a.task a.core [(a.spad, l.length)]).finish a
  | _ => (s.answer a (BitVec.ofNat 64 (leNat l))).finish a

/-- QUEUED_LOAD_PERFORM: LD, LDA, LDV. -/
def execQueuedLoadPerform (id : Nat) (s : State) : Out :=
  s.performAcc id QKind.isLoad fun a =>
    match s.readPlace a with
    | .error f => s.finishBad a f
    | .ok l => s.takeLoad a l

def QKind.isStore : QKind → Bool
  | .store | .release | .storeRow => true
  | _ => false

/-- QUEUED_WRITE_PERFORM: ST, STL, STV. -/
def execQueuedWritePerform (id : Nat) (s : State) : Out :=
  s.performAcc id QKind.isStore fun a =>
    match s.capturedAcc a with
    | some f => s.finishBad a f
    | none => ((s.writePlace a a.data).traceRun a).finish a

def QKind.isAtomic : QKind → Bool
  | .amo _ | .vamo _ => true
  | _ => false

/-- The new word of an atomic (13 R254, R256). -/
def newWord (op n old v v2 : Nat) : Nat :=
  let w := 8 * n
  match op with
  | 0 => (old + v) % 2 ^ w
  | 1 => Nat.land old v
  | 2 => Nat.lor old v
  | 3 => Nat.xor old v
  | 4 => if sext w old ≤ sext w v then old else v
  | 5 => if sext w v ≤ sext w old then old else v
  | 6 => v
  | _ => if old = v then v2 else old

/-- The write of an atomic that read `old`. -/
def State.writeAtomic (s : State) (a : QAcc) (old : Nat) : State :=
  let m := 2 ^ (8 * a.size)
  let new := newWord a.kind.aop a.size old (a.v.toNat % m) (a.v2.toNat % m)
  match s.capturedAcc a with
  | some f => s.finishBad a f
  | none => (((s.writePlace a (leBytes a.size new)).traceRun a).answer a (BitVec.ofNat 64 old)).finish a

/-- Whether an access reaches a slice, which applies an atomic in one cycle. -/
def QAcc.inSlice (a : QAcc) : Bool :=
  match a.target with
  | .slice .. => true
  | _ => false

/-- ATOMIC_PERFORM: one step in a slice, and at chip or sys scope; at a narrower scope the write follows the read after a time left
open, and a thread outside the scope may write in between (13 R255; log 107). -/
def execAtomicPerform (id : Nat) (s : State) : Out :=
  s.performAcc id QKind.isAtomic fun a =>
    match a.old with
    | some (v, _) => s.writeAtomic a v.toNat
    | none =>
      match s.readPlace a with
      | .error f => s.finishBad a f
      | .ok l =>
        if 2 ≤ a.scope || a.inSlice then s.writeAtomic a (leNat l)
        else
          let (n, s1) := s.free
          if n = 0 then s1.writeAtomic a (leNat l)
          else s1.setAcc id fun q => { q with old := some (BitVec.ofNat 64 (leNat l), s.gcyc + n) }

/-- A barrier word after a barrier operation, with the value it answers; none where 13 R259 raises the trap.  `op` is 8
arrival, 9 wait, 10 init; `held` is the word's barrier scope. -/
def barrierOp (op scope held v : Nat) (w : Word) : Option (Word × Nat) :=
  let gen := bits w 48 16
  let target := bits w 32 16
  let count := bits w 0 32
  let word (g t c : Nat) : Word := BitVec.ofNat 64 (g * 2 ^ 48 + t * 2 ^ 32 + c)
  match op with
  | 8 =>
    if scope ≠ held || target = 0 then none
    else if (count + 1) % 2 ^ 32 = target then some (word ((gen + 1) % 2 ^ 16) target 0, gen)
    else some (word gen target ((count + 1) % 2 ^ 32), gen)
  | 9 => if scope ≠ held || target = 0 then none else some (w, gen + if gen = v % 2 ^ 16 then 0 else 2 ^ 16)
  | _ => if v % 2 ^ 16 = 0 || count ≠ 0 then none else some (word gen (v % 2 ^ 16) 0, gen)

/-- BARRIER_PERFORM (13 R258, R259). -/
def execBarrierPerform (id : Nat) (s : State) : Out :=
  s.performAcc id QKind.isBarrier fun a =>
    match a.target, s.readPlace a with
    | .memory pa _, .ok l =>
      let w : Word := BitVec.ofNat 64 (leNat l)
      match barrierOp a.kind.aop a.scope (get s.info.barScope 0 pa) a.v.toNat w with
      | none => s.finishBad a { cause := 0x12, sub := 4 }
      | some (w', v) =>
        let s1 := if w' = w then s else s.writePlace a (leBytes 8 w'.toNat)
        let s2 := if a.kind = .barinit then { s1 with info := { s1.info with barScope := put s1.info.barScope pa a.scope } } else s1
        let s3 := if a.kind = .barwait && 2 ^ 16 ≤ v then
            { s2 with info := { s2.info with lastAcq := put s2.info.lastAcq a.pcore s.gcyc } } else s2
        (s3.answer a (BitVec.ofNat 64 v)).finish a
    | _, .error f => s.finishBad a f
    | _, _ => s

/-! ### Fences (04 R88, R89; 14 R268; 23 R347) -/

/-- The refused store, if one, whose fault a completing fence of a core raises: one that was revoked before any other (04 R88). -/
def Task.nackBefore (k : Task) (core id : Nat) : Option Nat :=
  let mine := k.nacked.filter fun n => n.core = core && n.id < id
  ((mine.find? (·.reason = 1)).or mine.head?).map (·.reason)

/-- The fault of a refusal: reason 1 is the grant-revoked fault, 2 the permission fault (23 R347). -/
def nackFail (reason : Nat) : Fail := if reason = 1 then { cause := 0x19, sub := 0 } else { cause := 0x16, sub := 0 }

/-- A fence with a destination completes. -/
def State.completeFence (s : State) (id : Nat) (kind : QKind) : Out :=
  .next (match s.acc id with
    | none => s
    | some a =>
      if a.kind = kind && s.fenceDone a then
        let covers := a.kind = .fencec || a.scope = 3
        match (if covers then (s.task a.task).nackBefore a.core id else none) with
        | some r => s.finishBad a (nackFail r)
        | none => (s.answer a 0).dropAcc id
      else s)

/-- FENCEC_COMPLETE (04 R88). -/
def execFencecComplete (id : Nat) (s : State) : Out := s.completeFence id .fencec

/-- SCFENCE_COMPLETE (14 R268): its place in the wheel's order is this global cycle. -/
def execScfenceComplete (id : Nat) (s : State) : Out := s.completeFence id .scfence

/-! ### What the path does next -/

/-- The walk of an access, if it answers in this global cycle. -/
def State.walkEvent (s : State) (a : QAcc) : Option Event :=
  if s.missed a && s.walking a then some (.translationWalk a.id) else none

/-- Whether an access can perform in this global cycle: at a peer, if a port to the chip has room. -/
def State.canPerform (s : State) (a : QAcc) : Bool :=
  !a.kind.isFence && s.mayPerform a && match a.target with
    | .peer chip addr => (s.portFor a chip addr).isSome
    | _ => true

def QAcc.performEvent (a : QAcc) : Event :=
  if a.kind.isLoad then .queuedLoadPerform a.id
  else if a.kind.isStore then .queuedWritePerform a.id
  else if a.kind.isAtomic then .atomicPerform a.id else .barrierPerform a.id

/-- The next thing that the queued path does in this global cycle: a walk, else the access whose core its server has served the
longest ago, the earliest such access first (03 R55). -/
def State.pathEvent (s : State) : Option Event :=
  (s.queue.findSome? s.walkEvent).or
    (((sortBy s.turnOf (s.queue.filter s.canPerform)).head?).map QAcc.performEvent)

/-- Fences that are complete in this global cycle, by increasing physical core (14 R268). -/
def State.fenceEvents (s : State) : List Event :=
  (sortBy (·.pcore) (s.queue.filter s.fenceDone)).filterMap fun a =>
    match a.kind with
    | .fencec => some (.fencecComplete a.id)
    | .scfence => some (.scfenceComplete a.id)
    | _ => none

/-- Accesses whose translation a core's caches hold take it, and plain fences that are done leave the path. -/
def State.pathQuiet (s : State) : State :=
  s.queue.foldl (fun (s : State) a =>
    if a.kind = .fence then (if s.fenceDone a then s.dropAcc a.id else s)
    else if a.target = .untranslated && !a.kind.isFence && a.walkAt ≤ s.gcyc then
      match s.cached (s.task a.task).ctx a.va a.pcore with
      | some e => s.place a e
      | none => s
    else s) s

/-- The accesses that an invalidation waits for, without those that have performed (15 R276). -/
def State.settleInvals (s : State) : State :=
  { s with invals := s.invals.map fun v => { v with waits := v.waits.filter fun id => s.queue.any (·.id = id) } }

/-- One round of the queued path: the next event, and the path again; once nothing is left to do, invalidations settle and fences
complete, so that what a fence holds back performs in a later global cycle. -/
def State.queuedStage (s : State) : State :=
  let s1 := s.pathQuiet
  match s1.pathEvent with
  | some e => s1.push [.auto e, .stage .queued]
  | none => s1.settleInvals.push (s1.fenceEvents.map .auto)

end Sys2Proof.Machine
end

