-- ==== Sys2Proof/Machine/Pages.lean ====
section
/-!
DEFINITION. Page tables and pins as firmware and the command processor change them: leaves, invalidations, the pin table
(15 R272 to R277).
-/

namespace Sys2Proof.Machine

/-! ### Leaves -/

/-- A word with one bit set or cleared. -/
def withBit (e : Word) (i : Nat) (v : Bool) : Word :=
  BitVec.ofNat 64 (e.toNat - (if bitAt e i then 2 ^ i else 0) + (if v then 2 ^ i else 0))

def State.rootOf (s : State) (ctx : Nat) : Nat := (get s.ctxs Context.start ctx).root

/-- The leaf entry that maps an address of the 57-bit space: where it lies, its level and its value. -/
def State.leafAt (s : State) (ctx va : Nat) : Option (Nat × Nat × Word) :=
  if 2 ^ 57 ≤ va then none
  else (s.leafPlace va (s.rootOf ctx) 0 5).map fun p => (p.1, p.2, Memory.word s.mem p.1)

/-- Bytes that a leaf of a level maps. -/
def leafSize (level : Nat) (e : Word) : Nat := if level = 4 && leafContig e then 2 ^ 16 else 2 ^ pageBits level

/-- Entries of the page that a leaf at an address belongs to. -/
def leafEntries (a level : Nat) (e : Word) : List Nat :=
  if level = 4 && leafContig e then (List.range 16).map fun j => a / 128 * 128 + 8 * j else [a]

/-- The leaf entries of a page changed in place; nothing where no leaf maps the address. -/
def State.mapLeaf (s : State) (ctx va : Nat) (f : Word → Word) : State :=
  match s.leafAt ctx va with
  | none => s
  | some (a, level, e) =>
    (leafEntries a level e).foldl (fun (s : State) p => s.writePhys p (leBytes 8 (f (Memory.word s.mem p)).toNat)) s

/-- Every leaf below a table: where it lies, its level, the virtual address it maps and its value, with fuel for the levels. -/
def State.leavesFrom (s : State) (va table level : Nat) : Nat → List (Nat × Nat × Nat × Word)
  | 0 => []
  | fuel + 1 => (List.range 512).flatMap fun i =>
    let a := table + 8 * i
    let e := Memory.word s.mem a
    let here := va + i * 2 ^ pageBits level
    if !bitAt e 0 then []
    else if bitAt e 1 then [(a, level, here, e)]
    else s.leavesFrom here (leafFrame e) (level + 1) fuel

/-- Every mapping, in any context, of local frames that meet a range: context, virtual address, size. -/
def State.mappingsOf (s : State) (pa n : Nat) : List (Nat × Nat × Nat) :=
  s.ctxs.flatMap fun c => ((s.leavesFrom 0 c.2.root 0 5).filter fun l =>
    leafHome l.2.2.2 ≠ 2 && rangesMeet (leafFrame l.2.2.2) (2 ^ pageBits l.2.1) pa n).map fun l =>
      (c.1, l.2.2.1, 2 ^ pageBits l.2.1)

/-! ### Invalidation (15 R276) -/

/-- A cached translation that an invalidation of a range drops: that of a pinned page stays, unless its leaf has lost CALC. -/
def State.drops (s : State) (ctx va len : Nat) (e : TlbEntry) : Bool :=
  let first := e.page * 2 ^ e.bits
  let uncalc := leafCalc e.leaf && (match s.leafAt ctx first with
    | some (_, _, now) => !leafCalc now
    | none => false)
  e.ctx = ctx && rangesMeet first (2 ^ e.bits) va len && (!s.pinned ctx first || uncalc)

/-- Every TLB of the chip drops the entries that a test names. -/
def State.dropWhere (s : State) (p : TlbEntry → Bool) : State :=
  let keep (_ : Nat) (l : List TlbEntry) : List TlbEntry := l.filter fun e => !p e
  { s with tlbCore := mapVals s.tlbCore keep, tlbQuire := mapVals s.tlbQuire keep }

/-- Every TLB of the chip drops its entries in a range. -/
def State.dropTlb (s : State) (ctx va len : Nat) : State := s.dropWhere (s.drops ctx va len)

/-- Whether the page of a cached translation that an invalidation of a range drops holds an address of the context. -/
def State.dropped (s : State) (ctx va len at' : Nat) : Bool :=
  let gone (l : List TlbEntry) : Bool := l.any fun e => e.page = at' / 2 ^ e.bits && s.drops ctx va len e
  s.tlbCore.any (fun e => gone e.2) || s.tlbQuire.any fun e => gone e.2

/-- An invalidation of a range begins: the entries are dropped, and it waits for the accesses that such an entry translated, wherever
they lie in its page. -/
def State.invalidate (s : State) (ctx va len : Nat) (grant : Option (Nat × Nat)) : State :=
  let used (a : QAcc) : Bool := (s.task a.task).ctx = ctx && (rangesMeet a.va a.size va len || s.dropped ctx va len a.va) &&
    match a.target with
    | .memory .. | .peer .. => true
    | _ => false
  let waits := (s.queue.filter used).map (·.id)
  let s1 := s.dropTlb ctx va len
  { s1 with invals := s1.invals ++ [⟨ctx, va, len, waits, grant⟩] }

/-- Whether the page of a pin has changed in its leaf, or has not, in any way but the clearing of CALC (15 R276). -/
def State.heldPin (s : State) (p : PinEntry) : Bool :=
  match s.leafAt p.ctx p.va with
  | some (_, _, e) => !(leafCalc p.leaf && e = withBit p.leaf 54 false)
  | none => true

/-- TLB_INVALIDATION (15 R276): Floor asks for the invalidation of a range.  It is refused where the range meets a pinned page,
unless that page has lost CALC and nothing else; the pin table then has the page without CALC. -/
def execTlbInvalidation (ctx va len : Nat) (s : State) : Out :=
  s.up fun s =>
    let meets (p : PinEntry) : Bool := p.ctx = ctx && rangesMeet p.va p.size va len
    if s.pins.any fun p => meets p && s.heldPin p then s.refuse
    else
      let s1 := s.invalidate ctx va len none
      { s1 with pins := s1.pins.map fun p => if meets p then { p with leaf := withBit p.leaf 54 false } else p }

/-! ### Pins (15 R277) -/

/-- The pages of a context's tape table, 4 MiB in two pages that Floor owns: they have no address in the 57-bit space of programs, and
stand above it in the pin table (08 R151, log 108). -/
def tablePages : List (Nat × Nat) := [(2 ^ 57, 2 ^ 21), (2 ^ 57 + 2 ^ 21, 2 ^ 21)]

/-- The byte ranges of a tape and of its mirror (08 R153). -/
def tapeRanges (e : TapeEntry) : List (Nat × Nat) :=
  let n := (e.capacity.toNat * elemBits e.format.toNat + 7) / 8
  (e.base.toNat, n) :: if e.mirror then [(e.mbase.toNat, n)] else []

/-- The pages of a range: virtual address and size of each; none where some page is not valid, is a peer's or migrates. -/
def State.pinnable (s : State) (ctx va n : Nat) : Option (List (Nat × Nat)) :=
  let rec go (fuel va n : Nat) : Option (List (Nat × Nat)) :=
    match fuel with
    | 0 => some []
    | k + 1 =>
      if n = 0 then some []
      else match s.walk ctx va with
        | .ok _ leaf size =>
          if leafHome leaf = 2 || leafMigr leaf then none
          else
            let first := va / size * size
            (go k (first + size) (n - (first + size - va))).map ((first, size) :: ·)
        | _ => none
  go (n / 4096 + 2) va n

/-- A page's count rises, and PINNED is set. -/
def State.pinPage (s : State) (ctx va size : Nat) : State :=
  let same (p : PinEntry) : Bool := p.ctx = ctx && p.va = va
  let s1 := s.mapLeaf ctx va (withBit · 10 true)
  let leaf := match s1.leafAt ctx va with
    | some (_, _, e) => e
    | none => 0
  { s1 with pins := if s1.pins.any same then s1.pins.map fun p => if same p then { p with count := p.count + 1 } else p
      else s1.pins ++ [⟨ctx, va, size, 1, leaf⟩] }

/-- A page's count falls; at 0 it leaves the table and PINNED is cleared. -/
def State.unpinPage (s : State) (ctx va : Nat) : State :=
  let same (p : PinEntry) : Bool := p.ctx = ctx && p.va = va
  let s1 := { s with pins := (s.pins.map fun p => if same p then { p with count := p.count - 1 } else p).filter (0 < ·.count) }
  if s1.pins.any same then s1 else s1.mapLeaf ctx va (withBit · 10 false)

end Sys2Proof.Machine
end

