-- ==== Sys2Proof/Machine/Failure.lean ====
section
/-!
DEFINITION. Device-fatal errors, the fatal dump and its export, Floor's restart, core retirement (17 R311, R319 to R325).
-/

namespace Sys2Proof.Machine

/-! ### Core retirement (17 R320, 03 R43) -/

/-- Spare cores of a die that have passed their self-test and stand in for no core. -/
def State.sparesOf (s : State) (die : Nat) : List Nat :=
  (List.range 4).filter fun k => !s.fw.badSpares.contains (4 * die + k) && !s.fw.spareOf.any fun e => e.1 / 128 = die && e.2 = k

/-- Kiln retires a physical core, or the spare that stands in for it: a spare of its die takes its place at the next launch; with none
left its quire is lost. -/
def State.retireCore (s : State) (core : Nat) : State :=
  let die := core / 128
  let bad := ((find? s.fw.spareOf core).toList.map (4 * die + ·)) ++ s.fw.badSpares
  let s1 := { s with fw := { s.fw with
    retired := s.fw.retired ++ [core], twinCounts := erase s.fw.twinCounts core, badSpares := bad } }
  { s1 with fw := match (s.sparesOf die).head? with
    | some k => { s1.fw with spareOf := put s1.fw.spareOf core k }
    | none => { s1.fw with lostQuires := (s1.fw.lostQuires ++ [core / 8]).eraseDups } }

/-- Twin mismatches of a physical core: at three within 24 hours Floor asks Kiln to retire it, through the mailbox, once (17 R319, 24
R350). -/
def State.countTwin (s : State) (core n : Nat) : State :=
  let seen := (get s.fw.twinCounts [] core).filter (s.gcyc < · + day) ++ List.replicate (min n 3) s.gcyc
  let ask := 3 ≤ seen.length && s.fw.mailbox.length < 64 && !s.fw.mailbox.contains (.retireCore core)
  { s with fw := { s.fw with
    twinCounts := put s.fw.twinCounts core seen
    mailbox := if ask then s.fw.mailbox ++ [.retireCore core] else s.fw.mailbox } }

/-! ### The fatal dump (17 R323, R324) -/

/-- The CAUSE byte. -/
def fatalCode : FatalCause → Nat
  | .kilnMismatch => 1
  | .kilnMemory => 2
  | .decodeTable => 3
  | .commandProcessor => 4
  | .gcyc => 5
  | .temperature => 6
  | .power => 7

/-- CRC32C of bytes (11 R218). -/
def crc32c (l : List Byte) : Nat := ((l.foldl (fun c b => crcByte c b.toNat) (BitVec.allOnes 32)) ^^^ BitVec.allOnes 32).toNat

/-- Cores that are bound to a task, in physical order, as (task, relative core). -/
def State.boundCores (s : State) : List (Nat × Nat) :=
  let all := (s.tasks.filter fun e => s.quireOwner.any (·.2 = e.1)).flatMap fun e => (List.range e.2.coreCount).map fun c => (e.1, c)
  sortBy (fun x => (s.task x.1).physCore x.2) all

/-- The latest fault record of a core, as Floor holds it; zeros where the core has raised none. -/
def State.latestRecord (s : State) (x : Nat × Nat) : List Byte :=
  get s.fw.records (List.replicate 128 0) ((s.task x.1).physCore x.2)

/-- `n` bytes of a section that holds `v`, in a layout that the spec leaves open (log 117). -/
def dumped {α : Type} (type n : Nat) (v : α) : List Byte := (List.range n).map (Config.dumpByte α type v)

/-- A core's record: 128 KiB of architectural state, then its 4,736 KiB of SRAM (17 R324). -/
def State.coreRecord (s : State) (x : Nat × Nat) : List Byte :=
  let k := s.task x.1
  let c := k.core x.2
  dumped 2 (128 * 1024) ((c.s, c.p, c.b, c.c, c.w, c.h), (c.pc, k.dc, c.lc, c.fmt, c.fmtNext, c.cmpat, c.wheelmap, c.frptr, c.twin, c.tallocmap),
    (c.detc, c.dgst), c.engines, k.owed.filter (·.core = x.2)) ++
  dumped 2 (4736 * 1024) (c.tiles, c.mtx, c.slice, c.winMem, c.seq)

/-- The sections of a dump, in the order of their types (17 R324).  The spec gives the sizes of 2 and of 3 without its stream contexts;
every other size is left open (log 117). -/
def State.dumpSections (s : State) : List (List Byte) × State :=
  let cores := s.boundCores
  let size (i : Nat) : Nat := Config.freeNat (s.freeCount + i) % 2 ^ 20
  ([cores.flatMap s.latestRecord, cores.flatMap s.coreRecord,
    dumped 3 (96 * 2 ^ 20 + size 0) s.streams,
    dumped 4 (size 1) (s.queueCtx, s.fns, s.ready, s.running, mapVals s.tasks fun _ k => k.posts),
    dumped 5 (size 2) (mapVals s.ctxs fun _ c => c.tapes, s.pins),
    dumped 6 (size 3) (s.info.failing, s.info.poison, s.dram.hot, s.dram.scores)], { s with freeCount := s.freeCount + 4 })

/-- The 4 KiB header with its directory. -/
def State.dumpHeader (s : State) (cause : FatalCause) (flags : Nat) (sections : List (List Byte)) : List Byte :=
  let at' := (List.range sections.length).zip sections
  let entry (e : Nat × List Byte) : List Byte :=
    let off := 4096 + total ((sections.take e.1).map (·.length))
    leBytes 8 (e.1 + 1) ++ leBytes 8 off ++ leBytes 8 e.2.length ++ leBytes 8 (crc32c e.2)
  let fixed' := leBytes 4 0x47444D50 ++ leBytes 2 1 ++ leBytes 1 (fatalCode cause) ++ leBytes 1 flags ++ leBytes 8 s.gcyc ++
    leBytes 8 s.fw.kilnVersion ++ leBytes 2 sections.length
  let all := fixed' ++ List.replicate (64 - fixed'.length) 0 ++ at'.flatMap entry
  all ++ List.replicate (4096 - all.length) 0

/-- Memory with a whole region written at once, in canonical form. -/
def Memory.load (m : Memory) (base : Nat) (l : List Byte) : Memory :=
  let cells := ((List.range l.length).zip l).filterMap fun e =>
    if e.2 = Config.emptyByte then none else some (base + e.1, e.2)
  m.filter (·.1 < base) ++ cells ++ m.filter (base + l.length ≤ ·.1)

/-- Kiln writes the dump; where the capacity tier has failed it sends the header and section 1 over the management port instead
(17 R325). -/
def State.writeDump (s : State) (cause : FatalCause) : State :=
  let (sections, s1) := s.dumpSections
  let base := s.dumpBase
  let broken := s.info.failing.any fun e => base / 64 ≤ e.1 && e.1 < (base + 2 ^ 32) / 64
  if broken then
    let first := sections.take 1
    { s1 with fw := { s1.fw with dump := s.dumpHeader cause 2 first ++ first.flatten, dumpExported := true } }
  else
    let body := s.dumpHeader cause 0 sections ++ sections.flatten
    let all := body ++ Config.sign (Config.shake256 body)
    let (n, s2) := s1.free
    { s2 with
      mem := Memory.load s2.mem base all
      fw := { s2.fw with dump := all, dumpComplete := false, dumpExported := false, dumpDue := some (s.gcyc + 1 + n) } }

/-- A device-fatal error: every domain stops in this global cycle and nothing more performs.  A second one during the dump
stops the dump. -/
def State.fatal (s : State) (cause : FatalCause) : State :=
  match s.fw.boot with
  | .failed _ => { s with fw := { s.fw with dumpDue := none } }
  | _ =>
    let s1 := s.writeDump cause
    { s1 with agenda := [], issued := [], newQueue := [], traps := [], fw := { s1.fw with boot := .failed cause } }

/-- DEVICE_FATAL (17 R311). -/
def execDeviceFatal (cause : FatalCause) (s : State) : Out := .next (s.fatal cause)

/-- The dump is complete: COMPLETE is set last. -/
def State.finishDump (s : State) : State :=
  match s.fw.dumpDue with
  | none => s
  | some due =>
    if s.gcyc < due then s
    else { s with
      mem := Memory.set s.mem (s.dumpBase + 7) 1
      fw := { s.fw with dump := s.fw.dump.set 7 1, dumpComplete := true, dumpDue := none } }

/-- DUMP_EXPORT (17 R325): Floor exports a complete dump; the device stays failed. -/
def execDumpExport (s : State) : Out :=
  .next (if s.fw.dumpComplete then { s with fw := { s.fw with dumpExported := true } } else s)

/-- The device after its reset line, which the board drives (log 121): everything as State.reset gives it, but for the fuses, and for
the dump region, of which reset clears nothing until Floor has confirmed the export (17 R325). -/
def State.resetDevice (s : State) : State :=
  let base := s.dumpBase
  let kept := !s.fw.dumpExported && (match s.fw.boot with
    | .failed _ => true
    | _ => false)
  { State.reset with
    mem := if kept then s.mem.filter fun c => base ≤ c.1 && c.1 < base + 2 ^ 32 else []
    fw := { Firmware.start with counters := s.fw.counters } }

/-! ### Floor's restart (17 R322, 24 R350) -/

/-- Whether a task waits for an answer of Floor. -/
def Task.waitsForFloor (k : Task) : Bool :=
  match k.service with
  | some v => match v.kind with
    | .replay .. => false
    | _ => true
  | none => false

/-- FLOOR_RESTART: Kiln fails every domain that waits for service, with the cause of the trap it waits on, discards pending
requests and restarts Floor. -/
def execFloorRestart (s : State) : Out :=
  s.up fun s =>
    let s1 := (s.tasks.filter (·.2.waitsForFloor)).foldl (fun (s : State) e => s.failService e.1) s
    { s1 with fw := { s1.fw with mailbox := [], floorRestarts := s1.fw.floorRestarts + 1 } }

end Sys2Proof.Machine
end

