-- ==== Sys2Proof/Machine/Loader.lean ====
section
/-!
DEFINITION. The code scanner, the validation of mash bills and the checks of a folio (02 R33 to R41; 11 R217 to R220; 10 R202;
03 R52; 14 R263).
-/

namespace Sys2Proof.Machine

/-! ### Paths through a kernel's text (02 R34, R35) -/

/-- The target of a branch or loop at a bundle. -/
def branchTarget (pc : Nat) (i : Instr) : Option Int :=
  match i with
  | .br o | .call o | .loop o => some ((pc : Int) + o.toInt)
  | .brp _ o | .brnp _ o => some ((pc : Int) + o.toInt)
  | _ => none

/-- Whether a path ends in this slot: HALT, TRAP or JR. -/
def endsPath (i : Instr) : Bool :=
  match i with
  | .halt | .trap _ | .jr _ _ => true
  | _ => false

/-- Whether a slot never falls through to the next bundle. -/
def leavesBundle (i : Instr) : Bool :=
  match i with
  | .br _ | .call _ | .ret => true
  | i => endsPath i

def isCall (i : Instr) : Bool :=
  match i with
  | .call _ => true
  | _ => false

def isRet (i : Instr) : Bool :=
  match i with
  | .ret => true
  | _ => false

/-- Bundles that may follow a bundle, RET's return sites left out.  With `over`, a CALL leads past its callee. -/
def follows (n pc : Nat) (l : List Instr) (above : Bool) : List Nat :=
  let inside (v : Int) : Option Nat := if 0 ≤ v && v < n then some v.toNat else none
  if l.any endsPath then []
  else
    let targets := (l.filter fun i => !(above && isCall i)).filterMap fun i => (branchTarget pc i).bind inside
    let next := if l.any (fun i => leavesBundle i && !(above && isCall i)) then [] else [pc + 1]
    (targets ++ next).eraseDups

/-- Bundles reachable from a list, with fuel for the edges to follow. -/
def reachFrom (g : List (List Nat)) : Nat → List Nat → List Nat → List Nat
  | 0, _, seen => seen
  | _ + 1, [], seen => seen
  | k + 1, u :: work, seen =>
    if seen.contains u || g.length ≤ u then reachFrom g k work seen
    else reachFrom g k (g.getD u [] ++ work) (u :: seen)

def reach (g : List (List Nat)) (starts : List Nat) : List Nat :=
  reachFrom g (starts.length + total (g.map (·.length)) + 1) starts []

/-- The control-flow graph of a text: each RET leads back to the bundle after every CALL that reaches its callee. -/
def flowGraph (text : List (List Instr)) : List (List Nat) :=
  let n := text.length
  let at' := (List.range n).zip text
  let intra := at'.map fun e => follows n e.1 e.2 true
  let calls := at'.flatMap fun e => (e.2.filter isCall).filterMap fun i => (branchTarget e.1 i).map fun v => (e.1, v.toNat)
  let back (pc : Nat) (l : List Instr) : List Nat :=
    if l.any isRet then (calls.filter fun c => (reach intra [c.2]).contains pc).map (·.1 + 1) else []
  at'.map fun e => (follows n e.1 e.2 false ++ back e.1 e.2).eraseDups

/-- The most queued stores, tile-row writes and table operations that a slot can cause (02 R34). -/
def slotWeight (i : Instr) : Counts :=
  let u := usesOf i
  let fixedRows := (u.sets.filter fun d => match d with
    | .row .. => true
    | _ => false).length
  let destRows := total (u.dest.toList.map fun d => if d.1.toNat < 0x10 || (0x18 ≤ d.1.toNat && d.1.toNat < 0x20) then d.2 else 0)
  let stores : Nat := match i with
    | .st .. | .stl .. | .stv .. | .barriv .. | .barinit .. | .amoadd .. | .amoand .. | .amoor .. | .amoxor .. | .amomin ..
    | .amomax .. | .amoswp .. | .amocas .. => 1
    | .vamoor .. | .vamoadd .. => 128
    | _ => 0
  let headRows : Nat := match i with
    | .hwr .. | .hupd .. => 1
    | _ => 0
  let tables : Nat := match i with
    | .hopen .. | .hnew .. | .hlease .. | .hfree .. | .hclose .. | .hseal .. | .sfbind .. | .sfrel .. => 1
    | _ => 0
  ⟨stores, fixedRows + destRows + headRows, tables⟩

def bundleWeight (l : List Instr) : Counts := l.foldl (fun c i => c.add (slotWeight i)) ⟨0, 0, 0⟩
def Counts.max (a b : Counts) : Counts := ⟨Nat.max a.stores b.stores, Nat.max a.rows b.rows, Nat.max a.tables b.tables⟩
def Counts.isZero (a : Counts) : Bool := a = ⟨0, 0, 0⟩

/-- One round of the longest counts at the end of every bundle: the count starts again at each start. -/
def countRound (g : List (List Nat)) (starts : List Nat) (w : List Counts) (vals : List (Option Counts)) : List (Option Counts) :=
  (List.range g.length).map fun v =>
    let own := w.getD v ⟨0, 0, 0⟩
    if starts.contains v then some own
    else
      let before := (List.range g.length).filterMap fun u => if (g.getD u []).contains v then vals.getD u none else none
      match before with
      | [] => none
      | c :: rest => some ((rest.foldl Counts.max c).add own)

def rounds {α : Type} (f : α → α) : Nat → α → α
  | 0, x => x
  | k + 1, x => rounds f k (f x)

/-- Bundles that fail check 0x0A: those at which a count passes its limit, and those that count and lie on a cycle without a
restart bundle, whether or not a path reaches it. -/
def overCounts (g : List (List Nat)) (marks : List Nat) (w : List Counts) : List Nat :=
  let n := g.length
  let counts := rounds (countRound g (0 :: marks).eraseDups w) (n + 1) (List.replicate n none)
  let passes (v : Nat) : Bool := match counts.getD v none with
    | some c => c.above
    | none => false
  let free := (List.range n).map fun u => if marks.contains u then [] else (g.getD u []).filter fun v => !marks.contains v
  let rings (v : Nat) : Bool := !(w.getD v ⟨0, 0, 0⟩).isZero && (reach free (free.getD v [])).contains v
  (List.range n).filter fun v => passes v || rings v

/-- What the scanner finds in the paths of a kernel's text: (bundle, slot, reason).  A failure that belongs to a path names slot 0 of
a bundle of the path (log 90). -/
def pathFaults (bundles : List Bundle) : List (Nat × Nat × Nat) :=
  let n := bundles.length
  let text := bundles.map fun b => (Bundle.instrs b).map (·.2)
  let at' := (List.range n).zip bundles
  let outside := at'.flatMap fun e => (Bundle.instrs e.2).filterMap fun i => match branchTarget e.1 i.2 with
    | some v => if 0 ≤ v && v < n then none else some (e.1, i.1, 0x09)
    | none => none
  let g := flowGraph text
  let marks := (at'.filter fun e => Bundle.isRestart e.2).map (·.1)
  let off := (reach g (0 :: marks)).filter fun u => (g.getD u []).contains n
  if n = 0 then [(0, 0, 0x0B)]
  else outside ++ (overCounts g marks (text.map bundleWeight)).map (·, 0, 0x0A) ++ off.map (·, 0, 0x0B)

/-! ### Pages of code (02 R33) -/

/-- The bundles at a virtual address; none where a page is missing. -/
def State.textAt (s : State) (ctx va n : Nat) : Option (List Bundle) :=
  (List.range n).mapM fun i => (s.readVirt ctx (va + 16 * i) 16).map bundleOf

/-- The first virtual address and the size of the page that holds an address, in local memory. -/
def State.pageOf (s : State) (ctx va : Nat) : Option (Nat × Nat) :=
  match s.walk ctx va with
  | .ok _ leaf size => if leafHome leaf = 2 then none else some (va / size * size, size)
  | _ => none

/-- What the scanner finds in the bundles of a page: page, offset in it, slot, reason. -/
def State.scanPage (s : State) (ctx va : Nat) : List (Nat × Nat × Nat × Nat) :=
  match s.pageOf ctx va with
  | none => []
  | some (page, size) => match s.textAt ctx page (size / 16) with
    | none => []
    | some l => ((List.range l.length).zip l).flatMap fun e => (Bundle.faults e.2).map fun f => (page, 16 * e.1, f.1, f.2)

/-- Kiln takes write permission of a page's frames from every mapping, pinned ones among them, and no TLB or pin keeps it. -/
def State.writeProtect (s : State) (ctx va : Nat) : State :=
  match s.walk ctx va with
  | .ok pa _ size =>
    (s.mappingsOf (pa / size * size) size).foldl (fun (s : State) m =>
      let s1 := (s.mapLeaf m.1 m.2.1 (withBit · 3 false)).dropWhere fun e =>
        e.ctx = m.1 && rangesMeet (e.page * 2 ^ e.bits) (2 ^ e.bits) m.2.1 m.2.2
      { s1 with pins := s1.pins.map fun p =>
          if p.ctx = m.1 && rangesMeet p.va p.size m.2.1 m.2.2 then { p with leaf := withBit p.leaf 3 false } else p }) s
  | _ => s

/-- Whether a queued write to the page that holds an address has still to perform. -/
def State.writesPending (s : State) (ctx va : Nat) : Bool :=
  match s.walk ctx va with
  | .ok pa _ size => s.queue.any fun a => a.kind.isWrite && match a.target with
      | .memory p _ => rangesMeet p a.size (pa / size * size) size
      | _ => false
  | _ => false

/-- Note the frames of a page whose attribute a peer write must respect (23 R345): 0 barrier, 1 tape, 2 executable. -/
def State.noteFrames (s : State) (ctx va kind : Nat) : State :=
  match s.walk ctx va with
  | .ok pa _ size =>
    let e := (pa / size * size, size, kind)
    { s with fw := { s.fw with attrFrames := s.fw.attrFrames.filter (· ≠ e) ++ [e] } }
  | _ => s

/-- Whether a page may be executable: a local leaf that is neither tape nor barrier page (15 R274). -/
def State.canExecute (s : State) (ctx va : Nat) : Bool :=
  match s.leafAt ctx va with
  | some (_, _, e) => leafHome e ≠ 2 && !leafTape e && !leafBarrier e
  | none => false

/-- A scanned page becomes executable. -/
def State.makeExecutable (s : State) (ctx va : Nat) : State :=
  (s.mapLeaf ctx va fun e => withBit (withBit e 3 false) 4 true).noteFrames ctx va 2

/-! ### Mash bills (11 R217 to R220) -/

/-- What a node's type allows: whether it needs A, needs B, may have B, and whether its parameters are in range. -/
def nodeShape (n : BitVec 128) : Option (Bool × Bool × Bool × Bool) :=
  let p0 := nodeP0 n
  let p1 := nodeP1 n
  let none' := p0 = 0 && p1 = 0
  match nodeType n with
  | 0x01 => some (true, false, false, none')
  | 0x02 => some (true, false, false, p0 % 16 ≤ 10 && p0 < 64 && p1 < 256)
  | 0x03 => some (true, false, false, p0 ≤ 5 && p1 = 0)
  | 0x04 => some (true, false, false, isFloatFmt (p0 % 16) && p0 < 2 ^ 12 && 1 ≤ p1 && p1 ≤ 256)
  | 0x05 => some (true, true, true, isFloatFmt p0 && 1 ≤ p1 && p1 < 2 ^ 20)
  | 0x06 | 0x07 => some (true, true, true, none')
  | 0x08 => some (true, false, false, p0 < 256 && p1 = 0)
  | 0x09 => some (true, false, true, p0 < 3)
  | 0x0A => some (true, false, false, p0 < 2 ^ 22 && p1 = 0)
  | 0x0B => some (true, false, false, none')
  | 0x0C => some (true, false, false, none')
  | 0x0D => some (true, false, false, p0 < 2 ^ 12 && p1 = 0)
  | 0x0E => some (false, false, false, p0 = 0)
  | _ => none

/-- Manhattan distance of two cells. -/
def cellGap (a b : Nat) : Nat := (a / 8 - b / 8) + (b / 8 - a / 8) + (a % 8 - b % 8) + (b % 8 - a % 8)

/-- The earlier nodes that a node takes as inputs. -/
def nodeInputs (n : BitVec 128) : List Nat := [nodeA n, nodeB n].filter (· < 64)

/-- Whether node `i` of a bill is well formed by itself and with its inputs. -/
def nodeOk (nodes : List (BitVec 128)) (i : Nat) (n : BitVec 128) : Bool :=
  let unpack := nodeType n = 0x01
  let input (v : Nat) (need may : Bool) : Bool :=
    if v = 0x7F then !need else may && ((v < i && !unpack) || (v = 0x40 && unpack))
  let fed := match nodes[nodeA n]? with
    | some p => nodeType p = 0x02
    | none => false
  match nodeShape n with
  | none => false
  | some (a, b, mayB, params) =>
    bits n 26 6 = 0 && bits n 96 32 = 0 && params && input (nodeA n) a a && input (nodeB n) b mayB &&
      (nodeType n ≠ 0x0B || fed) &&
      (nodeInputs n).all fun j => cellGap (nodeCell n) (nodeCell (nodes.getD j 0)) ≤ 3

/-- The longest path from an input to each node (11 R220). -/
def nodeDepths (nodes : List (BitVec 128)) : List Nat :=
  nodes.foldl (fun (acc : List Nat) n =>
    let own := if nodeType n = 0x0D then 1 + ceilDiv ((nodeP0 n % 64 + 1) * (nodeP0 n / 64 % 64 + 1)) 128 else 1
    acc ++ [own + (nodeInputs n).foldl (fun m j => Nat.max m (acc.getD j 0)) 0]) []

/-- Kiln's validation of a bill's nodes (11 R220): the bill with its depth and PACK's format. -/
def validateBill (nodes : List (BitVec 128)) : Option Bill :=
  let n := nodes.length
  let at' := (List.range n).zip nodes
  let count (t : Nat) : Nat := (nodes.filter (nodeType · = t)).length
  let last := nodes.getLastD 0
  let used (i : Nat) : Bool := i + 1 = n || at'.any fun e => i < e.1 && (nodeInputs e.2).contains i
  let ok := 1 ≤ n && n ≤ 64 && at'.all (fun e => nodeOk nodes e.1 e.2 && used e.1) &&
    (nodes.map nodeCell).eraseDups.length = n && count 0x01 = 1 && count 0x02 ≤ 1 && count 0x0B ≤ 1 &&
    (nodeType last = 0x02 || nodeType last = 0x0B)
  let pack := (nodes.find? (nodeType · = 0x02)).getD 0
  if ok then some ⟨nodes, (nodeDepths nodes).getLastD 0, nodeP0 pack % 16, nodeType last = 0x0B⟩ else none

/-- A bill image at a virtual address (11 R217). -/
def State.readBill (s : State) (ctx va : Nat) : Option Bill :=
  match s.readVirt ctx va 16 with
  | none => none
  | some head =>
    let n := leNat (head.take 1)
    if va % 64 ≠ 0 || leNat (head.drop 1) ≠ 1 then none
    else (s.readVirt ctx (va + 16) (16 * n)).bind fun l =>
      validateBill ((List.range n).map fun i => BitVec.ofNat 128 (leNat ((l.drop (16 * i)).take 16)))

/-- The bills of a kernel by slot; none where one fails. -/
def State.kernelBills (s : State) (ctx : Nat) (k : KernelImage) : Option (SMap Bill) :=
  k.mash.foldl (fun acc m => acc.bind fun t => if 8 ≤ m.1 then none else (s.readBill ctx m.2).map (put t m.1)) (some [])

/-! ### Timing sections (02 R41) -/

/-- Whether an entry of a timeline names what it may (10 R202). -/
def entryOk (k : KernelImage) (e : Word) : Bool :=
  let w := windowOf 0 e
  match w.cmd with
  | 1 => w.lines = 0 && w.target < 16
  | 2 => 1 ≤ w.lines && w.lines ≤ 16 && k.timetable.any (·.tag = w.target)
  | 3 => w.lines = 0 && w.target = 0
  | 4 => w.bank = 0 && w.lines = 0 && w.target = 0
  | _ => false

/-- Whether numbers rise strictly. -/
def rising : List Nat → Bool
  | a :: b :: rest => a < b && rising (b :: rest)
  | _ => true

/-- The checks of 10 R202 on a section that do not depend on the tier. -/
def timelineOk (k : KernelImage) (t : TimelineSec) : Bool :=
  let form := match t.cycle with
    | none => true
    | some (from', period) => from' < 2 ^ 32 && 256 ≤ period && period < 2 ^ 32 && t.entries.all (entryDc · < period)
  t.chan < 128 && t.entries.length ≤ 65536 && form && rising (t.entries.map entryDc) && t.entries.all (entryOk k)

/-- The mesh slot table (03 R52). -/
def meshOk (k : KernelImage) : Bool :=
  k.mesh.all (fun e => e.slot < 256 && e.src < k.quires && e.dst < k.quires) &&
    (List.range 256).all fun slot =>
      let l := k.mesh.filter (·.slot = slot)
      l.length ≤ 16 && (l.map (·.src)).eraseDups.length = l.length && (l.map (·.dst)).eraseDups.length = l.length

/-- The .timetable section (02 R41). -/
def timetableOk (k : KernelImage) : Bool :=
  let l := k.timetable
  l.all (fun e => e.core < 8 * k.quires && (e.engine ≤ 3 || e.engine = 5 || e.engine = 6) && e.start < 2 ^ 32) &&
    (l.map (·.tag)).eraseDups.length = l.length &&
    (l.map fun e => (e.core, e.engine, e.start)).eraseDups.length = l.length

/-! ### A folio (02 R38 to R41) -/

/-- c′ of 14 R263: the smallest power of two at or above c. -/
def wheelCount (c : Nat) : Nat := if c ≤ 1 then c else 2 ^ (log2 (c - 1) + 1)

/-- Whether the slot word at an address is ROW op 0x19, VRSQ, whatever its other bits (02 R39). -/
def State.vrsqAt (s : State) (ctx va : Nat) : Bool :=
  match s.readVirt ctx va 4 with
  | some l => leNat l / 2 ^ 22 = 0x4 * 2 ^ 6 + 0x19
  | none => false

/-- CMPAT of a folio's tasks (02 R38, R39). -/
def compatWord (f : FolioImage) : Word :=
  let bit (i : Nat) : Nat := if f.compat = 0 || bitAt f.bits i then 1 else 0
  BitVec.ofNat 64 (0x10000 + f.compat + bit 0 * 2 ^ 8 + bit 1 * 2 ^ 9 + bit 2 * 2 ^ 10 + bit 3 * 2 ^ 32)

/-- The page of each bundle of a kernel's text, once each; an address that no page holds stands for itself. -/
def State.textPages (s : State) (ctx : Nat) (k : KernelImage) : List Nat :=
  ((List.range k.bundles).map fun i => ((s.pageOf ctx (k.text + 16 * i)).map (·.1)).getD (k.text + 16 * i)).eraseDups

/-- What the scanner finds in the paths of a kernel's text: page, offset in it, slot, reason. -/
def State.scanPaths (s : State) (ctx : Nat) (k : KernelImage) : List (Nat × Nat × Nat × Nat) :=
  let place (b : Nat) : Nat × Nat := match s.pageOf ctx (k.text + 16 * b) with
    | some (page, _) => (page, k.text + 16 * b - page)
    | none => (k.text, 16 * b)
  match s.textAt ctx k.text k.bundles with
  | some l => (pathFaults l).map fun x => ((place x.1).1, (place x.1).2, x.2.1, x.2.2)
  | none => []

/-- What the scanner finds in a folio, kernel by kernel: its text pages, then the paths of its text (log 90). -/
def State.scanFolio (s : State) (f : FolioImage) : List (Nat × Nat × Nat × Nat) :=
  f.kernels.flatMap fun k => (s.textPages f.ctx k).flatMap (s.scanPage f.ctx ·) ++ s.scanPaths f.ctx k

/-- The kernels of loaded folios whose text meets a page. -/
def State.kernelsOn (s : State) (ctx page : Nat) : List KernelImage :=
  (s.folios.filter fun f => f.2.img.ctx = ctx).flatMap fun f => f.2.img.kernels.filter fun k => (s.textPages ctx k).contains page

/-- What a scan of one page finds: its bundles, and the paths through the text of each loaded folio's kernel that lies on it. -/
def State.scanFor (s : State) (ctx va : Nat) : List (Nat × Nat × Nat × Nat) :=
  s.scanPage ctx va ++ match s.pageOf ctx va with
    | some (page, _) => (s.kernelsOn ctx page).flatMap (s.scanPaths ctx ·)
    | none => []

/-- The lines of pages that Kiln reads are activated (10 R206). -/
def State.stampPages (s : State) (ctx : Nat) (l : List Nat) : State :=
  l.foldl (fun (s : State) va => match s.pageOf ctx va with
    | some (page, size) => s.stampVirt ctx page size
    | none => s) s

/-- CODE_SCAN (02 R33): the page loses W, for good (log 91); once its writes have performed Kiln reads it, and maps it executable or
returns the first 16 failures. -/
def execCodeScan (ctx va : Nat) (s : State) : Out :=
  s.up fun s =>
    let s1 := s.writeProtect ctx va
    if s1.writesPending ctx va then { s1 with env := insertBy (·.1) (s.gcyc + 1, .codeScan ctx va) s1.env }
    else
      let bad := s1.scanFor ctx va
      let s1 := s1.stampPages ctx [va]
      let s2 := { s1 with fw := { s1.fw with scanReport := bad.take 16 } }
      if bad.isEmpty && s2.canExecute ctx va then s2.makeExecutable ctx va else s2

/-- The instructions of a kernel's text. -/
def State.kernelInstrs (s : State) (ctx : Nat) (k : KernelImage) : List Instr :=
  ((s.textAt ctx k.text k.bundles).getD []).flatMap fun b => (Bundle.instrs b).map (·.2)

/-- The text pages of a folio. -/
def State.folioPages (s : State) (f : FolioImage) : List Nat := (f.kernels.flatMap (s.textPages f.ctx)).eraseDups

/-- The first of a list of checks that fails. -/
def firstFailed (checks : List (Nat × Bool)) : Option Nat := (checks.find? fun c => !c.2).map (·.1)

/-- The rejection code of a folio by its declarations (02 R40, checks 1 and 2). -/
def State.declCode (s : State) (f : FolioImage) : Option Nat :=
  let vrsq (k : KernelImage) : Bool := (List.range (4 * k.bundles)).any fun i => s.vrsqAt f.ctx (k.text + 4 * i)
  let level := f.compat ≤ 1 && !bitAt f.bits 4 && !(f.compat = 0 && f.kernels.any vrsq)
  firstFailed [(0x10, f.feature = 1), (0x11, level)]

/-- The rejection code of a folio by its text, bills and timing sections (02 R40, R41, checks 3 to 8), each check made for every
kernel before the next (log 92). -/
def State.textCode (s : State) (f : FolioImage) : Option Nat :=
  let text (k : KernelImage) : List Instr := s.kernelInstrs f.ctx k
  let wheel (k : KernelImage) : Bool :=
    (1 ≤ k.wheel || !(text k).any Instr.isSc) && wheelCount k.wheel * (8 * k.quires) ≤ 4096
  firstFailed
    [(0x12, (s.folioPages f).all (s.canExecute f.ctx ·) && (s.scanFolio f).isEmpty), (0x13, f.kernels.all wheel),
     (0x14, f.kernels.all fun k => (s.kernelBills f.ctx k).isSome),
     (0x15, f.kernels.all fun k => k.timelines.all (timelineOk k)), (0x16, f.kernels.all meshOk),
     (0x17, f.kernels.all timetableOk)]

/-- The rejection code of a folio, the first check that fails; none where every check passes (02 R40, R41). -/
def State.folioCode (s : State) (f : FolioImage) : Option Nat := (s.declCode f).or (s.textCode f)

/-- FOLIO_LOAD (02 R40, R41): the checks in order; an accepted folio's text is executable and its kernels can be launched.  For check
3 text pages lose W, and the scan waits for their queued writes (02 R33). -/
def execFolioLoad (f : FolioImage) (s : State) : Out :=
  s.up fun s =>
    if (s.declCode f).isSome then { s with fw := { s.fw with loadCode := s.declCode f, scanReport := [] } }
    else
    let s1 := (s.folioPages f).foldl (fun (s : State) va => s.writeProtect f.ctx va) s
    if (s.folioPages f).any fun va => s1.writesPending f.ctx va then
      { s1 with env := insertBy (·.1) (s.gcyc + 1, .folioLoad f) s1.env }
    else
      let code := s1.folioCode f
      let report := if code = some 0x12 then (s1.scanFolio f).take 16 else []
      let s1 := s1.stampPages f.ctx (s.folioPages f)
      let s2 := { s1 with fw := { s1.fw with loadCode := code, scanReport := report } }
      match code with
      | some _ => s2
      | none =>
        let s3 := (s.folioPages f).foldl (fun (s : State) va => s.makeExecutable f.ctx va) s2
        let bills := f.kernels.map fun k => (s.kernelBills f.ctx k).getD []
        { s3 with folios := put s3.folios f.id ⟨f, compatWord f, bills⟩ }

end Sys2Proof.Machine
end

