-- ==== Sys2Proof/Machine/Firmware.lean ====
section
/-!
DEFINITION. Firmware: boot and images, the mailbox and what Floor asks of Kiln, Floor's own acts, the digest report (24 R349 to
R352; 02 R37; 08 R151; 15 R270, R273; 17 R318; 23 R345, R346).
-/

namespace Sys2Proof.Machine

/-! ### Images (24 R352) -/

/-- A field of an image header. -/
def imgField (img : List Byte) (lo n : Nat) : Nat := leNat ((img.drop lo).take n)
def imgVersion (img : List Byte) : Nat := imgField img 8 8

/-- Whether an image of a kind is accepted under a public key. -/
def State.imageOk (s : State) (key : List Byte) (kind : Nat) (img : List Byte) : Bool :=
  let body := (img.drop 4096).take (imgField img 16 8)
  imgField img 0 4 = 0x4D424749 && imgField img 4 1 = kind && imgField img 5 1 = 1 && imgField img 6 2 = 0 &&
    img.length = 4096 + imgField img 16 8 && ((img.drop 3397).take 699).all (· = 0) &&
    (img.drop 24).take 64 = Config.shake256 (img.take 24 ++ body) && Config.signatureOk key (img.take 3397) &&
    get s.fw.counters 0 kind ≤ imgVersion img

/-- Whether the ROM accepts a Kiln image: the root public key that it carries has the fused hash, and verifies it. -/
def State.kilnOk (s : State) (img : List Byte) : Bool :=
  Config.shake256 (Config.imageKey img) = Config.rootKeyHash && s.imageOk (Config.imageKey img) 1 img

/-- Whether an image of a kind is accepted: a Kiln image by the ROM, any other by Kiln, under the key of the Kiln image. -/
def State.accepts (s : State) (kind : Nat) (img : List Byte) : Bool :=
  if kind = 1 then s.kilnOk img else s.imageOk s.fw.rootKey kind img

/-- The running image of a kind. -/
def Firmware.setVersion (f : Firmware) (kind v : Nat) : Firmware :=
  match kind with
  | 1 => { f with kilnVersion := v }
  | 2 => { f with decodeVersion := v }
  | 3 => { f with floorVersion := v }
  | 4 => { f with settingsVersion := v }
  | _ => f

/-- The power limit that a settings image holds, in W: that of a module, or of a bare package (24 R353, R354; log 134). -/
def settingsLimit (img : List Byte) : Nat := if Config.settingsPackage img then 1450 else 1600

/-- Kiln's limit is set; a cap that Floor has set below it stays, as far as it is one still. -/
def Power.setLimit (p : Power) (watts : Nat) : Power :=
  { p with limit := watts, cap := if p.cap = p.limit then watts else min p.cap watts }

/-- Kiln takes a settings image. -/
def State.takeSettings (s : State) (img : List Byte) : State :=
  { s with fw := { s.fw with raiseCounters := Config.settingsRaise img }, power := s.power.setLimit (settingsLimit img) }

/-- An image is taken or refused. -/
def State.takeImage (s : State) (kind : Nat) (img : List Byte) : State :=
  if 1 ≤ kind && kind ≤ 4 && s.accepts kind img then
    let f := s.fw.setVersion kind (imgVersion img)
    let s1 := { s with fw := if kind = 1 then { f with rootKey := Config.imageKey img } else f }
    if kind = 4 then s1.takeSettings img else s1
  else s.refuse

/-- Whether a timed domain is live on a die: a task holds one of its quires (02 R37). -/
def State.dieLive (s : State) (die : Nat) : Bool := s.quireOwner.any fun e => e.1 / 16 = die

/-- IMAGE_FETCH (24 R352).  A decode table is taken only while no timed domain is live on any die (02 R37). -/
def execImageFetch (kind : BitVec 8) (img : List Byte) (s : State) : Out :=
  s.up fun s => if kind = 2 && !s.quireOwner.isEmpty then s.refuse else s.takeImage kind.toNat img

/-- A reload of the decode table. -/
def State.reloadDecode (s : State) (die : Nat) (img : List Byte) : State :=
  if s.dieLive die then s.refuse else s.takeImage 2 img

/-- DECODE_TABLE_RELOAD (02 R37). -/
def execDecodeTableReload (die : Nat) (img : List Byte) (s : State) : Out := s.up (·.reloadDecode die img)

/-! ### Boot (24 R351) -/

/-- The step at which boot halts, and the reason, if one does: 3 the fitted size, 4 the Kiln image, 5 the settings or the decode table,
6 the Floor image. -/
def State.bootHalt (s : State) (inp : BootInput) : Option (Nat × HaltReason) :=
  let key := Config.imageKey inp.kiln
  if inp.fittedGiB < 64 then some (3, .tooSmall)
  else if !s.kilnOk inp.kiln then some (4, .kilnImage)
  else if !s.imageOk key 4 inp.settings then some (5, .settingsImage)
  else if !s.imageOk key 2 inp.decodeTable then some (5, .decodeTableImage)
  else if !s.imageOk key 3 inp.floor then some (6, .floorImage)
  else none

/-- A port that has trained: eight lanes, its exponent tables at their first value (23 R341, R343). -/
def trainedPort (n : Nat) : Port :=
  let tables : SMap (List Byte) := (List.range 16).map fun c => (c, trainTable)
  { Port.start with chip := Config.portChip n % 256, lanes := List.range 8, up := true, rxTables := tables, txTables := tables }

/-- Kiln raises the fused counters to the running versions, if the settings ask for it. -/
def Firmware.raise (f : Firmware) : Firmware :=
  if f.raiseCounters then
    { f with counters := [(1, f.kilnVersion), (2, f.decodeVersion), (3, f.floorVersion), (4, f.settingsVersion)] }
  else f

/-- The self-test: spare cores that fail, numbered from 512 up as 4 × die + spare, are left out, and other cores that fail are
retired (17 R320, 03 R43). -/
def State.selfTest (s : State) (bad : List Nat) : State :=
  let spares := (bad.filter fun c => 512 ≤ c && c < 528).map (· - 512)
  (bad.filter (· < 512)).foldl State.retireCore { s with fw := { s.fw with badSpares := s.fw.badSpares ++ spares } }

/-- BOOT: self-test, training, images, ports, GCYC := 0; Floor reports the fitted size and C to the host (00 R2).  A boot that halts
keeps the step and the reason that it reports. -/
def execBoot (inp : BootInput) (s : State) : Out :=
  .next (if s.fw.boot ≠ .off then s
  else
    let s1 := s.selfTest inp.badCores
    match s1.bootHalt inp with
    | some (step, reason) => { s1 with fw := { s1.fw with boot := .halted step reason } }
    | none =>
      let f := (((s1.fw.setVersion 1 (imgVersion inp.kiln)).setVersion 4 (imgVersion inp.settings)).setVersion 2
        (imgVersion inp.decodeTable)).setVersion 3 (imgVersion inp.floor)
      let ports := (List.range 12).map fun n => (n, if inp.badPorts.contains n then Port.start else trainedPort n)
      let s2 := { s1 with
        ports := ports
        fw := { f with fittedGiB := inp.fittedGiB, badPorts := inp.badPorts, rootKey := Config.imageKey inp.kiln } }.takeSettings
          inp.settings
      let report := some (inp.fittedGiB * 2 ^ 30, s2.subChannel)
      if inp.diesAgree then { s2 with gcyc := 0, fw := { s2.fw.raise with boot := .booted, hostReport := report } }
      else s2.fatal .gcyc)

/-! ### Page-table fields (15 R273, R274, R276) -/

/-- A leaf changed by firmware, if what it becomes passes every rule of 15 R274; refused for a pinned page. -/
def State.changeLeaf (s : State) (ctx va : Nat) (f : Word → Word) : State :=
  match s.leafAt ctx va with
  | none => s.refuse
  | some (a, level, e) =>
    let size := leafSize level e
    if leafPinned e || !(leafEntries a level e).all (fun p => s.leafOk level (2 ^ pageBits level) (f (Memory.word s.mem p))) ||
        (size = 2 ^ 16 && leafFrame (f e) % 2 ^ 12 ≠ 0) then s.refuse
    else s.mapLeaf ctx va f

/-- Every word of a page that becomes a barrier page has scope 0 until a BARINIT sets it (13 R257). -/
def State.clearScopes (s : State) (ctx va : Nat) : State :=
  match s.walk ctx va with
  | .ok pa _ size =>
    let first := pa / size * size
    { s with info := { s.info with barScope := s.info.barScope.filter fun e => e.1 < first || first + size ≤ e.1 } }
  | _ => s

/-- Whether a leaf carries a page attribute: 0 barrier, 1 tape, 2 executable. -/
def leafMarked (e : Word) (kind : Nat) : Bool := if kind = 0 then leafBarrier e else if kind = 1 then leafTape e else leafX e

/-- The frames of a leaf that has been removed or changed lose an attribute that no mapping of them has any more. -/
def State.renote (s : State) (pa n : Nat) : State :=
  let still (f : Nat × Nat × Nat) : Bool := (s.mappingsOf f.1 f.2.1).any fun m => match s.leafAt m.1 m.2.1 with
    | some (_, _, e) => leafMarked e f.2.2
    | none => false
  { s with fw := { s.fw with attrFrames := s.fw.attrFrames.filter fun f => !rangesMeet f.1 f.2.1 pa n || still f } }

/-- The Kiln-written TAPE and BARRIER bits. -/
def State.setAttributes (s : State) (ctx va : Nat) (tape barrier : Bool) : State :=
  let f (e : Word) : Word := withBit (withBit e 52 tape) 53 barrier
  let new : Bool := barrier && match s.leafAt ctx va with
    | some (_, _, e) => !leafBarrier e
    | none => false
  let s1 := s.changeLeaf ctx va f
  if s1.fw.refused ≠ s.fw.refused then s1
  else
    let s2 := if tape then s1.noteFrames ctx va 1 else s1
    let s3 := if barrier then s2.noteFrames ctx va 0 else s2
    let s4 := match s.walk ctx va with
      | .ok pa _ size => s3.renote (pa / size * size) size
      | _ => s3
    if new then s4.clearScopes ctx va else s4

/-- The grant that covers frames of a peer chip, with its permissions. -/
def State.importOf (s : State) (chip frame count : Nat) : Option Import :=
  s.imports.find? fun g => (s.port g.port).chip = chip && !g.recalled && g.first ≤ frame && frame + count ≤ g.first + g.count

/-- The place of the entry of a level that an address uses, where the tables above it exist. -/
def State.entryPlace (s : State) (ctx va level : Nat) : Option Nat :=
  let step (acc : Option Nat) (l : Nat) : Option Nat := acc.bind fun table =>
    let e := Memory.word s.mem (table + 8 * (va / 2 ^ pageBits l % 512))
    if bitAt e 0 && !bitAt e 1 then some (leafFrame e) else none
  if level ≤ 4 then ((List.range level).foldl step (some (s.rootOf ctx))).map fun table =>
    table + 8 * (va / 2 ^ pageBits level % 512) else none

/-- HOME = 2 leaves of a page of 2^n bytes on frames that a grant covers, with no more permission than the grant gives (23 R345, 15
R272 to R274).  A leaf that they replace loses what it carried. -/
def State.mapPeer (s : State) (ctx va n chip frame : Nat) (r w : Bool) : State :=
  let level := if n ≤ 16 then 4 else if n = 21 then 3 else 2
  let page := va / 2 ^ n * 2 ^ n
  let count := 2 ^ (n - 12)
  let old (a : Nat) : Word := Memory.word s.mem a
  match s.importOf chip frame count, s.entryPlace ctx page level with
  | some g, some first =>
    let entries := (List.range (if n = 16 then 16 else 1)).map fun j => (first + 8 * j, frame + j)
    let entry (f : Nat) : Word := BitVec.ofNat 64 (chip % 256 * 2 ^ 44 + f % 2 ^ 32 * 2 ^ 12 + 2 * 2 ^ 6 + (if n = 16 then 2 ^ 5 else 0) +
      (if w then 8 else 0) + (if r then 4 else 0) + 3)
    let barred (a : Nat) : Bool := bitAt (old a) 0 && (!bitAt (old a) 1 || leafPinned (old a) || (n ≠ 16 && leafContig (old a)))
    if !([12, 16, 21, 30].contains n) || 2 ^ 57 ≤ page || inWindow page || frame % count ≠ 0 || (r && !g.r) || (w && !g.w) ||
        entries.any (fun e => barred e.1) then s.refuse
    else
      let s1 := entries.foldl (fun (s : State) e => s.writePhys e.1 (leBytes 8 (entry e.2).toNat)) s
      let s2 := entries.foldl (fun (s : State) e =>
        if bitAt (old e.1) 0 && leafHome (old e.1) ≠ 2 then s.renote (leafFrame (old e.1)) (2 ^ pageBits level) else s) s1
      let maps (i : Import) : List (Nat × Nat) := (i.maps.filter (· ≠ (ctx, page))) ++ if i = g then [(ctx, page)] else []
      { s2 with imports := s2.imports.map fun i => { i with maps := maps i } }
  | _, _ => s.refuse

/-- The fields of an entry that Kiln, the command processor and the eviction engine write. -/
def foreignBits (e : Word) : Nat :=
  if bitAt e 0 && bitAt e 1 then
    bits e 52 2 + bits e 55 1 * 4 + bits e 10 1 * 8 + bits e 4 1 * 16 + (if leafHome e = 2 then 32 else 0)
  else 0

/-- The frames of a leaf that Floor has written have its attributes. -/
def State.noteLeaf (s : State) (ctx va : Nat) (v : Word) : State :=
  if bitAt v 0 && bitAt v 1 then
    [0, 1, 2].foldl (fun (s : State) kind => if leafMarked v kind then s.noteFrames ctx va kind else s) s
  else s

/-- Floor writes one entry: its own fields only, and nothing of a pinned page but the clearing of CALC.  The frame of an executable
leaf stays: another frame is mapped executable through the scanner (02 R33; log 93).  No entry maps the scratchpad window (09 R172). -/
def State.writeEntry (s : State) (ctx va level : Nat) (v : Word) : State :=
  match s.entryPlace ctx va level with
  | none => s.refuse
  | some a =>
    let old := Memory.word s.mem a
    let isLeaf := bitAt old 0 && bitAt old 1
    let peer := isLeaf && leafHome old = 2 && v ≠ old && bitAt v 0
    if (foreignBits v ≠ foreignBits old && bitAt v 0) || (inWindow va && 2 ≤ level && bitAt v 0) then s.refuse
    else if peer || (isLeaf && leafPinned old && v ≠ withBit old 54 false) then s.refuse
    else if isLeaf && leafX old && bitAt v 0 && leafFrame v ≠ leafFrame old then s.refuse
    else
      let s1 := s.writePhys a (leBytes 8 v.toNat)
      let s2 := if isLeaf && leafHome old ≠ 2 then s1.renote (leafFrame old) (leafSize level old) else s1
      s2.noteLeaf ctx va v

/-! ### Grants (23 R345, R346) -/

/-- A grant's message. -/
def grantPayload (n first count : Nat) (r w : Bool) : List Byte :=
  leBytes 4 (n + (if r then 2 ^ 8 else 0) + (if w then 2 ^ 9 else 0)) ++ leBytes 4 first ++ leBytes 4 count

/-- Kiln exports local frames to a chip under a free entry; frames of an entry that is recalled or in quarantine are not used again. -/
def State.exportFrames (s : State) (n chip first count pa : Nat) (r w : Bool) : State :=
  let local' := pa % 4096 = 0 && (pa + 4096 * count ≤ fastTop ||
    (capacityBase ≤ pa && pa + 4096 * count ≤ s.dumpBase))
  match s.portTo chip with
  | some p =>
    let held := s.grants.any fun e => (e.2.state = .recalling || e.2.state = .quarantined) &&
      rangesMeet e.2.pa (4096 * e.2.count) pa (4096 * count)
    if n < 256 && !held && (get s.grants Grant.start n).state = .free && 0 < count && first + count ≤ 2 ^ 32 && local' then
      { s with grants := put s.grants n ⟨chip, first, count, pa, r, w, .granted, 0, 0⟩ }.control p 2 (grantPayload n first count r w)
    else s.refuse
  | none => s.refuse

/-- Step 1 of a recall: it applies at the end of this global cycle. -/
def State.recallGrant (s : State) (n : Nat) : State :=
  let g := get s.grants Grant.start n
  match s.portTo g.chip with
  | some p =>
    if g.state = .granted then
      { s with grants := put s.grants n { g with state := .recalling, recallGc := s.gcyc } }.control p 3 (leBytes 1 n)
    else s.refuse
  | none => s.refuse

/-! ### Floor's own acts -/

/-- The pages that hold `n` bytes, each as its physical address and leaf; none where one is no tape page (08 R153). -/
def State.tapePages (s : State) (ctx va n : Nat) : Option (List (Nat × Word)) :=
  (s.pageWalks ctx va n (n / 4096 + 2)).mapM fun x => match x.2 with
    | .ok pa leaf _ => if leafTape leaf then some (pa, leaf) else none
    | _ => none

/-- Whether `n` bytes of a tape, and of its mirror if it has one, are reserved: tape pages on the home tier, the mirror's on the
capacity tier or on no HBM stack of the tape's, and none that another tape of the context holds (08 R151). -/
def State.reserved (s : State) (ctx n : Nat) (capacityTier : Bool) (base : Nat) (mirror : Option Nat) : Bool :=
  let taken (va : Nat) : Bool := (get s.ctxs Context.start ctx).tapes.any fun e =>
    e.2.valid && (tapeRanges e.2).any fun r => rangesMeet va n r.1 r.2
  let stack (p : Nat × Word) : Option Nat := (s.channel p.1).map stackOf
  match s.tapePages ctx base n with
  | none => false
  | some own =>
    own.all (fun p => leafHome p.2 = capacityTier.toNat) && !taken base &&
      match mirror with
      | none => true
      | some m => !taken m && !rangesMeet base n m n && match s.tapePages ctx m n with
        | none => false
        | some l => l.all fun p => leafHome p.2 = 1 || (leafHome p.2 = 0 && own.all fun q => stack q ≠ stack p)

/-- Floor creates a tape-table entry, with the tape pages it has reserved (08 R151, R152). -/
def State.createTape (s : State) (ctx i cap fmt : Nat) (capacityTier : Bool) (base : Nat) (mirror mash : Option Nat) : State :=
  if 65536 ≤ i || (s.tape ctx i).valid || 10 < fmt || !s.reserved ctx ((cap * elemBits fmt + 7) / 8) capacityTier base mirror then
    s.refuse
  else s.setTape ctx i { TapeEntry.start with
    capacity := BitVec.ofNat 40 cap, format := BitVec.ofNat 4 fmt, valid := true, home := capacityTier
    mirror := mirror.isSome, base := BitVec.ofNat 57 base, mbase := BitVec.ofNat 57 (mirror.getD 0)
    mash := BitVec.ofNat 8 (mash.getD 0), mashv := mash.isSome }

/-- Whether some task of a context is bound to a tape. -/
def State.tapeBound (s : State) (ctx i : Nat) : Bool :=
  s.tasks.any fun e => e.2.ctx = ctx && e.2.tapes.any fun h => h.toNat % 2 ^ 16 = i

def State.deleteTape (s : State) (ctx i : Nat) : State :=
  let e := s.tape ctx i
  if e.valid && e.state = 0 && !s.tapeBound ctx i then s.setTape ctx i TapeEntry.start else s.refuse

def State.setCtx (s : State) (ctx : Nat) (f : Context → Context) : State := { s with ctxs := upd s.ctxs Context.start ctx f }
def State.fn (s : State) (n : Nat) : HostFn := get s.fns HostFn.start n
def State.setFn (s : State) (n : Nat) (f : HostFn → HostFn) : State := { s with fns := upd s.fns HostFn.start n f }

/-- Whether a number is a power of two from 64 to 65,536. -/
def ringSize (n : Nat) : Bool := 64 ≤ n && n ≤ 65536 && 2 ^ log2 n = n

/-- A context is bound to a function (15 R270), with its fault-record area (17 R308) and its level-0 table, which Kiln holds, so that
Floor asks for it through the mailbox (15 R272). -/
def State.bindContext (s : State) (ctx fn root area : Nat) : State :=
  if 64 ≤ ctx || 9 ≤ fn then s.refuse
  else (s.setCtx ctx fun c => { c with fn := fn, root := root, faultArea := area }).setFn fn fun h => { h with ctx := some ctx }

/-- One request: Kiln checks it and applies it, or refuses it; Floor's own acts take effect as Floor makes them. -/
def State.applyRequest (s : State) (r : FloorReq) : State :=
  match r with
  | .mapExecutable ctx va => after (execCodeScan ctx va s) s
  | .setAttributes ctx va tape barrier => s.setAttributes ctx va tape barrier
  | .mapPeer ctx va n chip frame r w => s.mapPeer ctx va n chip frame r w
  | .reloadDecode die img => s.reloadDecode die img
  | .retireCore core => if core < 512 then s.retireCore core else s.refuse
  | .exportFrames n chip first count pa r w => s.exportFrames n chip first count pa r w
  | .recallGrant n => s.recallGrant n
  | .newSettings img => s.takeImage 4 img
  | .raiseLimit _ => s.refuse
  | .powerCap w => if w ≤ s.power.limit then { s with power := { s.power with cap := w } } else s.refuse
  | .createTape ctx i cap fmt tier base mirror mash => s.createTape ctx i cap fmt tier base mirror mash
  | .deleteTape ctx i => s.deleteTape ctx i
  | .writeEntry ctx va level v => s.writeEntry ctx va level v
  | .bindContext ctx fn root area => s.bindContext ctx fn root area
  | .assignQueue q ctx => if q < 16 then { s with queueCtx := put s.queueCtx q ctx } else s.refuse
  | .setRing fn base size =>
    if fn < 9 && ringSize size then s.setFn fn fun h => { h with ringBase := base, ringSize := size } else s.refuse
  | .allocate ctx va prio next =>
    if 7 < prio then s.refuse
    else { s with
      tier := { s.tier with allocs := s.tier.allocs ++ [⟨ctx, va / 2 ^ 21 * 2 ^ 21, prio, next, s.nextId, false⟩] }
      nextId := s.nextId + 1 }
  | .reportDropped fn => s.setFn fn fun h => { h with reported := h.dropped }
  | .setWatermark pages => { s with tier := { s.tier with watermark := pages } }

/-- Whether an act is Floor's own and needs no leave of Kiln (24 R349). -/
def floorsOwn : FloorReq → Bool
  | .powerCap _ | .createTape .. | .deleteTape .. | .writeEntry .. | .assignQueue .. | .setRing .. | .allocate ..
  | .reportDropped _ | .setWatermark _ => true
  | _ => false

/-- FLOOR_REQUEST (24 R350): Floor posts a request, if the mailbox of 64 entries has room, or acts on what is its own; or Kiln
takes the oldest request. -/
def execFloorRequest (post : Option FloorReq) (s : State) : Out :=
  s.up fun s => match post with
    | some r =>
      if floorsOwn r then s.applyRequest r
      else if s.fw.mailbox.length < 64 then { s with fw := { s.fw with mailbox := s.fw.mailbox ++ [r] } }
      else s
    | none => match s.fw.mailbox with
      | [] => s
      | r :: rest => { s with fw := { s.fw with mailbox := rest } }.applyRequest r

/-- CONTEXT_DIGEST_REPORT (17 R318): Floor reports the context digest and clears it. -/
def execContextDigestReport (ctx : Nat) (s : State) : Out :=
  s.up (·.setCtx ctx fun c => { c with reported := c.digest, digest := 0 })

end Sys2Proof.Machine
end

