-- ==== Sys2Proof/Machine/Graph.lean ====
section
/-!
DEFINITION. Class GRAPH: launches, signals and arguments (16 R294 to R300).
-/

namespace Sys2Proof.Machine

/-- The task's launch list, launches of this dc among them (16 R295). -/
def State.launchList (s : State) (t : Nat) : List Nat :=
  (((s.task t).posts.filter fun p => !p.isSignal).map (·.addr) ++
    s.issued.filterMap fun o => match o.eff with
      | .launch a _ => some a
      | _ => none).eraseDups

/-- Put a record address on the launch list (16 R295). -/
def State.launch (s : State) (v : Word) (now : Bool) : State :=
  let list := s.launchList s.cur.task
  if v.toNat / 2 ^ 57 ≠ 0 || v.toNat % 64 ≠ 0 then s.trap 0x13 1 fun tr => { tr with addr := v.toNat % 2 ^ 57 }
  else if list.contains v.toNat then s
  else if 16 ≤ list.length then s.trap 0x13 2 fun tr => { tr with addr := v.toNat }
  else s.issue 0 (.launch v.toNat now)

/-- KLAUNCH (16 R295). -/
def execKlaunch (a : BitVec 5) (y : BitVec 1) (s : State) : Out := .next (s.launch (s.me.reg a.toNat) (y = 1))

/-- KLAUNCHC (16 R295): a launch if s[b] ≠ 0. -/
def execKlaunchc (a b : BitVec 5) (y : BitVec 1) (s : State) : Out :=
  .next (if s.me.reg b.toNat = 0 then s else s.launch (s.me.reg a.toNat) (y = 1))

/-- GSIG (16 R296): a completion entry of kind 2. -/
def execGsig (a b : BitVec 5) (s : State) : Out :=
  .next (s.issue 0 (.signal ((s.me.reg a.toNat).truncate 16) (s.me.reg b.toNat)))

/-- QSYNC (16 R297): s[d] takes the graph-step count once the core's earlier now launches and signals have applied. -/
def execQsync (d : BitVec 5) (s : State) : Out := .next (s.issue 0 (.qsync d.toNat))

/-- GPRIO (16 R298): the core's launch priority. -/
def execGprio (a : BitVec 5) (s : State) : Out :=
  let v := s.me.reg a.toNat
  .next (s.issue 0 (.prio (if bitAt v 2 then some (min (bits v 0 2) s.myTask.prio) else none)))

/-- GARG (16 R299): an argument, the node record's address, the graph-step count or LAUNCHES, as copied at dc 0. -/
def execGarg (d : BitVec 5) (i : BitVec 7) (s : State) : Out :=
  let k := s.myTask
  .next (s.writeScalar 1 d (match i.toNat with
    | 0x40 => BitVec.ofNat 64 k.node
    | 0x41 => BitVec.ofNat 64 k.steps
    | 0x42 => BitVec.ofNat 64 k.launches
    | n => if k.argsValid then k.args.getD n 0 else 0))

end Sys2Proof.Machine
end

