-- ==== Sys2Proof/Machine/Nodes.lean ====
section
/-!
DEFINITION. Node records, arrivals, ready instances, failures and completion entries, and the nodes that run on the command
processor (16 R283 to R286, R288, R292, R301, R302).
-/

namespace Sys2Proof.Machine

/-! ### Completion entries (16 R302) -/

/-- Whether the queue has room for an entry. -/
def CompletionQueue.room (q : CompletionQueue) : Bool := q.producer < q.consumed + q.size

/-- An entry written to the queue in host memory, with OVF and PHASE, and MSI-X vector 0 of the function raised, unless the function
has masked it (23 R340). -/
def State.writeEntryNow (s : State) (ctx : Nat) (q : CompletionQueue) (e : Word × Word) : State :=
  let phase : Nat := if q.producer / q.size % 2 = 0 then 1 else 0
  let w0 := e.1.toNat + (if q.ovf then 2 ^ 32 else 0) + phase * 2 ^ 33
  let l := leBytes 8 w0 ++ leBytes 8 e.2.toNat
  (s.setFn (get s.ctxs Context.start ctx).fn fun f =>
    { f with
      cqMem := Memory.setBytes f.cqMem (q.base + 16 * (q.producer % q.size)) l
      interrupts := if f.masked.getLsbD 0 then f.interrupts else f.interrupts + 1 }).setCtx ctx
    fun c => { c with cq := some { q with producer := q.producer + 1, ovf := false } }

/-- Post an entry: write it, hold it while the queue is full, or drop it when 256 are held. -/
def State.postEntry (s : State) (ctx kind tag code : Nat) (value : Word) : State :=
  match (get s.ctxs Context.start ctx).cq with
  | none => s
  | some q =>
    let e : Word × Word := (BitVec.ofNat 64 (tag % 2 ^ 16 + kind * 2 ^ 16 + code % 256 * 2 ^ 24), value)
    if q.held.isEmpty && q.room then s.writeEntryNow ctx q e
    else if q.held.length < 256 then s.setCtx ctx fun c => { c with cq := some { q with held := q.held ++ [e] } }
    else s.setCtx ctx fun c => { c with cq := some { q with ovf := true } }

/-- Held entries post as space frees. -/
def State.flushHeld (s : State) (ctx : Nat) : State :=
  let n := match (get s.ctxs Context.start ctx).cq with
    | some q => q.held.length
    | none => 0
  (List.range n).foldl (fun (s : State) _ =>
    match (get s.ctxs Context.start ctx).cq with
    | some q => match q.held with
      | e :: rest => if q.room then s.writeEntryNow ctx { q with held := rest } e else s
      | [] => s
    | none => s) s

/-- COMPLETION_QUEUE_SETUP (16 R302): Floor sets base and size; both indices are 0. -/
def execCompletionQueueSetup (ctx base size : Nat) (s : State) : Out :=
  s.up fun s =>
    if base % 4096 = 0 && ringSize size then
      (s.setCtx ctx fun c => { c with cq := some ⟨base, size, 0, 0, [], false⟩ }).setFn (get s.ctxs Context.start ctx).fn
        fun f => { f with cqhead := 0 }
    else s.refuse

/-! ### Node records (16 R283 to R286) -/

/-- The eight words of a node record, which the command processor walks from device memory (03 R42, 16 R283). -/
def State.readNode (s : State) (ctx addr : Nat) : Option (List Word) :=
  if addr % 64 ≠ 0 then none
  else (s.readVirt ctx addr 64).map fun l => (List.range 8).map fun i => BitVec.ofNat 64 (leNat ((l.drop (8 * i)).take 8))

def nodeWord (w : List Word) (i : Nat) : Word := w.getD i 0
def nodeBits (w : List Word) (i lo n : Nat) : Nat := bits (nodeWord w i) lo n
def recHeld (w : List Word) : Nat := nodeBits w 0 48 8
def recPend (w : List Word) : Nat := nodeBits w 0 32 16
def recInit (w : List Word) : Nat := nodeBits w 0 16 16
def recDet (w : List Word) : Bool := bitAt (nodeWord w 0) 11
def recRepl (w : List Word) : Bool := bitAt (nodeWord w 0) 10
def recQueue (w : List Word) : Nat := nodeBits w 0 6 4
def recPrio (w : List Word) : Nat := nodeBits w 0 4 2
def recType (w : List Word) : Nat := nodeBits w 0 0 4

/-- A field of a word replaced. -/
def withField (v : Word) (lo n x : Nat) : Word := BitVec.ofNat 64 (v.toNat - bits v lo n * 2 ^ lo + x % 2 ^ n * 2 ^ lo)

/-- The command processor writes a field of a record; no digest takes it (17 R317). -/
def State.setNode (s : State) (ctx addr i lo n x : Nat) : State :=
  match s.readWord ctx (addr + 8 * i) with
  | some v => s.writeWord ctx (addr + 8 * i) (withField v lo n x)
  | none => s

def State.setStatus (s : State) (ctx addr v : Nat) : State := s.setNode ctx addr 7 0 8 v

/-- Bits of w3 to w6 that a type names (16 R286). -/
def nodeMask (ty : Nat) : List Nat :=
  match ty with
  | 1 => [2 ^ 24 - 1, 2 ^ 57 - 1, 2 ^ 57 - 1, 2 ^ 6 - 1]
  | 2 => [2 ^ 57 - 1, 2 ^ 64 - 1, 2 ^ 4 - 1, 0]
  | 3 => [2 ^ 57 - 1, 2 ^ 64 - 1, 2 ^ 5 - 1, 2 ^ 32 - 1]
  | 5 => [2 ^ 57 - 1, 2 ^ 57 - 1, 2 ^ 64 - 1, 0]
  | 6 => [2 ^ 16 - 1, 2 ^ 64 - 1, 0, 0]
  | _ => [0, 0, 0, 0]

/-- Code 0x25 of 16 R292: a reserved field, TYPE or OP, INIT of 0, a COPY length, a queue of another context. -/
def State.recordBad (s : State) (ctx : Nat) (w : List Word) : Bool :=
  let ty := recType w
  let extra := ((nodeMask ty).zip (w.drop 3)).any fun e => Nat.land e.2.toNat e.1 ≠ e.2.toNat
  ty = 0 || 7 ≤ ty || nodeBits w 0 56 8 ≠ 0 || nodeBits w 0 12 4 ≠ 0 || recInit w = 0 || nodeBits w 1 57 7 ≠ 0 ||
    nodeBits w 2 57 7 ≠ 0 || extra || ((ty = 2 || ty = 3) && 6 ≤ nodeBits w 5 0 3) ||
    (ty = 5 && ((nodeWord w 5).toNat = 0 || 2 ^ 32 < (nodeWord w 5).toNat)) || get s.queueCtx 64 (recQueue w) ≠ ctx

/-- Whether a node has an instance that is ready or running. -/
def State.liveNode (s : State) (ctx addr : Nat) : Bool :=
  s.ready.any (fun r => r.ctx = ctx && r.node = addr) || s.running.any (fun r => r.ctx = ctx && r.node = addr) ||
    s.tasks.any fun e => e.2.ctx = ctx && e.2.node = addr

/-- A failure is reported (16 R292): STATUS 4, CODE, a completion entry of kind 3 or 4. -/
def State.reportFailure (s : State) (ctx addr kind code : Nat) : State :=
  ((s.setStatus ctx addr 4).setNode ctx addr 7 8 8 code).postEntry ctx kind 0 code (BitVec.ofNat 64 addr)

/-- Whether a hardware queue holds as many ready instances as it can (16 R288). -/
def State.noRoom (s : State) (q : Nat) : Bool := 4096 ≤ (s.ready.filter (·.queue = q)).length

/-- An instance becomes ready at a priority, if its queue has room (16 R288). -/
def State.makeReady (s : State) (ctx addr : Nat) (w : List Word) (prio : Nat) : State :=
  if s.noRoom (recQueue w) then s.reportFailure ctx addr 3 0x26
  else
    let s1 := s.setStatus ctx addr 1
    { s1 with ready := s1.ready ++ [⟨ctx, addr, recQueue w, prio, s.gcyc, s.gcyc, 0, none⟩] }

/-- An arrival at a node (16 R284), with the launch priority of a launcher that has one (16 R298). -/
def State.arrive (s : State) (ctx addr : Nat) (prio : Option Nat) : State :=
  match s.readNode ctx addr with
  | none => s.reportFailure ctx addr 3 0x25
  | some w =>
    if s.recordBad ctx w then s.reportFailure ctx addr 3 0x25
    else if 1 < recPend w then s.setNode ctx addr 0 32 16 (recPend w - 1)
    else if s.liveNode ctx addr then
      if recHeld w = 255 then s.reportFailure ctx addr 3 0x26 else s.setNode ctx addr 0 48 8 (recHeld w + 1)
    else (s.setNode ctx addr 0 32 16 (recInit w)).makeReady ctx addr w (prio.getD (recPrio w))

/-- A held instance becomes ready as one completes or fails; where its queue is full it fails in its turn, and the next is released
(16 R284, R292).  HELD counts 255 at most. -/
def State.releaseHeld (s : State) (ctx addr : Nat) (fuel : Nat := 256) : State :=
  match fuel with
  | 0 => s
  | k + 1 => match s.readNode ctx addr with
    | some w =>
      if recHeld w = 0 then s
      else
        let s1 := (s.setNode ctx addr 0 48 8 (recHeld w - 1)).makeReady ctx addr w (recPrio w)
        if s.noRoom (recQueue w) then s1.releaseHeld ctx addr k else s1
    | none => s

/-- An instance fails (16 R292). -/
def State.failNode (s : State) (ctx addr kind code : Nat) : State :=
  (s.reportFailure ctx addr kind code).releaseHeld ctx addr

/-- An instance completes: STATUS 3, LAUNCHES + 1, a failure's code gone, its arrivals, then a held instance (16 R286, R291,
R292; log 55). -/
def State.completeNode (s : State) (ctx addr : Nat) (arrivals : List (Nat × Option Nat)) : State :=
  let launches := match s.readNode ctx addr with
    | some w => nodeBits w 7 16 32
    | none => 0
  let s1 := ((s.setStatus ctx addr 3).setNode ctx addr 7 8 8 0).setNode ctx addr 7 16 32 (launches + 1)
  (arrivals.foldl (fun (s : State) a => s.arrive ctx a.1 a.2) s1).releaseHeld ctx addr

/-- NEXT0 and NEXT1; an address of 0 receives nothing. -/
def nextOf (w : List Word) (i : Nat) : List (Nat × Option Nat) :=
  let a := nodeBits w (1 + i) 0 57
  if a = 0 then [] else [(a, none)]

/-! ### Nodes of the command processor (16 R285, R286) -/

/-- W OP V. -/
def wordTest (op : Nat) (wide : Bool) (x : Nat) (v : Word) : Bool :=
  let sx : Int := if wide then sext 64 x else sext 32 x
  match op with
  | 0 => x = v.toNat
  | 1 => x ≠ v.toNat
  | 2 => sx < v.toInt
  | 3 => x < v.toNat
  | 4 => v.toInt ≤ sx
  | _ => v.toNat ≤ x

/-- Bytes as a queued access of the command processor reads them; those of a peer's frames are free values, since no link channel
carries its requests (log 56).  None where some byte has no page. -/
def State.cpRead (s : State) (ctx va n : Nat) : Option (List Byte) :=
  (List.range n).mapM fun i => match s.physOf ctx (va + i), s.walk ctx (va + i) with
    | some pa, _ => some (Memory.byte s.mem pa)
    | none, .ok _ _ _ => some ((Config.freeWord (s.freeCount + i)).setWidth 8)
    | none, _ => none

/-- The comparison of a COND or LOOP node, as its read of W performs; none where W may not be read. -/
def State.compareWord (s : State) (ctx : Nat) (w : List Word) : Option Bool :=
  let a := nodeBits w 3 0 57
  let wide := bitAt (nodeWord w 5) 3
  let n := if wide then 8 else 4
  match s.leafAt ctx a with
  | some (_, _, e) =>
    if a % n ≠ 0 || !leafR e || leafBarrier e || leafTape e then none
    else (s.cpRead ctx a n).map fun l => wordTest (nodeBits w 5 0 3) wide (leNat l) (nodeWord w 4)
  | none => none

/-- Whether a COPY node may read, or write, a range. -/
def State.copyRangeOk (s : State) (ctx va n : Nat) (write : Bool) : Bool :=
  (s.pageWalks ctx va n (n / 4096 + 2)).all fun x => match x.2 with
    | .ok _ e _ => !leafBarrier e && !leafTape e && !leafX e && (if write then leafW e else leafR e)
    | _ => false

/-- A node that runs on the command processor is over: what it sends, or the code it fails with. -/
def State.endCpNode (s : State) (ctx addr : Nat) : State :=
  match s.readNode ctx addr with
  | none => s.failNode ctx addr 3 0x25
  | some w =>
    let both := nextOf w 0 ++ nextOf w 1
    let compared : State := match s.compareWord ctx w with
      | none => s.failNode ctx addr 3 0x28
      | some b => ({ s with freeCount := s.freeCount + 8 }.stampVirt ctx (nodeBits w 3 0 57) 8).completeNode ctx addr
          (nextOf w (if b then 0 else 1))
    match recType w with
    | 2 => compared
    | 3 =>
      if bitAt (nodeWord w 5) 4 then compared
      else
        let iter := nodeBits w 6 0 32
        if iter < (nodeWord w 4).toNat then (s.setNode ctx addr 6 0 32 (iter + 1)).completeNode ctx addr (nextOf w 0)
        else (s.setNode ctx addr 6 0 32 0).completeNode ctx addr (nextOf w 1)
    | 5 =>
      let src := nodeBits w 3 0 57
      let dst := nodeBits w 4 0 57
      let n := (nodeWord w 5).toNat
      let s1 := match s.cpRead ctx src n with
        | some l => ({ s with freeCount := s.freeCount + n }.stampVirt ctx src n).writeVirt ctx dst l
        | none => s
      s1.completeNode ctx addr both
    | 6 => (s.postEntry ctx 1 (nodeBits w 3 0 16) 0 (nodeWord w 4)).completeNode ctx addr both
    | _ => s.completeNode ctx addr both

/-- The scheduler starts a node that is no KERNEL: it is over in this global cycle, or once its reads or bytes have performed, 16 global
cycles on at least, after a time left open (21 R333; log 2). -/
def State.startCpNode (s : State) (ctx addr : Nat) : State :=
  match s.readNode ctx addr with
  | none => s.failNode ctx addr 3 0x25
  | some w =>
    let s1 := s.setStatus ctx addr 2
    let later : State :=
      let (n, s2) := s1.free
      { s2 with running := s2.running ++ [⟨s2.nextId, ctx, addr, s.gcyc + 16 + n⟩], nextId := s2.nextId + 1 }
    match recType w with
    | 2 => later
    | 3 => if bitAt (nodeWord w 5) 4 then later else s1.endCpNode ctx addr
    | 5 =>
      let n := (nodeWord w 5).toNat
      if s.copyRangeOk ctx (nodeBits w 3 0 57) n false && s.copyRangeOk ctx (nodeBits w 4 0 57) n true then later
      else s1.failNode ctx addr 3 0x27
    | _ => s1.endCpNode ctx addr

/-- A node whose time has come. -/
def State.finishCpNode (s : State) (id : Nat) (types : List Nat) : State :=
  match s.running.find? (·.id = id) with
  | none => s
  | some r =>
    let ty := ((s.readNode r.ctx r.node).map recType).getD 0
    if r.due ≤ s.gcyc && types.contains ty then
      { s with running := s.running.filter (·.id ≠ id) }.endCpNode r.ctx r.node
    else s

/-- COND_NODE_COMPLETE: a COND, or a LOOP that compares a word, as its read of W performs. -/
def execCondNodeComplete (id : Nat) (s : State) : Out := s.up (·.finishCpNode id [2, 3])

/-- COPY_NODE_COMPLETE: every byte has performed. -/
def execCopyNodeComplete (id : Nat) (s : State) : Out := s.up (·.finishCpNode id [5])

/-! ### Host submission (16 R301, 23 R340) -/

/-- One submission entry: an ARRIVE of a record of one of the context's queues.  An entry of a reserved form does nothing
(log 34). -/
def State.submit (s : State) (ctx : Nat) (l : List Byte) : State :=
  if leNat (l.take 8) = 1 then s.arrive ctx (leNat ((l.drop 8).take 8)) none else s

/-- DOORBELL_WRITE: entries from CONSUMED up to TAIL. -/
def execDoorbellWrite (fn : Nat) (tail : BitVec 16) (s : State) : Out :=
  s.up fun s =>
    let h := s.fn fn
    let s1 := s.setFn fn fun h => { h with tail := tail }
    match h.ctx with
    | none => s1
    | some ctx =>
      let size := h.ringSize
      let n := if size = 0 then 0 else (tail.toNat + size - h.consumed.toNat % size) % size
      (List.range n).foldl (fun (s : State) _ =>
        let c := (s.fn fn).consumed.toNat
        let s1 := s.setFn fn fun h => { h with consumed := BitVec.ofNat 16 ((c + 1) % size) }
        match s.readVirt ctx (h.ringBase + 64 * (c % size)) 64 with
        | some l => (s1.stampVirt ctx (h.ringBase + 64 * (c % size)) 64).submit ctx l
        | none => s1) s1

/-- CQHEAD_WRITE: entries the host has consumed free space, and held entries post. -/
def execCqheadWrite (fn : Nat) (head : BitVec 16) (s : State) : Out :=
  s.up fun s =>
    let s1 := s.setFn fn fun h => { h with cqhead := head }
    match (s.fn fn).ctx with
    | none => s1
    | some ctx => match (get s1.ctxs Context.start ctx).cq with
      | none => s1
      | some q =>
        let step := (head.toNat + q.size - q.consumed % q.size) % q.size
        (s1.setCtx ctx fun c => { c with cq := some { q with consumed := min q.producer (q.consumed + step) } }).flushHeld ctx

/-- REGISTER_WRITE: a BAR0 register without behaviour of its own, or the one that masks MSI-X vectors (log 135); the doorbell and CQHEAD
have their own events. -/
def execRegisterWrite (fn off : Nat) (val : BitVec 64) (s : State) : Out :=
  s.up fun s => if off / 8 * 8 = 0x1000 || off / 8 * 8 = 0x1008 || 65536 ≤ off then s
    else s.setFn fn fun h =>
      { h with regs := put h.regs off val, masked := if off = Config.vectorMaskAt then val.setWidth 4 else h.masked }

/-! ### The BAR2 window (23 R339) -/

/-- Bytes of the BAR2 window of a function: of the physical function, 0, and of a virtual one (23 R338). -/
def bar2Size (fn : Nat) : Nat := if fn = 0 then 2 ^ 36 else 2 ^ 33

/-- Whether a page keeps the host out: a barrier, tape or executable page, one of a peer, one without the permission, or no page
(log 35).  A write is kept out of executable frames whichever mapping it takes (02 R33). -/
def State.hostBarred (s : State) (ctx va : Nat) (write : Bool) : Bool :=
  match s.leafAt ctx va with
  | some (_, _, e) =>
    leafBarrier e || leafTape e || leafX e || leafHome e = 2 || (if write then !leafW e || (s.physOf ctx va).any (s.attributed · 1 [2])
      else !leafR e)
  | none => true

/-- HOST_BAR2_WRITE: bytes aimed at a protected page, or at none, are dropped, and a write that lost any is counted.  What lies
beyond the window is no write of the function. -/
def execHostBar2Write (fn va : Nat) (data : List Byte) (s : State) : Out :=
  s.up fun s => if bar2Size fn < va + data.length then s else match (s.fn fn).ctx with
    | none => s.setFn fn fun h => { h with dropped := h.dropped + 1 }
    | some ctx =>
      let cells := (List.range data.length).zip data
      let barred (i : Nat) : Bool := s.hostBarred ctx (va + i) true
      let s1 := cells.foldl (fun (s : State) e =>
        if barred e.1 then s
        else match s.physOf ctx (va + e.1) with
          | some pa => ((s.writePhys pa [e.2]).touch (pa / 64) none).stampLine (pa / 64)
          | none => s) s
      if cells.any fun e => barred e.1 then s1.setFn fn fun h => { h with dropped := h.dropped + 1 } else s1

/-- HOST_BAR2_READ: data, or all ones with Unsupported Request; a device that has failed, or whose boot has halted, answers no other way
(17 R311, 24 R351; log 118). -/
def execHostBar2Read (fn va len : Nat) (s : State) : Out :=
  let failed : Bool := match s.fw.boot with
    | .failed _ | .halted .. => true
    | _ => false
  .next <| if !s.alive && !failed then s else
    let data := (s.fn fn).ctx.bind fun ctx =>
      if failed || bar2Size fn < va + len then none
      else if (List.range len).any fun i => s.hostBarred ctx (va + i) false then none
      else (s.readVirt ctx va len).map fun l => (ctx, l)
    match data with
    | some (ctx, l) => (s.stampVirt ctx va len).setFn fn fun h => { h with reply := l, unsupported := false }
    | none => s.setFn fn fun h => { h with reply := List.replicate len 0xFF, unsupported := true }

end Sys2Proof.Machine
end

