-- ==== Sys2Proof/Machine/Bind.lean ====
section
/-!
DEFINITION. Binding a kernel instance to quires, channels, allotments, wheel positions, tapes and pins, and the state its cores
start with (03 R43, R49; 16 R287, R289, R290; 10 R201, R202; 11 R211; 14 R263; 08 R153; 15 R277).
-/

namespace Sys2Proof.Machine

/-! ### Placement (16 R289) -/

/-- Physical quires of a kernel of `n` quires at a place; none where it breaks the bounds. -/
def placeRect (n d x y : Nat) : Option (List Nat) :=
  if n = 0 then none
  else if n ≤ 16 then
    if x + min n 4 ≤ 4 && y + ceilDiv n 4 ≤ 4 && d < 4 then
      some ((List.range n).map fun i => 16 * d + 4 * (y + i / 4) + (x + i % 4)) else none
  else if x = 0 && y = 0 && d + ceilDiv n 16 ≤ 4 then some ((List.range n).map fun i => 16 * d + i) else none

/-- The quires that a kernel takes with its own: a kernel of more than 16 takes whole dies. -/
def wholeDies (l : List Nat) : List Nat :=
  if l.length ≤ 16 then l else (List.range (16 * ceilDiv l.length 16)).map (l.headD 0 + ·)

/-- Every place, lowest (DIE0, Y0, X0) first. -/
def places (n : Nat) : List (List Nat) :=
  (List.range 64).filterMap fun i => placeRect n (i / 16) (i % 4) (i / 4 % 4)

def State.quireFree (s : State) (q : Nat) : Bool := (find? s.quireOwner q).isNone
def State.quireWhole (s : State) (q : Nat) : Bool := !s.fw.lostQuires.contains q

/-- What an attempt to bind something gives: it, a wait for resources, or a failure's code. -/
inductive Bound (α : Type) where
  | ok (v : α)
  | wait
  | bad (code : Nat)
  deriving DecidableEq, Repr

def Bound.bind {α β : Type} (b : Bound α) (f : α → Bound β) : Bound β :=
  match b with
  | .ok v => f v
  | .wait => .wait
  | .bad c => .bad c

def demand (ok : Bool) (code : Nat) : Bound Unit := if ok then .ok () else .bad code
def await (ok : Bool) : Bound Unit := if ok then .ok () else .wait

/-- The quires of a kernel: with DET the placement of w6 and no other. -/
def State.placement (s : State) (k : KernelImage) (w : List Word) : Bound (List Nat) :=
  let n := k.quires
  let choices := if recDet w then (placeRect n (nodeBits w 6 0 2) (nodeBits w 6 2 2) (nodeBits w 6 4 2)).toList else places n
  let whole := choices.filter fun l => l.all s.quireWhole
  if (k.dieOne && 16 < n) || whole.isEmpty then .bad 0x24
  else match whole.find? fun l => (wholeDies l).all s.quireFree with
    | some l => .ok l
    | none => .wait

/-! ### The blocks a node names (16 R287) -/

/-- What a binding block holds: handles, channels, pin ranges. -/
structure Binding where
  tapes : List (BitVec 32)
  channels : List Nat
  pins : List (Nat × Nat)
  deriving DecidableEq, Repr

def padded (n : Nat) : Nat := (n + 7) / 8 * 8

/-- Bytes of a block that the command processor may read: on pages that are valid and readable, of this chip, and neither tape nor
barrier pages (16 R292; log 56). -/
def State.readBlock (s : State) (ctx va n : Nat) : Option (List Byte) :=
  if (s.pageWalks ctx va n (n / 4096 + 2)).all fun x => match x.2 with
    | .ok _ leaf _ => leafR leaf && !leafTape leaf && !leafBarrier leaf
    | _ => false
  then s.readVirt ctx va n else none

/-- The binding block at an address, 0 for an empty one; none where it cannot be read or is malformed. -/
def State.readBinding (s : State) (ctx addr : Nat) : Option Binding :=
  if addr = 0 then some ⟨[], [], []⟩
  else match s.readBlock ctx addr 8 with
    | none => none
    | some l =>
      let h : Word := BitVec.ofNat 64 (leNat l)
      let t := bits h 0 8
      let c := bits h 8 8
      let p := bits h 16 8
      let n := 8 + padded (4 * t) + padded (2 * c) + 16 * p
      if addr % 8 ≠ 0 || bits h 24 40 ≠ 0 || 4096 < n then none
      else (s.readBlock ctx addr n).bind fun l =>
        let num (at' k : Nat) : Nat := leNat ((l.drop at').take k)
        let tapes := (List.range t).map fun i => BitVec.ofNat 32 (num (8 + 4 * i) 4)
        let chans := (List.range c).map fun i => num (8 + padded (4 * t) + 2 * i) 2
        let at' := 8 + padded (4 * t) + padded (2 * c)
        let pins := (List.range p).map fun i => (num (at' + 16 * i) 8, num (at' + 16 * i + 8) 8)
        if chans.any (592 ≤ ·) || pins.any (2 ^ 57 ≤ ·.1) then none else some ⟨tapes, chans, pins⟩

/-- Relative channels that a kernel declares, rising. -/
def relChannels (k : KernelImage) : List Nat := sortBy id ((k.timelines.map (·.chan)).eraseDups)

/-- No channel: what stands for a relative number that a kernel does not declare. -/
def noChannel : Nat := 0xFFFF

/-- Physical channels by relative number. -/
def channelTable (k : KernelImage) (chans : List Nat) : List Nat :=
  let rel := relChannels k
  (List.range (rel.foldl Nat.max 0 + 1)).map fun r => match rel.idxOf? r with
    | some i => chans.getD i noChannel
    | none => noChannel

/-- The argument block: 32 doublewords, or none for an address of 0. -/
def State.readArgs (s : State) (ctx addr : Nat) : Option (Option (List Word)) :=
  if addr = 0 then some none
  else (s.readBlock ctx addr 256).map fun l => some ((List.range 32).map fun i => BitVec.ofNat 64 (leNat ((l.drop (8 * i)).take 8)))

/-! ### Channels and the fabric (10 R201, R202, R205; 11 R211) -/

/-- The dcs of a block of 256 that carry a line of a timeline's windows on a channel. -/
def busyInBlock (j : Jedec) (t : TimelineSec) (block : Nat) : Nat :=
  let spans := t.entries.flatMap fun e => (dataLines j (windowOf 0 e) (entryDc e)).map fun x => (x, x + j.bl)
  let hit (dc : Nat) : Bool := match t.cycle with
    | none => spans.any fun p => p.1 ≤ dc && dc < p.2
    | some (from', period) => spans.any fun p =>
        from' + p.1 ≤ dc && (dc - from' - p.1) % period < p.2 - p.1
  ((List.range 256).filter fun i => hit (256 * block + i)).length

/-- Blocks that have to be looked at: of a list all that it reaches, of a period as many as repeat. -/
def blocksOf (j : Jedec) (t : TimelineSec) : Nat :=
  let span := (t.entries.map entryDc).foldl Nat.max 0 + j.rcd + 16 * j.bl
  match t.cycle with
  | none => span / 256 + 1
  | some (from', period) => (from' + span) / 256 + 2 + period / Nat.gcd period 256 + 1

/-- The open-slot rule: 16 dc of every aligned block of 256 carry no line. -/
def openSlots (phys : Nat) (t : TimelineSec) : Bool :=
  let j := jedec phys
  (List.range (blocksOf j t)).all fun b => busyInBlock j t b ≤ 240

/-- Fabric instances that serve channels, each with the stream contexts due to a task that owns them. -/
def fabricNeed (chans : List Nat) : List (Nat × Nat) :=
  let mine := chans.filter (· ≠ noChannel)
  ((mine.map stackOf).eraseDups).map fun i =>
    let o := (mine.filter fun c => stackOf c = i).length
    (i, if i < 8 then ceilDiv o 4 else ceilDiv (4 * o) 5)

/-- Free stream contexts of an instance. -/
def State.freeStreams (s : State) (i : Nat) : List Nat :=
  ((List.range 16).map (16 * i + ·)).filter fun n => (s.stream n).owner.isNone

/-- Whether every instance has the slots and contexts. -/
def State.fabricFree (s : State) (need : List (Nat × Nat)) (bills : Nat) : Bool :=
  need.all fun e => e.2 ≤ (s.freeStreams e.1).length && (get s.mashOwner [] e.1).length + bills ≤ 8

/-! ### Wheel positions (14 R263) -/

/-- Positions that tasks own. -/
def State.wheelOwned (s : State) : List Nat :=
  s.tasks.flatMap fun e => match e.2.wheel with
    | some w => (List.range w.count).flatMap fun k => (List.range e.2.coreCount).map fun r => w.base + k * w.stride + r
    | none => []

/-- The lowest base at which every position is free. -/
def State.wheelPlace (s : State) (k : KernelImage) : Bound (Option WheelAlloc) :=
  if k.wheel = 0 then .ok none
  else
    let c := wheelCount k.wheel
    let stride := 4096 / c
    let t := 8 * k.quires
    let owned := s.wheelOwned
    let clear (b : Nat) : Bool := (List.range c).all fun i => (List.range t).all fun r => !owned.contains (b + r + i * stride)
    match (List.range (stride + 1 - t)).find? clear with
    | some b => .ok (some ⟨b, stride, c⟩)
    | none => .wait

/-- A core's WHEELMAP (04 R69). -/
def wheelMap (w : Option WheelAlloc) (core : Nat) : Word :=
  match w with
  | some w => BitVec.ofNat 64 (w.count * 2 ^ 24 + w.stride % 4096 * 2 ^ 12 + (w.base + core))
  | none => 0

/-! ### Tapes and pins (08 R153, 15 R277) -/

/-- Whether a bound handle names a tape that fits its declaration, on tape pages throughout. -/
def State.tapeOk (s : State) (ctx : Nat) (h : BitVec 32) (d : TapeDecl) : Bool :=
  let e := s.tape ctx (h.toNat % 2 ^ 16)
  h.toNat < 2 ^ 16 && e.valid && e.format.toNat = d.fmt && d.len ≤ e.capacity.toNat &&
    (tapeRanges e).all fun r => (s.pageWalks ctx r.1 r.2 (r.2 / 4096 + 2)).all fun x => match x.2 with
      | .ok _ leaf _ => leafTape leaf
      | _ => false

/-- The pages that a task pins, those of the tape table first; none where one may not be, or the pin table would overflow. -/
def State.pagesToPin (s : State) (ctx : Nat) (b : Binding) : Option (List (Nat × Nat)) :=
  let ranges := b.tapes.flatMap (fun h => tapeRanges (s.tape ctx (h.toNat % 2 ^ 16))) ++ b.pins
  match ranges.mapM fun r => s.pinnable ctx r.1 r.2 with
  | some l =>
    let pages := tablePages ++ l.flatten
    let fresh := pages.eraseDups.filter fun p => !s.pins.any fun q => q.ctx = ctx && q.va = p.1
    if s.pins.length + fresh.length ≤ 65536 then some pages else none
  | none => none

/-- Pages that the pin ranges of a binding hold (16 R290). -/
def State.pinRangePages (s : State) (ctx : Nat) (b : Binding) : Nat :=
  ((b.pins.filterMap fun r => s.pinnable ctx r.1 r.2).flatten).eraseDups.length

/-! ### A new task (16 R290, 03 R49) -/

/-- All that a launch binds. -/
structure Plan where
  words : List Word
  folio : Folio
  img : KernelImage
  quires : List Nat
  channels : List Nat
  tapes : List (BitVec 32)
  args : Option (List Word)
  wheel : Option WheelAlloc
  pins : List (Nat × Nat)
  /-- Pages of the pin ranges alone. -/
  rangePages : Nat
  deriving DecidableEq, Repr

/-- Pages that a ready node will pin and that lie in the capacity tier, or move: they are promoted before it launches (10 R209).  Those
of a bound tape are among them, whatever its HOME says (log 109). -/
def State.awaitsPages (s : State) (ctx : Nat) (b : Binding) : List Alloc :=
  let ranges := b.tapes.flatMap (fun h => tapeRanges (s.tape ctx (h.toNat % 2 ^ 16))) ++ b.pins
  let low (a : Alloc) : Bool := match s.leafAt a.ctx a.va with
    | some (_, 3, e) => leafHome e = 1 && !leafPinned e && !s.pinned a.ctx a.va
    | _ => false
  s.tier.allocs.filter fun a => a.ctx = ctx && (low a || s.tier.moving.any fun m => m.ctx = a.ctx && m.va = a.va) &&
    ranges.any fun r => 0 < r.2 && rangesMeet r.1 r.2 a.va (2 ^ 21)

/-- Where a spare is that can take a channel's place: one of four pseudo-channels of a stack, of the channel's own where it has one
left; or a section of the fitted part, under 512 (10 R198, R208; log 114). -/
def State.spareFor (s : State) (ch : Nat) : Option Nat :=
  if ch < 512 then (stackOf ch :: List.range 8).find? fun i => get s.dram.spareChannels 0 i < 4
  else if get s.dram.spareChannels 0 512 < Config.spareSections then some 512 else none

def State.hasSpare (s : State) (ch : Nat) : Bool := (s.spareFor ch).isSome

/-- Pages on channels that a launch would retire with no spare to take their place: Floor moves them before that launch (10 R208). -/
def State.leavingPages (s : State) (chans : List Nat) : List Alloc :=
  let gone := chans.filter fun c => s.dram.retireChannels.contains c && !s.hasSpare c
  let on (a : Alloc) : Bool := match s.leafAt a.ctx a.va with
    | some (_, 3, e) => leafHome e ≠ 2 && !leafPinned e && !s.pinned a.ctx a.va && (s.channel (leafFrame e)).any gone.contains
    | _ => false
  if gone.isEmpty then [] else s.tier.allocs.filter fun a => on a || s.tier.moving.any fun m => m.ctx = a.ctx && m.va = a.va

/-- A retired channel's place taken by a spare, whose rows are sound and hold what the channel held; where none is left the channel is
lost and Floor reports it to the host (10 R208). -/
def State.retireChannel (s : State) (ch : Nat) : State :=
  let stale (key : Nat) : Bool := key / 2 ^ 28 = ch
  let d := { s.dram with
    retireChannels := s.dram.retireChannels.filter (· ≠ ch)
    scores := s.dram.scores.filter fun e => !stale e.1
    hot := s.dram.hot.filter fun e => !stale e.2
    copying := s.dram.copying.filter fun e => !stale e.1
    sparesUsed := s.dram.sparesUsed.filter fun e => e.1 / 16 ≠ ch }
  { s with dram := match s.spareFor ch with
      | some key => { d with spareChannels := put d.spareChannels key (get d.spareChannels 0 key + 1) }
      | none => { d with lost := if d.lost.contains ch then d.lost else d.lost ++ [ch] } }

/-- The checks of a launch, in order (16 R290): a node is bound to free quires (03 R42, R43). -/
def State.planOf (s : State) (r : Ready) : Bound Plan :=
  match s.readNode r.ctx r.node with
  | none => .bad 0x25
  | some w =>
    if s.recordBad r.ctx w then .bad 0x25
    else match find? s.folios (nodeBits w 3 0 16) with
      | none => .bad 0x20
      | some f => match f.img.kernels[nodeBits w 3 16 8]? with
        | none => .bad 0x20
        | some k =>
          if f.img.ctx ≠ r.ctx then .bad 0x20
          else match s.readArgs r.ctx (nodeBits w 4 0 57), s.readBinding r.ctx (nodeBits w 5 0 57) with
            | some args, some b =>
              let chans := channelTable k b.channels
              let owned := chans.filter (· ≠ noChannel)
              (demand (b.tapes.length = k.tapes.length && b.channels.length = (relChannels k).length) 0x21).bind fun _ =>
              (s.placement k w).bind fun quires =>
              (demand (owned.eraseDups.length = owned.length) 0x24).bind fun _ =>
              (await (owned.all fun c => (find? s.chanOwner c).isNone)).bind fun _ =>
              (await (s.leavingPages owned).isEmpty).bind fun _ =>
              (demand (k.timelines.all fun t => openSlots (chans.getD t.chan noChannel) t) 0x24).bind fun _ =>
              (await (s.fabricFree (fabricNeed chans) k.mash.length)).bind fun _ =>
              (s.wheelPlace k).bind fun wheel =>
              (demand ((b.tapes.zip k.tapes).all fun p => s.tapeOk r.ctx p.1 p.2) 0x23).bind fun _ =>
              (await (s.awaitsPages r.ctx b).isEmpty).bind fun _ =>
              match s.pagesToPin r.ctx b with
              | none => .bad 0x22
              | some pins => .ok ⟨w, f, k, quires, chans, b.tapes, args, wheel, pins, s.pinRangePages r.ctx b⟩
            | _, _ => .bad 0x21

/-- DETC of a re-run: one entry of code 0x10 with the attempt's number (17 R321). -/
def replayDetc (attempt : Nat) : SMap Word :=
  if attempt = 0 then [] else [(0, BitVec.ofNat 64 (attempt * 2 ^ 8 + 0x10))]

/-- A core as a task's start gives it (03 R49, 17 R308). -/
def startCore (core cores phys : Nat) (cmpat : Word) (wheel : Option WheelAlloc) (area attempt : Nat) : Core :=
  { Core.start with
    s := (if core = 0 then [] else [(1, BitVec.ofNat 64 core)]) ++ [(2, BitVec.ofNat 64 cores)]
    cmpat := cmpat
    wheelmap := wheelMap wheel core
    frptr := BitVec.ofNat 64 (area + 128 * phys)
    detc := replayDetc attempt }

/-- Owners of a task's quires, channels and fabric allotments; stream contexts are its instances' lowest free ones, or those it
had before a freeze. -/
def State.own (s : State) (t : Nat) (quires chans : List Nat) (bills : Nat) (streams : List (Nat × Stream)) : State :=
  let need := fabricNeed chans
  { s with
    quireOwner := (wholeDies quires).foldl (fun m q => put m q t) s.quireOwner
    chanOwner := (chans.filter (· ≠ noChannel)).foldl (fun m c => put m c t) s.chanOwner
    mashOwner := need.foldl (fun m e => upd m [] e.1 (· ++ List.replicate bills t)) s.mashOwner
    streams := streams.foldl (fun m e => put m e.1 e.2) s.streams }

/-- Stream contexts for a new task. -/
def State.newStreams (s : State) (t : Nat) (chans : List Nat) : List (Nat × Stream) :=
  (fabricNeed chans).flatMap fun e => ((s.freeStreams e.1).take e.2).map fun n =>
    (n, { Stream.start with owner := some t, gen := (s.stream n).gen })

/-- Timelines as they stand at a binding for a start at a gc: the channel, and ages of its row groups that are left open (log 2).  One
in guarded mode has its next refresh 3.9 µs after the start; the range that a DRAM stands in by then puts no other into it (log 129). -/
def State.newTimelines (s : State) (k : KernelImage) (chans : List Nat) (old : SMap TimelineRun) (start : Nat) :
    SMap TimelineRun × State :=
  k.timelines.foldl (fun (acc : SMap TimelineRun × State) sec =>
    let r := { get old TimelineRun.start sec.chan with
      phys := chans.getD sec.chan noChannel, boundAt := s.micros, ages := acc.2.freeCount,
      limit := s.refreshWindowOf (chans.getD sec.chan noChannel) - 256, guardGc := start + 9360 }
    (put acc.1 sec.chan r, { acc.2 with freeCount := acc.2.freeCount + 2 ^ 24 })) (old, s)

/-- How long a launch takes at most (16 R290). -/
def launchLimit (pages : Nat) : Nat := 1440 + 240 * ceilDiv (pages - 64) 64

/-- Bind a ready instance by its plan: everything it owns, pins and starts with.  Its first bundles issue at a global cycle
within the limit of 16 R290, the stall of a unit that is gated by then, of at most 480 gc, among them (03 R54). -/
def State.bindPlan (s : State) (r : Ready) (p : Plan) : State :=
  let t := s.nextId
  let (n, s1) := { s with nextId := s.nextId + 1 }.free
  let (g, s2) := s1.free
  let limit := launchLimit p.rangePages
  let start := s.gcyc + 1 + n % limit
  let (timelines, s3) := s2.newTimelines p.img p.channels [] start
  let area := (get s.ctxs Context.start r.ctx).faultArea
  let cores := 8 * p.quires.length
  let phys (c : Nat) : Nat := 8 * p.quires.getD (c / 8) 0 + c % 8
  let task := { Task.start with
    ctx := r.ctx, node := r.node, folio := p.folio.img.id, kernel := nodeBits p.words 3 16 8, quires := p.quires
    prio := r.prio, readyGc := r.readyGc, startGc := start, det := recDet p.words, attempt := r.attempt, status := .starting
    cores := (List.range cores).map fun c => (c, startCore c cores (phys c) p.folio.cmpat p.wheel area r.attempt)
    tapes := p.tapes, channels := p.channels, pins := p.pins, args := p.args.getD [], argsValid := p.args.isSome
    wheel := p.wheel, timelines := timelines, gated := some (min (start + g % 481) (s.gcyc + limit)) }
  let s3' := (p.channels.filter s3.dram.retireChannels.contains).foldl State.retireChannel s3
  let s4 := s3'.own t p.quires p.channels p.img.mash.length (s3.newStreams t p.channels)
  let s5 := { s4 with tasks := put s4.tasks t task }
  let s6 := (s5.stampVirt r.ctx (nodeBits p.words 4 0 57) (if p.args.isSome then 256 else 0)).stampVirt r.ctx (nodeBits p.words 5 0 57) 8
  p.pins.foldl (fun (s : State) q => s.pinPage r.ctx q.1 q.2) s6

/-- The start of a bound task.  It is a rollback point, so the cores' state at the start is their first shadow (03 R56, 15 R279). -/
def State.startTask (s : State) (t : Nat) : State :=
  s.setTask t fun k => { k.newShadow s.nextId with status := .running }

/-- Dc 0 of a task, which issues in this global cycle (16 R290, R299): STATUS 2; the step count and LAUNCHES are taken for GARG. -/
def State.beginTask (s : State) (t : Nat) : State :=
  let k := s.task t
  let launches := match s.readNode k.ctx k.node with
    | some w => nodeBits w 7 16 32
    | none => 0
  if k.begun then s
  else (s.setStatus k.ctx k.node 2).setTask t fun k =>
    { k with begun := true, launches := launches, steps := (get s.ctxs Context.start k.ctx).steps }

/-! ### Binding a frozen task again (03 R60) -/

/-- The quires for a frozen task; with DET its own. -/
def State.resumePlace (s : State) (k : Task) (img : KernelImage) : Bound (List Nat) :=
  let choices := if k.det then [k.quires] else places img.quires
  match (choices.filter fun l => l.all s.quireWhole).find? fun l => (wholeDies l).all s.quireFree with
  | some l => .ok l
  | none => if choices.any fun l => l.all s.quireWhole then .wait else .bad 0x24

/-- A frozen task's place, once its channels, mash slots and stream contexts are free again. -/
def State.resumePlan (s : State) (t : Nat) : Bound (List Nat) :=
  let k := s.task t
  match s.kernel t with
  | none => .bad 0x20
  | some img =>
    (s.resumePlace k img).bind fun quires =>
    (await (k.channels.all fun c => c = noChannel || (find? s.chanOwner c).isNone)).bind fun _ =>
    (await ((fabricNeed k.channels).all fun e => (get s.mashOwner [] e.1).length + img.mash.length ≤ 8)).bind fun _ =>
    (await (k.savedStreams.all fun e => (s.stream e.1).owner.isNone)).bind fun _ => .ok quires

/-- PREEMPT_RESUME (03 R60) at an effective priority, which it keeps (16 R293): every context is restored, and the restart bundles issue
at dc F in one global cycle. -/
def State.resumeTask (s : State) (t : Nat) (quires : List Nat) (prio : Nat) : State :=
  let k := s.task t
  match s.kernel t with
  | none => s
  | some img =>
    let (n, s1) := s.free
    let (timelines, s2) := s1.newTimelines img k.channels k.timelines (s.gcyc + 1 + n)
    (s2.own t quires k.channels img.mash.length k.savedStreams).setTask t fun k =>
      { k with quires := quires, prio := prio, status := .resuming, startGc := s.gcyc + 1 + n, savedStreams := [], timelines := timelines }

/-! ### Returning what a task holds -/

/-- Quires, channels and allotments return to the pool (03 R43, 10 R201, 11 R211). -/
def State.disown (s : State) (t : Nat) : State :=
  { s with
    quireOwner := s.quireOwner.filter fun e => e.2 ≠ t
    chanOwner := s.chanOwner.filter fun e => e.2 ≠ t
    mashOwner := mapVals s.mashOwner fun _ l => l.filter (· ≠ t)
    streams := s.streams.map fun e => if e.2.owner = some t then (e.1, { Stream.start with gen := e.2.gen }) else e }

/-- The end of a task: all it holds returns, its pins are lowered, and it is gone. -/
def State.removeTask (s : State) (t : Nat) : State :=
  let k := s.task t
  let s1 := k.pins.foldl (fun (s : State) p => s.unpinPage k.ctx p.1) (s.disown t)
  { s1 with tasks := erase s1.tasks t }

end Sys2Proof.Machine
end

