-- ==== Sys2Proof/Machine/Tier.lean ====
section
/-!
DEFINITION. The eviction engine: 2 MiB pages between the tiers (10 R209).
-/

namespace Sys2Proof.Machine

/-! ### Frames in use -/

/-- Page tables below a table, itself among them, with fuel for the levels. -/
def State.tablesFrom (s : State) (table : Nat) : Nat → List Nat
  | 0 => []
  | fuel + 1 => table :: (List.range 512).flatMap fun i =>
    let e := Memory.word s.mem (table + 8 * i)
    if bitAt e 0 && !bitAt e 1 then s.tablesFrom (leafFrame e) fuel else []

/-- The addresses of a channel (10 R200). -/
def State.channelRange (s : State) (ch : Nat) : Nat × Nat :=
  if ch < 512 then (ch * 2 ^ 30, 2 ^ 30) else (capacityBase + (ch - 512) * s.subChannel, s.subChannel)

/-- Local memory that something uses: tables and pages of every context, exported frames, pages on their way, lost
and retiring channels, the dump region. -/
def State.usedRanges (s : State) : List (Nat × Nat) :=
  let ofCtx (c : Context) : List (Nat × Nat) :=
    (s.tablesFrom c.root 5).map (·, 4096) ++ ((s.leavesFrom 0 c.root 0 5).filter fun l => leafHome l.2.2.2 ≠ 2).map
      fun l => (leafFrame l.2.2.2, 2 ^ pageBits l.2.1)
  s.ctxs.flatMap (fun c => ofCtx c.2) ++ s.grants.map (fun g => (g.2.pa, 4096 * g.2.count)) ++
    s.tier.moving.map (fun m => (m.frame, 2 ^ 21)) ++ (s.dram.lost ++ s.dram.retireChannels.filter (!s.hasSpare ·)).map s.channelRange ++ [(s.dumpBase, 2 ^ 32)]

/-- First address and number of the 2 MiB frames of a tier. -/
def State.tierFrames (s : State) (fast : Bool) : Nat × Nat :=
  if fast then (0, 2 ^ 18) else (capacityBase, 80 * s.subChannel / 2 ^ 21)

/-- Frames of the fast tier in use. -/
def State.freePages (s : State) : Nat :=
  let used := (s.usedRanges.filter (·.1 < fastTop)).flatMap fun r =>
    (List.range ((r.1 % 2 ^ 21 + r.2 + 2 ^ 21 - 1) / 2 ^ 21)).map (r.1 / 2 ^ 21 + ·)
  2 ^ 18 - used.eraseDups.length

/-- A free frame of a tier; which one is left open (log 2). -/
def State.freeFrame (s : State) (fast : Bool) : Option Nat × State :=
  let (base, n) := s.tierFrames fast
  let used := s.usedRanges
  let (k, s1) := s.free
  (((List.range n).map fun i => base + (k + i) % n * 2 ^ 21).find? fun f => !used.any fun r => rangesMeet r.1 r.2 f (2 ^ 21), s1)

/-! ### Moves -/

/-- The 2 MiB leaf of an allocation on a tier that may move: not pinned and not moving. -/
def State.movable (s : State) (a : Alloc) (fast : Bool) : Bool :=
  match s.leafAt a.ctx a.va with
  | some (_, 3, e) => leafHome e = (if fast then 0 else 1) && !leafPinned e && !leafMigr e && !s.pinned a.ctx a.va
  | _ => false

/-- A page begins to move: MIGR write-protects it, and its cached translations go. -/
def State.startMove (s : State) (a : Alloc) (toFast : Bool) : State :=
  match s.freeFrame toFast with
  | (none, s1) => s1
  | (some f, s1) =>
    let (n, s2) := s1.free
    let s3 := (s2.mapLeaf a.ctx a.va (withBit · 55 true)).dropTlb a.ctx a.va (2 ^ 21)
    { s3 with tier := { s3.tier with moving := s3.tier.moving ++ [⟨a.ctx, a.va, f, toFast, s.gcyc + 1 + n⟩] } }

/-- Order of victims: furthest next use, none the furthest; then lowest priority; then oldest. -/
def before (a b : Alloc) : Bool :=
  let far (x : Alloc) (y : Alloc) : Bool := match x.next, y.next with
    | none, some _ => true
    | some p, some q => q < p
    | _, none => false
  if far a b then true
  else if far b a then false
  else if a.prio ≠ b.prio then a.prio < b.prio
  else a.order < b.order

/-- The page the engine would move out of the fast tier. -/
def State.victim (s : State) : Option Alloc :=
  (s.tier.allocs.filter fun a => !a.evicted && s.movable a true).foldl (fun best a => match best with
    | none => some a
    | some b => if before a b then some a else some b) none

/-- Whether the fast tier's free pages, those on their way out among them, are below the watermark. -/
def State.belowWatermark (s : State) : Bool :=
  !s.tier.allocs.isEmpty && s.freePages + (s.tier.moving.filter (!·.toFast)).length < s.tier.watermark

/-- TIER_EVICTION: a victim begins to move to the capacity tier. -/
def execTierEviction (s : State) : Out :=
  s.up fun s => if s.belowWatermark then match s.victim with
      | some a => s.startMove a false
      | none => s
    else s

/-- Pages that the next ready node will pin move to the fast tier before it launches. -/
def State.promote (s : State) (l : List Alloc) : State :=
  l.foldl (fun (s : State) a => if s.movable a false then s.startMove a true else s) s

/-- Pages leave channels that a launch retires, each for a frame of its own tier (10 R208). -/
def State.relocate (s : State) (l : List Alloc) : State :=
  l.foldl (fun (s : State) a => if s.movable a true then s.startMove a true else if s.movable a false then s.startMove a false else s) s

/-- Memory with `n` bytes copied from one place to another, in canonical form. -/
def Memory.copy (m : Memory) (src dst n : Nat) : Memory :=
  let cells := (m.filter fun c => src ≤ c.1 && c.1 < src + n).map fun c => (c.1 - src + dst, c.2)
  (m.filter fun c => c.1 < dst) ++ cells ++ m.filter fun c => dst + n ≤ c.1

/-- The marks of lost bytes that go with a page. -/
def MemInfo.copyMarks (m : MemInfo) (src dst n : Nat) : MemInfo :=
  let in' (from' unit k : Nat) : Bool := from' / unit ≤ k && k < (from' + n) / unit
  let moved {α : Type} (unit : Nat) (f : α → α) (p : SMap α) : SMap α :=
    (p.filter fun e => in' src unit e.1).foldl (fun p e => put p (e.1 - src / unit + dst / unit) (f e.2))
      (p.filter fun e => !in' src unit e.1 && !in' dst unit e.1)
  let at' (l : Nat) : Bool := src / 64 ≤ l && l < (src + n) / 64
  let goes (l : Nat) : Nat := l - src / 64 + dst / 64
  let clear (l : Nat) : Bool := !(dst / 64 ≤ l && l < (dst + n) / 64)
  { m with
    poison := (m.poison.filter fun e => at' e.1).foldl (fun p e => put p (goes e.1) e.2) (m.poison.filter fun e => clear e.1)
    codeWord := m.codeWord.filter clear ++ (m.codeWord.filter at' ++ (m.failing.filter fun e => at' e.1).map (·.1)).map goes
    barScope := moved 1 id m.barScope
    lastWrite := moved 64 id m.lastWrite
    lastRmw := moved 4 id m.lastRmw
    stlBytes := moved 1 id m.stlBytes
    failing := m.failing.filter fun e => clear e.1 }

/-- Every row of a 2 MiB frame is activated (10 R206). -/
def State.stampFrame (s : State) (pa : Nat) : State := s.activate ((List.range (2 ^ 15)).map (pa / 64 + ·))

/-- PAGE_MOVE_COMPLETE: once its time has come and no access translated to the old frame is left, the page lies in its new frame
and MIGR is clear. -/
def execPageMoveComplete (ctx va : Nat) (s : State) : Out :=
  s.up fun s => match s.tier.moving.find? fun m => m.ctx = ctx && m.va = va, s.leafAt ctx va with
    | some m, some (_, 3, e) =>
      let old := leafFrame e
      let inUse := s.queue.any fun a => match a.target with
        | .memory p _ => rangesMeet p a.size old (2 ^ 21)
        | _ => false
      if s.gcyc < m.due || inUse then s
      else
        let f (e : Word) : Word := withField (withField (withBit e 55 false) 12 40 (m.frame / 4096)) 6 2 (if m.toFast then 0 else 1)
        let s1 := { s with mem := Memory.copy s.mem old m.frame (2 ^ 21), info := s.info.copyMarks old m.frame (2 ^ 21) }
        let s2 := (((s1.mapLeaf ctx va f).dropTlb ctx va (2 ^ 21)).stampFrame old).stampFrame m.frame
        let moved (a : Alloc) : Alloc := if a.ctx = ctx && a.va = va then { a with evicted := !m.toFast } else a
        { s2 with tier := { s2.tier with moving := s2.tier.moving.filter (· ≠ m), allocs := s2.tier.allocs.map moved } }
    | _, _ => s

/-- ALLOCATION_HINT_CHANGE: the host, through Floor, sets priority, 0 to 7, and next-use step. -/
def execAllocationHintChange (ctx va prio : Nat) (next : Option Nat) (s : State) : Out :=
  let page := va / 2 ^ 21 * 2 ^ 21
  s.up fun s => if 7 < prio then s.refuse
    else { s with tier := { s.tier with allocs := s.tier.allocs.map fun a =>
      if a.ctx = ctx && a.va = page then { a with prio := prio, next := next } else a } }

end Sys2Proof.Machine
end

