-- ==== Sys2Proof/Machine/Processor.lean ====
section
/-!
DEFINITION. The command processor at work: the scheduler's decisions, pre-emption, launches and signals of running tasks, and
the completion of kernel instances (16 R288 to R297; 17 R318 to R321).
-/

namespace Sys2Proof.Machine

/-! ### The scheduler (16 R288) -/

/-- 4,096 µs of the reference clock. -/
def agePeriod : Nat := 4096 * 2400

/-- PRIORITY_AGING: every instance that has waited a further 4,096 µs rises by a level, up to 3. -/
def execPriorityAging (s : State) : Out :=
  s.up fun s => { s with ready := s.ready.map fun r =>
    if r.agedGc + agePeriod ≤ s.gcyc then { r with agedGc := r.agedGc + agePeriod, prio := min 3 (r.prio + 1) } else r }

/-- Highest effective priority first, then the oldest, then queue and record address. -/
def readyKey (r : Ready) : Nat := (3 - r.prio) * 2 ^ 256 + r.readyGc * 2 ^ 128 + r.queue * 2 ^ 64 + r.node

def State.order (s : State) : List Ready := sortBy readyKey s.ready

/-- The step count of a context advances (10 R209). -/
def State.countStep (s : State) (ctx : Nat) : State := s.setCtx ctx fun c => { c with steps := c.steps + 1 }

/-- An instance that cannot launch fails (16 R292). -/
def State.failLaunch (s : State) (r : Ready) (code : Nat) : State := (s.countStep r.ctx).failNode r.ctx r.node 3 code

/-- The scheduler takes one instance in order.  Once a KERNEL instance has blocked, no other is bound. -/
def takeReady (acc : State × Option Ready) (r : Ready) : State × Option Ready :=
  let s := acc.1
  let gone := { s with ready := s.ready.erase r }
  match r.frozen with
  | some t =>
    if acc.2.isSome then acc
    else match s.resumePlan t with
      | .ok quires => (gone.resumeTask t quires r.prio, none)
      | .wait => (s, some r)
      | .bad code => ((gone.removeTask t).failLaunch r code, none)
  | none =>
    let record := s.readNode r.ctx r.node
    if (record.map recType).getD 1 ≠ 1 then
      if (record.map (s.recordBad r.ctx)).getD true then (gone.failNode r.ctx r.node 3 0x25, acc.2)
      else (gone.startCpNode r.ctx r.node, acc.2)
    else if acc.2.isSome then acc
    else match s.planOf r with
      | .ok p => (gone.bindPlan r p, none)
      | .wait => (s, some r)
      | .bad code => (gone.failLaunch r code, none)

/-- Whether an instance would bind, or fail, but not wait. -/
def State.bindable (s : State) (r : Ready) : Bool :=
  match r.frozen with
  | some t => s.resumePlan t ≠ .wait
  | none => s.planOf r ≠ .wait

/-! ### Pre-emption (16 R293) -/

/-- Running tasks below a priority, lowest first, then the most recently started. -/
def State.preemptible (s : State) (prio : Nat) : List Nat :=
  let l := s.tasks.filter fun e => e.2.prio < prio && (e.2.status = .running || e.2.status = .service || e.2.status = .starting)
  (sortBy (fun e => e.2.prio * 2 ^ 128 + (2 ^ 100 - min e.2.startGc (2 ^ 100))) l).map (·.1)

/-- The tasks whose freeze would let a blocked instance bind: the shortest such beginning of the list, none where no number of
them would (log 36). -/
def State.preemptSet (s : State) (r : Ready) : List Nat :=
  let draining := (s.tasks.filter fun e => e.2.status = .frozen).map (·.1)
  let base := draining.foldl State.disown s
  let l := s.preemptible r.prio
  if base.bindable r then []
  else match (List.range l.length).find? fun n => ((l.take (n + 1)).foldl State.disown base).bindable r with
    | some n => l.take (n + 1)
    | none => []

/-- Requests raised and withdrawn. -/
def State.setPreempts (s : State) (l : List Nat) : State :=
  { s with tasks := mapVals s.tasks fun t k => if k.status = .frozen then k else { k with preempt := l.contains t } }

/-- SCHEDULER_DECISION: every 24 gc. -/
def execSchedulerDecision (s : State) : Out :=
  s.up fun s => if s.gcyc % 24 ≠ 0 then s
    else
      let (s1, blocked) := s.order.foldl takeReady (s, none)
      match blocked with
      | none => s1.setPreempts []
      | some r =>
        let needs := (s1.readNode r.ctx r.node).bind fun w => (s1.readBinding r.ctx (nodeBits w 5 0 57)).map fun b =>
          (s1.awaitsPages r.ctx b, s1.leavingPages b.channels)
        let (up, away) := needs.getD ([], [])
        ((s1.promote up).relocate away).setPreempts (s1.preemptSet r)

/-! ### Launches, signals and QSYNC of running tasks (16 R295 to R297) -/

def State.post (s : State) (t id : Nat) : Option Post := (s.task t).posts.find? (·.id = id)

/-- Whether a now launch or a signal applies: the core's queued accesses before it have performed, and every write of the task
with a perform dc at or below its issue; signals of one core apply in order. -/
def State.postReady (s : State) (t : Nat) (p : Post) : Bool :=
  let k := s.task t
  p.now && !p.applied && s.queue.all (fun a => !(a.task = t && a.core = p.core && a.id < p.id)) &&
    k.owed.all (fun o => !(o.eff.isTimed && o.dc ≤ p.issueDc)) &&
    k.cores.all (fun c => c.2.engines.all fun e => match e.2.running with
      | some r => p.issueDc < r.cmd.perform
      | none => true) &&
    (!p.isSignal || k.posts.all fun q => !(q.core = p.core && q.isSignal && q.id < p.id && !q.applied))

/-- NOW_LAUNCH_ARRIVAL: the arrival of a now launch, or the completion entry of a GSIG. -/
def execNowLaunchArrival (t id : Nat) (s : State) : Out :=
  s.up fun s => match s.post t id with
    | none => s
    | some p =>
      if s.postReady t p then
        let mark (q : Post) : Post := if q.id = id then { q with applied := true } else q
        let s1 := s.setTask t fun k => { k with posts := k.posts.map mark }
        let ctx := (s.task t).ctx
        if p.isSignal then s1.postEntry ctx 2 p.tag.toNat 0 p.value else s1.arrive ctx p.addr p.prio
      else s

/-- QSYNC_COMPLETE: the register takes the step count once the core's earlier now launches and signals have applied. -/
def execQsyncComplete (t id : Nat) (s : State) : Out :=
  s.up fun s =>
    let k := s.task t
    match k.qsyncs.find? fun q => q.2.1 = id with
    | none => s
    | some (core, _, reg) =>
      if k.posts.any fun p => p.core = core && p.now && !p.applied && p.id < id then s
      else
        let v : Word := BitVec.ofNat 64 (get s.ctxs Context.start k.ctx).steps
        (s.setTask t fun k => { k with qsyncs := k.qsyncs.filter fun q => q.2.1 ≠ id }).globalResult t core id reg v

/-! ### The end of a kernel instance (16 R291, R292; 17 R318 to R321; 23 R347) -/

/-- The tail launches of a task, in the order of its list. -/
def Task.tails (k : Task) : List (Nat × Option Nat) := (k.posts.filter fun p => !p.isSignal && !p.now).map fun p => (p.addr, p.prio)

/-- The task digest (17 R318). -/
def Task.digest (k : Task) : Word := k.cores.foldl (fun v c => v + c.2.dgst + c.2.dgstNext) 0

/-- Mismatches that TWIN counted on each physical core (17 R319). -/
def State.countTwins (s : State) (t : Nat) : State :=
  let k := s.task t
  k.cores.foldl (fun (s : State) c =>
    let n := twinMismatches c.2.twin
    if n = 0 then s else s.countTwin (k.physCore c.1) n) s

/-- An instance is done: its node completes and its arrivals are applied. -/
def State.completeKernel (s : State) (t : Nat) : State :=
  let k := s.task t
  let next := match s.readNode k.ctx k.node with
    | some w => nextOf w 0 ++ nextOf w 1
    | none => []
  let s1 := (s.countTwins t).setCtx k.ctx fun c => { c with digest := c.digest + k.digest, steps := c.steps + 1 }
  (s1.removeTask t).completeNode k.ctx k.node (k.tails ++ next)

/-- Causes after which a replayable node runs again (17 R321). -/
def replayCause (c : Nat) : Bool := c = 0x08 || c = 0x14 || c = 0x1A || c = 0x1B

/-- A failed instance: every core that raised a twin mismatch with its failure is counted, and every one that raised an SRAM error is
retired (17 R319, R320); it runs again, at most twice, or is reported. -/
def State.endFailed (s : State) (t : Nat) : State :=
  let k := s.task t
  let tr := k.failure.getD (Trap.plain 0 0 0 0 0)
  let raised (cause : Nat) : List Nat :=
    nubNat (((k.failure.toList ++ k.trapped).filter (·.cause = cause)).map fun tr => k.physCore tr.core)
  let s0 := (raised 0x14).foldl (fun (s : State) c => s.countTwin c 1) s
  let s1 := (raised 0x1B).foldl State.retireCore s0
  let record := s.readNode k.ctx k.node
  let repl := (record.map recRepl).getD false
  if repl && replayCause tr.cause && k.attempt < 2 then
    let s2 := k.fromEmpty.eraseDups.foldl (fun (s : State) i => s.setTape k.ctx i { s.tape k.ctx i with state := 0, length := 0 }) s1
    let s3 := (s2.removeTask t).setStatus k.ctx k.node 1
    let queue := (record.map recQueue).getD 0
    { s3 with ready := s3.ready ++ [⟨k.ctx, k.node, queue, k.prio, k.readyGc, s.gcyc, k.attempt + 1, none⟩] }
  else ((s1.removeTask t).countStep k.ctx).failNode k.ctx k.node 4 tr.cause

/-- A store that a peer refused fails the kernel when the task would end (23 R347). -/
def State.failNacked (s : State) (t : Nat) : Option State :=
  let k := s.task t
  let trap (n : Nack) : Trap :=
    let f := nackFail n.reason
    { Trap.plain n.core n.pc n.slot f.cause f.sub with addr := n.addr, kind := 2 }
  if k.nacked.isEmpty then none
  else some ((s.setTask t fun k => { k with nacked := [] }).takeTraps t (k.nacked.map trap))

/-- KERNEL_NODE_COMPLETE: once every queued access of an ended task has performed, and every write of a record of its traps. -/
def execKernelNodeComplete (t : Nat) (s : State) : Out :=
  let k := s.task t
  s.up fun s =>
    if s.queue.any (·.task = t) || s.recordWrites.any (·.task = t) || !k.closed then s
    else if k.status = .ended then
      match s.failNacked t with
      | some s1 => s1
      | none =>
        if k.posts.any fun p => p.now && !p.applied then s
        else s.completeKernel t
    else if k.status = .failed then s.endFailed t
    else s

end Sys2Proof.Machine
end

