-- ==== Sys2Proof/Machine/Power.lean ====
section
/-!
DEFINITION. The power controller (24 R353 to R356).
-/

namespace Sys2Proof.Machine

/-- Temperatures in °C (24 R353). -/
def throttleTemp : Nat := 100
def shutdownTemp : Nat := 115

/-- A domain whose clock runs. -/
def Task.clocked (k : Task) : Bool := k.status = .running || k.status = .service

/-- The rate of each domain changes by an amount that the spec leaves open (log 2): down to 32 at least, up to 64 at most.  A
change takes effect at the next aligned block (24 R355). -/
def State.throttle (s : State) (lower : Bool) : State :=
  let step (s : State) (t : Nat) (k : Task) : State :=
    if !k.clocked || k.held then s
    else
      let (n, s1) := s.free
      let r := k.nextRate
      let next := if lower then (if 32 < r then 32 + n % (r - 32) else r) else if r < 64 then r + 1 + n % (64 - r) else r
      s1.setTask t fun k => { k with nextRate := next }
  s.tasks.foldl (fun (s : State) e => step s e.1 e.2) s

/-- Whether every domain that runs stands at the deepest rate. -/
def State.deepest (s : State) : Bool :=
  let l := s.tasks.filter fun e => e.2.clocked && !e.2.held
  !l.isEmpty && l.all fun e => e.2.rate = 32 && e.2.nextRate = 32

/-- Windows of 10 µs in 1 ms and in 100 ms. -/
def windowsLow : Nat := 100
def windowsHigh : Nat := 10000

/-- POWER_WINDOW (24 R354, R356): above a limit the rate falls; below the limits for 1 ms it rises, and held domains run again; at the
deepest rate and above for 100 ms the condition is reported to Floor and a domain is held.  A hold, and the end of the holds, comes with
the next block of 64 global cycles (24 R355). -/
def execPowerWindow (sample : PowerSample) (s : State) : Out :=
  s.up fun s =>
    if sample.stageFault then s.fatal .power
    else if sample.temps.any (shutdownTemp < ·) then s.fatal .temperature
    else
      let above := s.power.cap < sample.watts || sample.temps.any (throttleTemp < ·)
      let under := sample.watts < s.power.cap && sample.temps.all (· < throttleTemp)
      if above then
        let deep := s.deepest || s.tasks.any (·.2.held)
        let n := if deep then s.power.above + 1 else 0
        let p := { s.power with below := 0, above := if n = windowsHigh then 0 else n }
        { s with power := if n = windowsHigh then { p with pending := some true, reports := p.reports + 1 } else p }.throttle true
      else if under then
        let n := s.power.below + 1
        let p := { s.power with above := 0, below := if n = windowsLow then 0 else n }
        if n = windowsLow then
          { s with power := if s.tasks.any (·.2.held) then { p with pending := some false } else p }.throttle false
        else { s with power := p }
      else { s with power := { s.power with below := 0, above := 0 } }

/-- POWER_HOLD (24 R356): the lowest-priority running domain that is not held yet, from the start of a block (24 R355); of several,
which is left open (log 2). -/
def execPowerHold (s : State) : Out :=
  s.up fun s =>
    let l := s.tasks.filter fun e => e.2.clocked && !e.2.held
    let low := leastOr 0 (l.map (·.2.prio))
    let mine := l.filter fun e => e.2.prio = low
    let (n, s1) := s.free
    match mine[n % mine.length]? with
    | some e => if s.gcyc % 64 = 0 then s1.setTask e.1 fun k => { k with held := true } else s
    | none => s

/-- The hold, or the end of the holds, that waits for a block of 64 global cycles, at its start. -/
def State.holdEvents (s : State) : List Event × State :=
  if s.gcyc % 64 ≠ 0 then ([], s)
  else
    let events := match s.power.pending with
      | none => []
      | some true => [.powerHold]
      | some false => (s.tasks.filter (·.2.held)).map fun e => .powerHoldEnd e.1
    (events, { s with power := { s.power with pending := none } })

end Sys2Proof.Machine
end

