-- ==== Sys2Proof/Machine/Links.lean ====
section
/-!
DEFINITION. Peer chips: what a port receives, requests served under grants, answers to the chip's own requests, recalls, refusals
and failures of links (23 R341 to R348).
-/

namespace Sys2Proof.Machine

/-! ### Serving a peer's requests (23 R344, R345) -/

/-- Whether an entry still serves: granted, or recalled no earlier than this global cycle (23 R346). -/
def Grant.serves (g : Grant) (gc : Nat) : Bool := g.state = .granted || (g.state = .recalling && gc ≤ g.recallGc)

def Grant.covers (g : Grant) (chip addr len : Nat) : Bool :=
  g.chip = chip && g.first * 4096 ≤ addr && addr + len ≤ (g.first + g.count) * 4096

/-- The entry that serves a request of a chip, if one does. -/
def State.grantOf (s : State) (chip addr len : Nat) : Option Grant :=
  (s.grants.find? fun e => e.2.serves s.gcyc && e.2.covers chip addr len).map (·.2)

/-- A request is refused; the NACK count of an entry that no longer serves it rises. -/
def State.refuseRequest (s : State) (port chan : Nat) (m : Message) (len reason : Nat) : State :=
  let chip := (s.port port).chip
  let count (g : Grant) : Grant :=
    if g.state = .recalling && g.covers chip m.addr len then { g with nacks := g.nacks + 1 } else g
  { s with grants := mapVals s.grants fun _ g => count g }.sendNack port m.tag chan reason

/-- A response with the tag of its request; AOP is 0 in it. -/
def State.respond (s : State) (port chan op : Nat) (m : Message) (data : List Byte) : State :=
  s.send port chan { m with op := op, aop := 0, coded := false, fp32 := false, length := data.length, data := data }

/-- Serve a request with a grant, at its local address, or refuse it. -/
def State.serve (s : State) (port chan : Nat) (m : Message) (len : Nat) (r w : Bool) (f : Nat → State) : State :=
  match s.grantOf (s.port port).chip m.addr len with
  | none => s.refuseRequest port chan m len 1
  | some g =>
    if (r && !g.r) || (w && !g.w) then s.refuseRequest port chan m len 2
    else f (g.pa + (m.addr - g.first * 4096))

/-- A peer's bytes reach memory; lines are noted as any other agent's write (13 R261, 15 R280). -/
def State.writePeer (s : State) (chip pa scope : Nat) (atomic : Bool) (l : List Byte) : State :=
  let n := (pa % 64 + l.length + 63) / 64
  let tr : LineTrace := ⟨2 ^ 20 + chip, s.gcyc, 2 ^ 64, scope, false⟩
  (List.range n).foldl (fun (s : State) i =>
    let lo := if i = 0 then 0 else 64 * i - pa % 64
    let hi := min l.length (64 * (i + 1) - pa % 64)
    let line := (pa + lo) / 64
    let s1 := ((s.writePhys (pa + lo) ((l.drop lo).take (hi - lo))).touch line none).reread (2 ^ 20 + chip) (pa + lo) (hi - lo) |>.stampLine line
    { s1 with info := { s1.info.unrelease (pa + lo) (hi - lo) with
        lastWrite := put s1.info.lastWrite line tr
        lastRmw := if atomic then put s1.info.lastRmw (pa / 4) tr else s1.info.lastRmw } }) s

/-- READ_REQUEST. -/
def execReadRequest (port chan : Nat) (m : Message) (s : State) : Out :=
  s.up fun s => s.serve port chan m m.length true false fun pa =>
    (s.activate (spadLines pa m.length)).respond port chan 4 m (Memory.bytes s.mem pa m.length)

/-- WRITE_REQUEST. -/
def execWriteRequest (port chan : Nat) (m : Message) (s : State) : Out :=
  s.up fun s => s.serve port chan m m.data.length false true fun pa =>
    if s.attributed pa m.data.length [0, 1, 2] then s.refuseRequest port chan m m.data.length 2
    else (s.writePeer (s.port port).chip pa m.scope false m.data).respond port chan 5 m []

/-- ATOMIC_REQUEST: an atomic on a page without an attribute, a barrier operation on a barrier page (log 37).  A barrier wait writes
nothing and needs no W. -/
def execAtomicRequest (port chan : Nat) (m : Message) (s : State) : Out :=
  s.up fun s =>
    let n := 2 ^ m.size
    let chip := (s.port port).chip
    s.serve port chan m n true (m.aop ≠ 9) fun pa =>
      let old := leNat (Memory.bytes s.mem pa n)
      if m.aop ≤ 7 then
        if s.attributed pa n [0, 1, 2] then s.refuseRequest port chan m n 2
        else
          let v := leNat (m.data.take n)
          let v2 := leNat ((m.data.drop n).take n)
          (s.writePeer chip pa m.scope true (leBytes n (newWord m.aop n old v v2))).respond port chan 6 m (leBytes n old)
      else if m.aop ≤ 10 && s.attributed pa 8 [0] && m.size = 3 then
        match barrierOp m.aop m.scope (get s.info.barScope 0 pa) (leNat (m.data.take 8)) (BitVec.ofNat 64 old) with
        | none => s.refuseRequest port chan m n 2
        | some (w, v) =>
          let s1 := if w.toNat = old then s else s.writePeer chip pa m.scope true (leBytes 8 w.toNat)
          let s2 := if m.aop = 10 then { s1 with info := { s1.info with barScope := put s1.info.barScope pa m.scope } } else s1
          s2.respond port chan 6 m (leBytes 8 v)
      else s.refuseRequest port chan m n 2

/-! ### Answers to the chip's own requests (23 R344, R347) -/

/-- The outstanding request with a tag on a channel to the chip at a port's far end, with the port it waits at: an answer may come by
another port than its request went out on (23 R342). -/
def State.requestOf (s : State) (port tag chan : Nat) : Option (Nat × RemoteReq) :=
  s.ports.findSome? fun e =>
    if e.2.chip = (s.port port).chip then (e.2.requests.find? fun r => r.tag = tag && r.chan = chan).map (e.1, ·) else none

/-- A request is answered by something that came on channel `via`: its access goes on with `f`, and counts a link retry if a flit of it,
or of the answer, came twice. -/
def State.answered (s : State) (port tag chan via : Nat) (f : State → QAcc → State) : State :=
  match s.requestOf port tag chan with
  | none => s
  | some (q, r) =>
    let s1 := s.setPort q fun p => { p with requests := p.requests.erase r }
    match s1.acc r.access with
    | none => s1
    | some a =>
      let s2 := if a.retried || (s.port port).tainted.contains via then s1.recordEvent a.task a.core 0x0F a.pc else s1
      f s2 a

/-- The 64 bytes of a line of a peer's frame, by its virtual address, as this chip knows them: what the task has written, over bytes
that depend on nothing but its kernel, its arguments and the address (17 R317; log 50). -/
def Task.peerLine (k : Task) (ln : Nat) : List Byte :=
  (find? k.peerLines ln).getD ((List.range 64).map fun i => Config.peerByte k.folio k.kernel k.args (64 * ln + i))

/-- The bytes at a peer's place before and after a write of this chip, from those that stood there as far as it knows and from its
answer `v` (17 R317). -/
def QAcc.peerChange (a : QAcc) (v : Nat) (was : List Byte) : List Byte × List Byte :=
  match a.kind with
  | .store | .release | .storeRow => (was, a.data)
  | .amo _ | .vamo _ =>
    let m := 2 ^ (8 * a.size)
    (leBytes a.size v, leBytes a.size (newWord a.kind.aop a.size (v % m) (a.v.toNat % m) (a.v2.toNat % m)))
  | .barriv | .barinit =>
    let old := was.take 6 ++ leBytes 2 v
    match barrierOp a.kind.aop a.scope a.scope a.v.toNat (BitVec.ofNat 64 (leNat old)) with
    | some (w, _) => (old, leBytes 8 w.toNat)
    | none => (old, old)
  | _ => (was, was)

/-- A write to a peer's frame has performed: line by line the core takes the digest term H(after) - H(before), of the line as this chip
knows it, and loads that a rollback may issue again remember the write (17 R313, R317; log 50). -/
def State.peerWritten (s : State) (a : QAcc) (v : Nat) : State :=
  let touched := (a.writes (s.task a.task)).foldl (fun (s : State) ln => s.touch ln (some (a.task, a.core))) s
  (linesFrom a.va a.size).foldl (fun (s : State) ln =>
    let line := (s.task a.task).peerLine ln
    let lo := a.va - 64 * ln
    let skip := 64 * ln - a.va
    let width := min 64 (a.va + a.size - 64 * ln) - lo
    let (b, c) := a.peerChange v (List.replicate skip 0 ++ (line.drop lo).take width)
    let put' (l : List Byte) : List Byte := line.take lo ++ (l.drop skip).take width ++ line.drop (lo + width)
    let h (l : List Byte) : Word := BitVec.ofNat 64 (hashLine (64 * ln) (put' l))
    (s.setTask a.task fun k => { k with peerLines := put k.peerLines ln (put' c) }).setCore a.task a.core (·.addDigest (h c - h b)))
    touched

/-- READ_RESPONSE. -/
def execReadResponse (port chan : Nat) (m : Message) (s : State) : Out :=
  s.up fun s => s.answered port m.tag chan chan fun s a => if a.kind.isLoad then s.takeLoad a m.data else s

/-- WRITE_ACKNOWLEDGEMENT. -/
def execWriteAcknowledgement (port chan : Nat) (m : Message) (s : State) : Out :=
  s.up fun s => s.answered port m.tag chan chan fun s a => if a.kind.isStore then (s.peerWritten a 0).finish a else s

/-- ATOMIC_RESPONSE. -/
def execAtomicResponse (port chan : Nat) (m : Message) (s : State) : Out :=
  s.up fun s => s.answered port m.tag chan chan fun s a =>
    if a.kind.isLoad || a.kind.isStore then s
    else
      let v := leNat (m.data.take 8)
      let s1 := if a.kind = .barwait then s else s.peerWritten a v
      let s2 := if a.kind = .barwait && 2 ^ 16 ≤ v then
          { s1 with info := { s1.info with lastAcq := put s1.info.lastAcq a.pcore s1.gcyc } } else s1
      (s2.answer a (BitVec.ofNat 64 v)).finish a

/-- A refusal: a load or an atomic faults now, a store at the first fence of its core that covers it, or at the task's end. -/
def State.refused (s : State) (a : QAcc) (reason : Nat) : State :=
  if a.kind.isStore then (s.setTask a.task fun k => { k with nacked := k.nacked ++ [⟨a.core, a.id, a.pc, a.slot, a.va, reason⟩] }).dropAcc a.id
  else s.finishBad a (nackFail reason)

/-- NACK, which comes on channel 0. -/
def execNack (port tag chan reason : Nat) (s : State) : Out :=
  s.up fun s => s.answered port tag chan 0 fun s a => s.refused a reason

/-! ### Grants and recalls (23 R345, R346) -/

/-- Whether an import is that of a grant number of the chip at a port's far end, whichever of its ports brought it. -/
def State.importNum (s : State) (port g : Nat) (i : Import) : Bool := (s.port i.port).chip = (s.port port).chip && i.num = g

/-- GRANT: the importer may map the range. -/
def execGrant (port : Nat) (g : GrantMsg) (s : State) : Out :=
  s.up fun s => { s with imports := (s.imports.filter fun i => !s.importNum port g.num i) ++
    [⟨port, g.num, g.first, g.count, g.r, g.w, false, []⟩] }

/-- Whether an access was translated to a frame of an imported range. -/
def State.through (s : State) (i : Import) (a : QAcc) : Bool :=
  match a.target with
  | .peer chip addr => chip = (s.port i.port).chip && i.first * 4096 ≤ addr && addr < (i.first + i.count) * 4096
  | _ => false

/-- Kiln invalidates every mapping of an imported range. -/
def State.unmapImport (s : State) (i : Import) : State :=
  let s1 := i.maps.foldl (fun (s : State) m =>
    let n := ((s.leafAt m.1 m.2).map fun l => leafSize l.2.1 l.2.2).getD 4096
    (s.mapLeaf m.1 m.2 (withBit · 0 false)).dropTlb m.1 m.2 n) s
  { s1 with imports := s1.imports.map fun j => if j = i then { j with recalled := true, maps := [] } else j }

/-- RECALL: the mappings go, and the acknowledgement waits for the accesses translated through the range. -/
def execRecall (port g : Nat) (s : State) : Out :=
  s.up fun s => match s.imports.find? (s.importNum port g) with
    | none => s.control port 4 (leBytes 1 g)
    | some i =>
      let waits := (s.queue.filter (s.through i ·)).map (·.id)
      let s1 := s.unmapImport i
      { s1 with invals := s1.invals ++ [⟨0, 0, 0, waits, some (port, g)⟩] }

/-- Invalidations that wait for nothing are complete; one of a recall is acknowledged. -/
def State.finishInvals (s : State) : State :=
  let done := s.invals.filter (·.waits.isEmpty)
  let s1 := { s with invals := s.invals.filter fun v => !v.waits.isEmpty }
  done.foldl (fun (s : State) v => match v.grant with
    | some (port, g) => { s with imports := s.imports.filter fun i => !s.importNum port g i }.control port 4 (leBytes 1 g)
    | none => s) s1

/-- RECALL_ACKNOWLEDGEMENT: the entry is free. -/
def execRecallAcknowledgement (port g : Nat) (s : State) : Out :=
  s.up fun s =>
    let e := get s.grants Grant.start g
    if e.state = .recalling && e.chip = (s.port port).chip then { s with grants := erase s.grants g } else s

/-- 100 ms of the reference clock. -/
def recallLimit : Nat := 240000000

/-- RECALL_TIMEOUT: without an acknowledgement for 100 ms the entry is quarantined. -/
def execRecallTimeout (g : Nat) (s : State) : Out :=
  s.up fun s =>
    let e := get s.grants Grant.start g
    if e.state = .recalling && e.recallGc + recallLimit ≤ s.gcyc then { s with grants := put s.grants g { e with state := .quarantined } }
    else s

/-! ### Failures of links (23 R342, R348) -/

/-- A peer has failed, or no port to it is left: its grants are quarantined, what it exported is unmapped, and accesses to its
frames are refused with reason 1. -/
def State.losePeer (s : State) (chip : Nat) : State :=
  let lost (g : Grant) : Grant :=
    if g.chip = chip && (g.state = .granted || g.state = .recalling) then { g with state := .quarantined } else g
  let s1 := { s with
    grants := mapVals s.grants fun _ g => lost g
    ports := mapVals s.ports fun _ p => if p.chip = chip then { p with requests := [] } else p }
  let s2 := (s1.imports.filter fun i => (s1.port i.port).chip = chip).foldl State.unmapImport s1
  s2.queue.foldl (fun (s : State) a => match a.target with
    | .peer c _ => if c = chip then s.refused a 1 else s
    | _ => s) s2

/-- PEER_FAILURE. -/
def execPeerFailure (chip : Nat) (s : State) : Out := s.up (·.losePeer chip)

/-- Accesses of outstanding requests whose last flit is among some flits. -/
def Port.accessesOf (p : Port) (l : List SentFlit) : List Nat :=
  (p.requests.filter fun r => l.any (·.seq = r.seq)).map (·.access)

/-- Accesses a flit of whose request is sent again (23 R341). -/
def State.markRetried (s : State) (ids : List Nat) : State :=
  { s with queue := s.queue.map fun a => if ids.contains a.id then { a with retried := true } else a }

/-- The channel, kind and payload of a flit that has been sent. -/
def SentFlit.content (f : SentFlit) : Nat × Nat × List Byte :=
  match readFlit f.bytes with
  | some x => (x.chan, x.kind, x.payload)
  | none => (0, 0, [])

/-- The flits of a port that the far end has not received: how many of the first of those it has not acknowledged it had received is
left open (log 86). -/
def State.unreceived (s : State) (port : Nat) : List SentFlit × State :=
  let (n, s1) := s.free
  ((s.port port).replay.drop (n % ((s.port port).replay.length + 1)), s1)

/-- What a port that has gone down had still to send goes to another port of the chip, with the requests that wait for an answer; bytes
of a message that it had begun to receive go on there too (23 R341, R342; log 86). -/
def State.moveTraffic (s : State) (port other : Nat) : State :=
  let (left, s1) := s.unreceived port
  let p := s.port port
  let ids := p.requests.map RemoteReq.access
  let s2 : State := s1.markRetried (p.accessesOf left)
  let goes (a : QAcc) : QAcc := if ids.contains a.id then { a with remote := some other } else a
  let s3 := { s2 with queue := s2.queue.map goes }
  let s4 := s3.setPort other fun q =>
    let r := (left.map SentFlit.content ++ p.outbox).foldl (fun (q : Port) f => q.sendFlit f.1 f.2.1 f.2.2) q
    { r with
      requests := r.requests ++ p.requests
      tainted := (r.tainted ++ p.tainted).eraseDups
      carry := (p.rxBuf.filter (!·.2.isEmpty)).foldl
        (fun (m : SMap (List Byte × List Byte)) e => put m e.1 (e.2, get p.rxTables trainTable e.1)) r.carry }
  s4.setPort port fun q => { q with requests := [], replay := [], outbox := [], rxBuf := [], tainted := [] }

/-- LANE_REMOVAL: with four lanes left the port retrains for at most 20 µs; with fewer it goes down. -/
def execLaneRemoval (port lane : Nat) (s : State) : Out :=
  s.up fun s =>
    let p := s.port port
    let lanes := p.lanes.filter (· ≠ lane)
    if !p.up || lanes = p.lanes then s
    else if 4 ≤ lanes.length then
      let (n, s1) := s.free
      s1.setPort port fun p => { p with lanes := lanes, retrain := some (s.gcyc + n % 48001) }
    else
      let s1 := s.setPort port fun p => { p with lanes := lanes, up := false, retrain := none }
      match s1.portTo p.chip with
      | some other => s1.moveTraffic port other
      | none => s1.losePeer p.chip

/-- RETRAIN_COMPLETE: the flits of the replay buffer go out again, from the exponent tables as they stood at the first of them; what
comes in goes on where it was (23 R342, R343). -/
def execRetrainComplete (port : Nat) (s : State) : Out :=
  s.up fun s =>
    let p := s.port port
    match p.retrain with
    | none => s
    | some due =>
      if s.gcyc < due then s
      else (s.markRetried (p.accessesOf p.replay)).setPort port fun p =>
        { p with retrain := none, txTables := (p.replay.head?.map (·.tables)).getD p.txTables }

/-- LINK_RESET: quarantined entries of the peer are free, and the link is trained afresh; flits that the far end has not received go out
again, and requests wait on for their answers (23 R341, R346; log 86). -/
def execLinkReset (port : Nat) (s : State) : Out :=
  s.up fun s =>
    let p := s.port port
    let (left, s1) := s.unreceived port
    let s2 := s1.markRetried (p.accessesOf left)
    let fresh : Port := { trainedPort port with
      chip := p.chip, lanes := p.lanes, up := 4 ≤ p.lanes.length, requests := p.requests, nextTag := p.nextTag
      rxBuf := p.rxBuf, tainted := p.tainted, carry := p.carry }
    let again := (left.map SentFlit.content ++ p.outbox).foldl (fun (q : Port) f => q.sendFlit f.1 f.2.1 f.2.2) fresh
    { s2.setPort port fun _ => again with
      grants := s2.grants.filter fun e => !(e.2.chip = p.chip && e.2.state = .quarantined) }

/-! ### Receiving (23 R341, R343, R344) -/

/-- One message of a channel. -/
def State.handle (s : State) (port chan : Nat) (m : Message) : State :=
  match m.op with
  | 1 => after (execReadRequest port chan m s) s
  | 2 => after (execWriteRequest port chan m s) s
  | 3 => after (execAtomicRequest port chan m s) s
  | 4 => after (execReadResponse port chan m s) s
  | 5 => after (execWriteAcknowledgement port chan m s) s
  | 6 => after (execAtomicResponse port chan m s) s
  | _ => s

/-- Where a channel stands between two messages, bytes of a message that began on another port may go on there: whether they do, at this
flit, is left open (log 86). -/
def State.carryOn (s : State) (port chan : Nat) : State :=
  let p := s.port port
  match find? p.carry chan with
  | none => s
  | some (l, t) =>
    let (n, s1) := s.free
    if (get p.rxBuf [] chan).isEmpty && n % 2 = 1 then
      s1.setPort port fun p => { p with
        rxBuf := put p.rxBuf chan l, rxTables := put p.rxTables chan t, carry := erase p.carry chan }
    else s1

/-- Every whole message in a channel's bytes, with fuel for their number.  Those after the first lie in the flit that has just come
alone: they count a retry only if that flit had been sent before, `bad`. -/
def State.takeMessages (s : State) (port chan : Nat) (bad : Bool) : Nat → State
  | 0 => s
  | k + 1 =>
    let p := s.port port
    match readMessage (get p.rxTables trainTable chan) (get p.rxBuf [] chan) with
    | none => s
    | some (m, t, rest) =>
      let s1 := (s.setPort port fun p => { p with rxTables := put p.rxTables chan t, rxBuf := put p.rxBuf chan rest }).handle port chan m
      let others (p : Port) : List Nat := p.tainted.filter (· ≠ chan)
      (s1.setPort port fun p => { p with tainted := if bad && !rest.isEmpty then chan :: others p else others p }).takeMessages port chan
        bad k

/-- A control flit. -/
def State.controlFlit (s : State) (port kind : Nat) (l : List Byte) : State :=
  let h := leNat (l.take 4)
  match kind with
  | 2 => after (execGrant port ⟨h % 256, h / 2 ^ 8 % 2 = 1, h / 2 ^ 9 % 2 = 1, leNat ((l.drop 4).take 4), leNat ((l.drop 8).take 4)⟩ s) s
  | 3 => after (execRecall port (h % 256) s) s
  | 4 => after (execRecallAcknowledgement port (h % 256) s) s
  | 5 => after (execNack port (h % 2 ^ 16) (h / 2 ^ 16 % 16) (h / 2 ^ 20 % 16) s) s
  | _ => s

/-- Flits up to the last one acknowledged leave the replay buffer, and those that wait for room go out. -/
def Port.acknowledge (p : Port) (ack : Nat) : Port :=
  match p.replay.findIdx? fun f => f.seq = ack with
  | some i => { p with replay := p.replay.drop (i + 1), acked := ack }.drainOutbox
  | none => p

/-- A flit is discarded: it, and those before it that have still to come, are sent again.  The place of a flit whose CRC fails is taken
from its SEQ (log 141). -/
def Port.discard (p : Port) (seq : Nat) : Port :=
  let ahead := (seq + 4096 - p.rxSeq) % 4096
  if ahead < 2048 then { p with rxRetry := max p.rxRetry (ahead + 1) } else p

/-- FLIT_RECEIVE: a flit is delivered in order, or discarded to come again. -/
def execFlitReceive (port : Nat) (flit : List Byte) (s : State) : Out :=
  s.up fun s =>
    let p := s.port port
    if !p.up || p.retrain.isSome then s
    else match readFlit flit with
      | none => s.setPort port (·.discard (leNat (flit.take 2) % 4096))
      | some f =>
        if f.seq ≠ p.rxSeq then s.setPort port (·.discard f.seq)
        else
          let bad := 0 < p.rxRetry
          let s1 := s.setPort port fun p => { p.acknowledge f.ack with
            rxSeq := (f.seq + 1) % 4096
            rxRetry := p.rxRetry - 1
            tainted := if bad && !p.tainted.contains f.chan then f.chan :: p.tainted else p.tainted }
          if f.kind = 1 then
            let s2 := s1.carryOn port f.chan
            let buf := get (s2.port port).rxBuf [] f.chan ++ f.payload
            (s2.setPort port fun p => { p with rxBuf := put p.rxBuf f.chan buf }).takeMessages port f.chan bad (buf.length / 16 + 1)
          else (s1.controlFlit port f.kind f.payload).setPort port fun p => { p with tainted := p.tainted.filter (· ≠ 0) }

end Sys2Proof.Machine
end

