-- ==== Sys2Proof/Machine/RowX.lean ====
section
/-!
DEFINITION. Class ROWX: conversions, immediate forms, cursors, lanes and the tile map (06 R113 to R119, R130 to R132;
05 R103, R107).
-/

namespace Sys2Proof.Machine

/-- VCVT (05 R104): each lane converted from a source format to ELEM. -/
def execVcvt (d a : BitVec 6) (f : BitVec 4) (e : BitVec 1) (p : BitVec 4) (x : Ext) (s : State) : Out :=
  let sf := f.toNat
  let m := s.modes
  let (ra, s1) := s.readRow a x sf
  .next (if sf = 9 && hasPoison (s.mask p) ra then s.fail poisonFail
    else s1.writeRow d 4 (s.mask p) (rowOf fun l =>
      extend s.elem (convert m s.elem (e = 0) (valueOf sf m.flush (elemOf sf (lane ra l))))))

/-- An integer in ELEM: wrapped in integer formats, rounded with saturation in floating ones (06 R130). -/
def splatLane (m : Modes) (e : Nat) (v : Int) : Lane :=
  if isIntFmt e then intLane e v else extend e (toFloat m e true (ofInteger v))

/-- VSPLAT (06 R130): the immediate in every written lane. -/
def execVsplat (d i : BitVec 6) (p : BitVec 4) (x : Ext) (s : State) : Out :=
  .next (if !admits true true false s.elem then s.fail formatFail
    else s.writeRow d 2 (s.mask p) (List.replicate 128 (splatLane s.modes s.elem (immS x i))))

/-- VIOTA (06 R130): the immediate plus the lane number. -/
def execViota (d i : BitVec 6) (p : BitVec 4) (x : Ext) (s : State) : Out :=
  .next (if !admits true true false s.elem then s.fail formatFail
    else s.writeRow d 2 (s.mask p) (rowOf fun l => splatLane s.modes s.elem (immS x i + l)))

/-- VSPLATS (06 R131): the integer in s[a], signed or unsigned, converted to ELEM in every written lane. -/
def execVsplats (d : BitVec 6) (e u : BitVec 1) (p : BitVec 4) (x : Ext) (s : State) : Out :=
  let w := s.me.reg (extReg x)
  let v : Int := if u = 1 then w.toNat else w.toInt
  .next (if !admits true true false s.elem then s.fail formatFail
    else s.writeRow d 4 (s.mask p) (List.replicate 128 (extend s.elem (convert s.modes s.elem (e = 0) (ofInteger v)))))

/-- VADDI (06 R130): A + imm, modulo 2^w. -/
def execVaddi (d a i : BitVec 6) (p : BitVec 4) (x : Ext) (s : State) : Out :=
  s.row1 (admits true false false) 2 (fun _ e l => intLane e (laneInt e l + immS (rowImm a x) i)) d a p x

/-- VSHLI (06 R130): A left by imm. -/
def execVshli (d a i : BitVec 6) (p : BitVec 4) (x : Ext) (s : State) : Out :=
  s.row1 (admits true false false) 2 (fun _ e l => shlElem e l (immU (rowImm a x) i)) d a p x

/-- VSHRI (06 R130): A right by imm, zeros in. -/
def execVshri (d a i : BitVec 6) (p : BitVec 4) (x : Ext) (s : State) : Out :=
  s.row1 (admits true false false) 2 (fun _ e l => shrElem e l (immU (rowImm a x) i)) d a p x

/-- VCUR (06 R118): set a cursor. -/
def execVcur (c : BitVec 3) (t : BitVec 7) (r : BitVec 4) (sc : BitVec 2) (s : State) : Out :=
  .next (s.issue 0 (.cursor c.toNat ⟨t, r, sc⟩))

/-- VCURS (06 R119): set a cursor from an image in s[a]. -/
def execVcurs (d : BitVec 6) (x : Ext) (s : State) : Out :=
  let v := s.me.reg (extReg x)
  .next (if 79 < bits v 0 7 then s.fail { cause := 9, sub := 4 }
    else s.issue 0 (.cursor (d.toNat % 8) ⟨BitVec.ofNat 7 (bits v 0 7), BitVec.ofNat 4 (bits v 8 4), BitVec.ofNat 2 (bits v 12 2)⟩))

/-- VEXTR (06 R132): A[lane] in lane 0, extended (05 R91), zero in the others. -/
def execVextr (d a l : BitVec 6) (p : BitVec 4) (x : Ext) (s : State) : Out :=
  let (ra, s1) := s.readRow a x s.elem
  .next (if s.elem = 9 then s.fail formatFail
    else s1.writeRow d 3 (s.mask p) (rowOf fun i => if i = 0 then sameElem s.elem (lane ra (immU (rowImm a x) l)) else 0))

/-- VINSR (06 R132): lane 0 of A, extended (05 R91), into one lane of the cursor's row, if pk selects that lane. -/
def execVinsr (d a l : BitVec 6) (p : BitVec 4) (x : Ext) (s : State) : Out :=
  let n := immU (rowImm a x) l
  let (ra, s1) := s.readRow a x s.elem
  .next (if s.elem = 9 then s.fail formatFail
    else s1.writeRow d 3 (predOf fun i => i = n && laneOn (s.mask p) i) (List.replicate 128 (sameElem s.elem (lane ra 0))))

/-- TALLOC (06 R113): the allocated set becomes t0 to t(n - 1); a shrink is refused. -/
def execTalloc (n : BitVec 6) (x : Ext) (s : State) : Out :=
  .next (if s.me.tallocmap.toNat / 2 ^ immU x n ≠ 0 then s.fail { cause := 9, sub := 2 } else s.issue 0 (.talloc (immU x n)))

/-- TREL (06 R114): release an allocated tile. -/
def execTrel (k : BitVec 6) (x : Ext) (s : State) : Out :=
  .next (match s.me.tileFail (immU x k) with
    | some e => s.fail e
    | none => s.issue 0 (.trel (immU x k)))

/-- TZERO (06 R115): zero to all 16 rows of an allocated tile at n + 2. -/
def execTzero (k : BitVec 6) (x : Ext) (s : State) : Out :=
  .next (match s.me.tileFail (immU x k) with
    | some e => s.fail e
    | none => (List.range 16).foldl (fun s r => s.issue 2 (.tileRow (immU x k) r ones Row.zero)) s)

/-- Digit k of the balanced-ternary form of an integer, as a trit (05 R106). -/
def tritDigit (v : Int) : Nat → Nat
  | 0 => if v % 3 = 2 then 3 else (v % 3).toNat
  | k + 1 => tritDigit ((v - (if v % 3 = 2 then -1 else v % 3)) / 3) k

/-- VTRIT (05 R107): digit k of each element, clamped to ±364. -/
def execVtrit (d a k : BitVec 6) (p : BitVec 4) (x : Ext) (s : State) : Out :=
  s.row1 (admits true false false) 2 (fun _ e l => BitVec.ofNat 32 (tritDigit (clamp (-364) 364 (laneInt e l)) k.toNat)) d a p x

end Sys2Proof.Machine
end

