-- ==== Sys2Proof/Machine/Scalar.lean ====
section
/-!
DEFINITION. Classes SCAL and SIMM: scalar arithmetic, predicates, immediates (04 R70 to R73).
-/

namespace Sys2Proof.Machine

/-- Whether a SCAL slot's gate is open: lane 0 of its predicate, inverted by mod bit 0 (04 R67). -/
def State.gate (s : State) (p : BitVec 4) (i : BitVec 1) : Bool := laneOn (s.me.pred p.toNat) 0 != decide (i = 1)

/-- A gated slot: its effect if the gate is open, else nothing (04 R70). -/
def State.gated (s : State) (p : BitVec 4) (i : BitVec 1) (t : State) : Out := .next (if s.gate p i then t else s)

/-- A gated operation on s[a] and s[b] with a latency. -/
def State.scal2 (s : State) (lat : Nat) (f : Word → Word → Word) (d a b : BitVec 5) (p : BitVec 4) (i : BitVec 1) : Out :=
  s.gated p i (s.writeScalar lat d (f (s.me.reg a.toNat) (s.me.reg b.toNat)))

/-- A gated operation on s[a]. -/
def State.scal1 (s : State) (f : Word → Word) (d a : BitVec 5) (p : BitVec 4) (i : BitVec 1) : Out :=
  s.gated p i (s.writeScalar 1 d (f (s.me.reg a.toNat)))

/-- An operation on s[a] and a sign-extended immediate. -/
def State.simm (s : State) (lat : Nat) (f : Word → Word → Word) (d a : BitVec 5) (i : BitVec 12) (x : Ext) : Out :=
  .next (s.writeScalar lat d (f (s.me.reg a.toNat) (BitVec.ofInt 64 (immS x i))))

/-- The slot being run writes all lanes of a predicate at n + 1; p0 is written by nothing (04 R66, R73). -/
def State.writeWholePred (s : State) (d : BitVec 5) (v : Pred) : State :=
  if d = 0 then s else s.issue 1 (.pred d.toNat ones v)

/-- Every lane the same. -/
def allLanes (b : Bool) : Pred := if b then ones else 0

/-- A gated comparison into a predicate. -/
def State.scalCmp (s : State) (f : Word → Word → Bool) (d a b : BitVec 5) (p : BitVec 4) (i : BitVec 1) : Out :=
  s.gated p i (s.writeWholePred d (allLanes (f (s.me.reg a.toNat) (s.me.reg b.toNat))))

/-- A gated predicate operation. -/
def State.pred2 (s : State) (f : Pred → Pred → Pred) (d a b : BitVec 5) (p : BitVec 4) (i : BitVec 1) : Out :=
  s.gated p i (s.writeWholePred d (f (s.me.pred a.toNat) (s.me.pred b.toNat)))

/-- A comparison with an immediate into a predicate. -/
def State.simmCmp (s : State) (f : Word → Word → Bool) (d a : BitVec 5) (v : Word) : Out :=
  .next (s.writeWholePred d (allLanes (f (s.me.reg a.toNat) v)))

/-! ### The operations (04 R70) -/

/-- ADDW, SUBW: the low 32 bits sign-extended. -/
def sext32 (v : Word) : Word := (v.truncate 32).signExtend 64

/-- Bits [127:64] of the signed product. -/
def mulHigh (a b : Word) : Word := BitVec.ofInt 64 (a.toInt * b.toInt / ((2 ^ 64 : Nat) : Int))

/-- Bits [127:64] of the unsigned product. -/
def mulHighU (a b : Word) : Word := BitVec.ofNat 64 (a.toNat * b.toNat / 2 ^ 64)

/-- Signed quotient toward zero; all ones for B = 0; the wrap of -2^63 / -1 is -2^63. -/
def divS (a b : Word) : Word := if b = 0 then BitVec.allOnes 64 else BitVec.ofInt 64 (Int.tdiv a.toInt b.toInt)

/-- Remainder with the dividend's sign; A for B = 0. -/
def remS (a b : Word) : Word := if b = 0 then a else BitVec.ofInt 64 (Int.tmod a.toInt b.toInt)

def divU (a b : Word) : Word := if b = 0 then BitVec.allOnes 64 else BitVec.ofNat 64 (a.toNat / b.toNat)
def remU (a b : Word) : Word := if b = 0 then a else BitVec.ofNat 64 (a.toNat % b.toNat)

def shl (a b : Word) : Word := a <<< (b.toNat % 64)
def shr (a b : Word) : Word := a >>> (b.toNat % 64)
def sra (a b : Word) : Word := a.sshiftRight (b.toNat % 64)
def minS (a b : Word) : Word := if a.toInt ≤ b.toInt then a else b
def maxS (a b : Word) : Word := if a.toInt ≤ b.toInt then b else a
def minU (a b : Word) : Word := if a.toNat ≤ b.toNat then a else b
def maxU (a b : Word) : Word := if a.toNat ≤ b.toNat then b else a

def ltS (a b : Word) : Bool := a.toInt < b.toInt
def ltU (a b : Word) : Bool := a.toNat < b.toNat

/-! ### Class SCAL -/

/-- NOP (02 R32): nothing. -/
def execNop (s : State) : Out := .next s

/-- ADD (04 R70): A + B. -/
def execAdd (d a b : BitVec 5) (p : BitVec 4) (i : BitVec 1) (s : State) : Out := s.scal2 1 (· + ·) d a b p i

/-- SUB (04 R70): A - B. -/
def execSub (d a b : BitVec 5) (p : BitVec 4) (i : BitVec 1) (s : State) : Out := s.scal2 1 (· - ·) d a b p i

/-- ADDW (04 R70): the 32-bit sum, sign-extended. -/
def execAddw (d a b : BitVec 5) (p : BitVec 4) (i : BitVec 1) (s : State) : Out := s.scal2 1 (fun a b => sext32 (a + b)) d a b p i

/-- SUBW (04 R70): the 32-bit difference, sign-extended. -/
def execSubw (d a b : BitVec 5) (p : BitVec 4) (i : BitVec 1) (s : State) : Out := s.scal2 1 (fun a b => sext32 (a - b)) d a b p i

/-- MUL (04 R70): the low product. -/
def execMul (d a b : BitVec 5) (p : BitVec 4) (i : BitVec 1) (s : State) : Out := s.scal2 3 (· * ·) d a b p i

/-- MULH (04 R70): the high signed product. -/
def execMulh (d a b : BitVec 5) (p : BitVec 4) (i : BitVec 1) (s : State) : Out := s.scal2 3 mulHigh d a b p i

/-- MULHU (04 R70): the high unsigned product. -/
def execMulhu (d a b : BitVec 5) (p : BitVec 4) (i : BitVec 1) (s : State) : Out := s.scal2 3 mulHighU d a b p i

/-- DIV (04 R70): the signed quotient, 16 dc for all operands. -/
def execDiv (d a b : BitVec 5) (p : BitVec 4) (i : BitVec 1) (s : State) : Out := s.scal2 16 divS d a b p i

/-- DIVU (04 R70): the unsigned quotient. -/
def execDivu (d a b : BitVec 5) (p : BitVec 4) (i : BitVec 1) (s : State) : Out := s.scal2 16 divU d a b p i

/-- REM (04 R70): the signed remainder. -/
def execRem (d a b : BitVec 5) (p : BitVec 4) (i : BitVec 1) (s : State) : Out := s.scal2 16 remS d a b p i

/-- REMU (04 R70): the unsigned remainder. -/
def execRemu (d a b : BitVec 5) (p : BitVec 4) (i : BitVec 1) (s : State) : Out := s.scal2 16 remU d a b p i

/-- AND (04 R70): bitwise and. -/
def execAnd (d a b : BitVec 5) (p : BitVec 4) (i : BitVec 1) (s : State) : Out := s.scal2 1 (· &&& ·) d a b p i

/-- OR (04 R70): bitwise or. -/
def execOr (d a b : BitVec 5) (p : BitVec 4) (i : BitVec 1) (s : State) : Out := s.scal2 1 (· ||| ·) d a b p i

/-- XOR (04 R70): bitwise exclusive or. -/
def execXor (d a b : BitVec 5) (p : BitVec 4) (i : BitVec 1) (s : State) : Out := s.scal2 1 (· ^^^ ·) d a b p i

/-- ANDN (04 R70): A & ~B. -/
def execAndn (d a b : BitVec 5) (p : BitVec 4) (i : BitVec 1) (s : State) : Out := s.scal2 1 (fun a b => a &&& ~~~b) d a b p i

/-- SHL (04 R70): left by B[5:0]. -/
def execShl (d a b : BitVec 5) (p : BitVec 4) (i : BitVec 1) (s : State) : Out := s.scal2 1 shl d a b p i

/-- SHR (04 R70): right by B[5:0], zeros in. -/
def execShr (d a b : BitVec 5) (p : BitVec 4) (i : BitVec 1) (s : State) : Out := s.scal2 1 shr d a b p i

/-- SRA (04 R70): right by B[5:0], signs in. -/
def execSra (d a b : BitVec 5) (p : BitVec 4) (i : BitVec 1) (s : State) : Out := s.scal2 1 sra d a b p i

/-- MIN (04 R70): the signed minimum. -/
def execMin (d a b : BitVec 5) (p : BitVec 4) (i : BitVec 1) (s : State) : Out := s.scal2 1 minS d a b p i

/-- MAX (04 R70): the signed maximum. -/
def execMax (d a b : BitVec 5) (p : BitVec 4) (i : BitVec 1) (s : State) : Out := s.scal2 1 maxS d a b p i

/-- MINU (04 R70): the unsigned minimum. -/
def execMinu (d a b : BitVec 5) (p : BitVec 4) (i : BitVec 1) (s : State) : Out := s.scal2 1 minU d a b p i

/-- MAXU (04 R70): the unsigned maximum. -/
def execMaxu (d a b : BitVec 5) (p : BitVec 4) (i : BitVec 1) (s : State) : Out := s.scal2 1 maxU d a b p i

/-- CLZ (04 R70). -/
def execClz (d a : BitVec 5) (p : BitVec 4) (i : BitVec 1) (s : State) : Out :=
  s.scal1 (fun v => BitVec.ofNat 64 (clzOf 64 v.toNat)) d a p i

/-- POPC (04 R70). -/
def execPopc (d a : BitVec 5) (p : BitVec 4) (i : BitVec 1) (s : State) : Out :=
  s.scal1 (fun v => BitVec.ofNat 64 (popcount 64 v.toNat)) d a p i

/-- SEL (04 R71): always executes; the predicate chooses. -/
def execSel (d a b : BitVec 5) (p : BitVec 4) (i : BitVec 1) (s : State) : Out :=
  .next (s.writeScalar 1 d (if s.gate p i then s.me.reg a.toNat else s.me.reg b.toNat))

/-- PEQ (04 R73): every lane := A = B. -/
def execPeq (d a b : BitVec 5) (p : BitVec 4) (i : BitVec 1) (s : State) : Out := s.scalCmp (fun a b => a == b) d a b p i

/-- PNE (04 R73): every lane := A ≠ B. -/
def execPne (d a b : BitVec 5) (p : BitVec 4) (i : BitVec 1) (s : State) : Out := s.scalCmp (fun a b => a != b) d a b p i

/-- PLT (04 R73): every lane := A < B, signed. -/
def execPlt (d a b : BitVec 5) (p : BitVec 4) (i : BitVec 1) (s : State) : Out := s.scalCmp ltS d a b p i

/-- PLTU (04 R73): every lane := A < B, unsigned. -/
def execPltu (d a b : BitVec 5) (p : BitVec 4) (i : BitVec 1) (s : State) : Out := s.scalCmp ltU d a b p i

/-- PAND (04 R73): a & b per lane. -/
def execPand (d a b : BitVec 5) (p : BitVec 4) (i : BitVec 1) (s : State) : Out := s.pred2 (· &&& ·) d a b p i

/-- POR (04 R73): a | b per lane. -/
def execPor (d a b : BitVec 5) (p : BitVec 4) (i : BitVec 1) (s : State) : Out := s.pred2 (· ||| ·) d a b p i

/-- PXOR (04 R73): a ^ b per lane. -/
def execPxor (d a b : BitVec 5) (p : BitVec 4) (i : BitVec 1) (s : State) : Out := s.pred2 (· ^^^ ·) d a b p i

/-- PANDN (04 R73): a & ~b per lane. -/
def execPandn (d a b : BitVec 5) (p : BitVec 4) (i : BitVec 1) (s : State) : Out := s.pred2 (fun a b => a &&& ~~~b) d a b p i

/-- PMOV (04 R73). -/
def execPmov (d a : BitVec 5) (p : BitVec 4) (i : BitVec 1) (s : State) : Out :=
  s.gated p i (s.writeWholePred d (s.me.pred a.toNat))

/-- PFROM (04 R73): lanes 0 to 63 from s[a], 64 to 127 from s[b]. -/
def execPfrom (d a b : BitVec 5) (p : BitVec 4) (i : BitVec 1) (s : State) : Out :=
  s.gated p i (s.writeWholePred d (s.me.reg b.toNat ++ s.me.reg a.toNat))

/-- SFROMP (04 R73): a half of a predicate into a scalar. -/
def execSfromp (d a : BitVec 5) (h : BitVec 1) (p : BitVec 4) (i : BitVec 1) (s : State) : Out :=
  s.gated p i (s.writeScalar 1 d (BitVec.ofNat 64 ((s.me.pred a.toNat).toNat / (if h = 1 then 2 ^ 64 else 1))))

/-! ### Class SIMM -/

/-- ADDI (04 R70): A + imm. -/
def execAddi (d a : BitVec 5) (i : BitVec 12) (x : Ext) (s : State) : Out := s.simm 1 (· + ·) d a i x

/-- ANDI (04 R70): A & imm. -/
def execAndi (d a : BitVec 5) (i : BitVec 12) (x : Ext) (s : State) : Out := s.simm 1 (· &&& ·) d a i x

/-- ORI (04 R70): A | imm. -/
def execOri (d a : BitVec 5) (i : BitVec 12) (x : Ext) (s : State) : Out := s.simm 1 (· ||| ·) d a i x

/-- XORI (04 R70): A ^ imm. -/
def execXori (d a : BitVec 5) (i : BitVec 12) (x : Ext) (s : State) : Out := s.simm 1 (· ^^^ ·) d a i x

/-- SHLI (04 R70): the shift by imm12[5:0]. -/
def execShli (d a : BitVec 5) (c : BitVec 6) (s : State) : Out :=
  .next (s.writeScalar 1 d (shl (s.me.reg a.toNat) (c.zeroExtend 64)))

/-- SHRI (04 R70): the shift by imm12[5:0]. -/
def execShri (d a : BitVec 5) (c : BitVec 6) (s : State) : Out :=
  .next (s.writeScalar 1 d (shr (s.me.reg a.toNat) (c.zeroExtend 64)))

/-- SRAI (04 R70): the shift by imm12[5:0]. -/
def execSrai (d a : BitVec 5) (c : BitVec 6) (s : State) : Out :=
  .next (s.writeScalar 1 d (sra (s.me.reg a.toNat) (c.zeroExtend 64)))

/-- LIM (04 R72): the sign-extended immediate. -/
def execLim (d : BitVec 5) (i : BitVec 17) (x : Ext) (s : State) : Out :=
  .next (s.writeScalar 1 d (BitVec.ofInt 64 (immS x i)))

/-- LIMH (04 R72): the destination shifted left by 25, the unsigned immediate below. -/
def execLimh (d : BitVec 5) (i : BitVec 17) (x : Ext) (s : State) : Out :=
  .next (s.writeScalar 1 d ((s.me.reg d.toNat <<< 25) ||| BitVec.ofNat 64 (immU x i)))

/-- PEQI (04 R73). -/
def execPeqi (d a : BitVec 5) (i : BitVec 12) (x : Ext) (s : State) : Out :=
  s.simmCmp (fun a b => a == b) d a (BitVec.ofInt 64 (immS x i))

/-- PLTI (04 R73). -/
def execPlti (d a : BitVec 5) (i : BitVec 12) (x : Ext) (s : State) : Out :=
  s.simmCmp ltS d a (BitVec.ofInt 64 (immS x i))

/-- PLTUI (04 R73): the immediate is zero-extended. -/
def execPltui (d a : BitVec 5) (i : BitVec 12) (x : Ext) (s : State) : Out :=
  s.simmCmp ltU d a (BitVec.ofNat 64 (immU x i))

/-- MULI (04 R70). -/
def execMuli (d a : BitVec 5) (i : BitVec 12) (x : Ext) (s : State) : Out := s.simm 3 (· * ·) d a i x

end Sys2Proof.Machine
end

