-- ==== Sys2Proof/Machine/System.lean ====
section
/-!
DEFINITION. Class SYS: traps, special registers, counters, twin compare, fences, the digest (04 R81 to R89).
-/

namespace Sys2Proof.Machine

/-- TRAP (04 R83): the program trap, with imm12 as its code. -/
def execTrap (i : BitVec 12) (s : State) : Out := .next (s.trap 3 0 fun tr => { tr with imm := i })

/-- BRK (04 R83): its bundle commits, then the domain stops before the next bundle with the breakpoint. -/
def execBrk (i : BitVec 12) (s : State) : Out := .next (s.issue 0 (.brk i))

/-- The clock-read event of a slot that reads GCYC (04 R82). -/
def State.clockRead (s : State) : State := s.issue 0 (.detc 0x0B)

/-- CSRR (04 R81): s[d] := CSR. -/
def execCsrr (d : BitVec 5) (c : BitVec 12) (s : State) : Out :=
  let s' := s.writeScalar 1 d (s.csrValue c.toNat)
  .next (if c = 0x004 then s'.clockRead else s')

/-- A new value of a special register that a CSR instruction may write (02 R31). -/
def State.writeCsr (s : State) (c : Nat) (v : Word) : State :=
  let new := csrMerge c (s.csrValue c) v
  match c with
  | 0x002 => s.issue 0 (.lc new)
  | 0x009 => s.issue 0 (.frptr new)
  | 0x00A => s.issue 0 (.twin new)
  | _ => s

/-- A CSR exchange: s[d] := old CSR, CSR := f(old, s[a]) (04 R81). -/
def State.csrSwap (s : State) (f : Word → Word → Word) (d a : BitVec 5) (c : BitVec 12) : Out :=
  let old := s.csrValue c.toNat
  .next ((s.writeScalar 1 d old).writeCsr c.toNat (f old (s.me.reg a.toNat)))

/-- CSRW (04 R81). -/
def execCsrw (d a : BitVec 5) (c : BitVec 12) (s : State) : Out := s.csrSwap (fun _ v => v) d a c

/-- CSRS (04 R81). -/
def execCsrs (d a : BitVec 5) (c : BitVec 12) (s : State) : Out := s.csrSwap (fun old v => old ||| v) d a c

/-- CSRC (04 R81). -/
def execCsrc (d a : BitVec 5) (c : BitVec 12) (s : State) : Out := s.csrSwap (fun old v => old &&& ~~~v) d a c

/-- RDCYC (04 R82): the dc of issue. -/
def execRdcyc (d : BitVec 5) (s : State) : Out := .next (s.writeScalar 1 d (BitVec.ofNat 64 s.dc))

/-- RDGCY (04 R82): GCYC at issue. -/
def execRdgcy (d : BitVec 5) (s : State) : Out := .next (s.writeScalar 1 d (BitVec.ofNat 64 s.gcyc)).clockRead

/-- RDWHL (04 R82): GCYC at issue, the wheel position in bits [11:0]. -/
def execRdwhl (d : BitVec 5) (s : State) : Out := .next (s.writeScalar 1 d (BitVec.ofNat 64 s.gcyc)).clockRead

/-- A twin comparison found a difference: counted, or the twin-mismatch trap (04 R84). -/
def State.twinDiffers (s : State) (n row lane : Nat) (a b : Word) : State :=
  if twinCount s.me.twin then s.issue 0 (.twin (twinAdd s.me.twin))
  else s.trap 0x14 0 fun tr => { tr with
    d7 := BitVec.ofNat 64 n, d8 := BitVec.ofNat 64 (row + lane * 2 ^ 8), d9 := a, d10 := b }

/-- TWINCMP (04 R84): s[a] against s[a + 16]. -/
def execTwincmp (a : BitVec 5) (s : State) : Out :=
  let x := s.me.reg a.toNat
  let y := s.me.reg (a.toNat + 16)
  .next (if twinEn s.me.twin && x ≠ y then s.twinDiffers a.toNat 0 0 x y else s)

/-- TWINCMP of tiles (04 R84): all of t[k] against t[k + 40], whatever is allocated. -/
def execTwincmpTile (k : BitVec 6) (s : State) : Out :=
  let c := s.me
  let diff := (List.range 16).findSome? fun row =>
    let x := c.tileRow k.toNat row
    let y := c.tileRow (k.toNat + 40) row
    (List.range 128).findSome? fun l => if lane x l = lane y l then none else some (row, l, lane x l, lane y l)
  let sram := (List.range 32).findSome? fun i => c.sramFail 0 (16 * (k.toNat + i / 16 * 40) + i % 16)
  .next (if !twinEn c.twin then s
    else match sram, diff with
      | some f, _ => s.fail f
      | none, some (row, l, x, y) => s.twinDiffers k.toNat row l (x.zeroExtend 64) (y.zeroExtend 64)
      | none, none => s)

/-- FENCE (04 R87): orders the core's queued accesses before it ahead of those after it. -/
def execFence (sc : BitVec 2) (s : State) : Out := .next (s.qFence .fence sc.toNat 0)

/-- FENCEC (04 R88): a fence whose completion writes s[d] := 0; s[d] is busy until then. -/
def execFencec (d : BitVec 5) (sc : BitVec 2) (s : State) : Out := .next (s.qFence .fencec sc.toNat d.toNat)

/-- SCFENCE (04 R89): a fence in the wheel's order; at sys scope it completes as FENCEC does. -/
def execScfence (d : BitVec 5) (sc : BitVec 2) (s : State) : Out :=
  .next (s.qFence .scfence sc.toNat (if sc = 3 then d.toNat else 0))

/-- DETN (04 R85): the sum of the counts of a code, or of all codes. -/
def execDetn (d : BitVec 5) (c : BitVec 8) (s : State) : Out :=
  let sum := total ((List.range 16).map fun i =>
    let e := get s.me.detc 0 i
    if c = 0 || bits e 0 8 = c.toNat then bits e 8 24 else 0)
  .next (s.writeScalar 1 d (BitVec.ofNat 64 sum))

/-- DGST (04 R86): s[d] := DGST, DGST := 0. -/
def execDgst (d : BitVec 5) (s : State) : Out := .next ((s.writeScalar 1 d s.me.dgst).issue 0 (.dgst true 0))

/-- DGST with a fold (04 R86): DGST := DGST + s[a]. -/
def execDgstFold (a : BitVec 5) (s : State) : Out := .next (s.issue 0 (.dgst false (s.me.reg a.toNat)))

end Sys2Proof.Machine
end

