-- ==== Sys2Proof/Machine/Dispatch.lean ====
section
/-!
DEFINITION. One arm for every instruction: its meaning, or rejected by name.
-/

namespace Sys2Proof.Machine

def exec (i : Instr) (s : State) : Host.Outcome State Fault Refusal :=
  match i with
  | .nop => Sys2Proof.Machine.execNop s
  | .add d a b p v => Sys2Proof.Machine.execAdd d a b p v s
  | .sub d a b p v => Sys2Proof.Machine.execSub d a b p v s
  | .addw d a b p v => Sys2Proof.Machine.execAddw d a b p v s
  | .subw d a b p v => Sys2Proof.Machine.execSubw d a b p v s
  | .mul d a b p v => Sys2Proof.Machine.execMul d a b p v s
  | .mulh d a b p v => Sys2Proof.Machine.execMulh d a b p v s
  | .mulhu d a b p v => Sys2Proof.Machine.execMulhu d a b p v s
  | .div d a b p v => Sys2Proof.Machine.execDiv d a b p v s
  | .divu d a b p v => Sys2Proof.Machine.execDivu d a b p v s
  | .rem d a b p v => Sys2Proof.Machine.execRem d a b p v s
  | .remu d a b p v => Sys2Proof.Machine.execRemu d a b p v s
  | .and d a b p v => Sys2Proof.Machine.execAnd d a b p v s
  | .or d a b p v => Sys2Proof.Machine.execOr d a b p v s
  | .xor d a b p v => Sys2Proof.Machine.execXor d a b p v s
  | .andn d a b p v => Sys2Proof.Machine.execAndn d a b p v s
  | .shl d a b p v => Sys2Proof.Machine.execShl d a b p v s
  | .shr d a b p v => Sys2Proof.Machine.execShr d a b p v s
  | .sra d a b p v => Sys2Proof.Machine.execSra d a b p v s
  | .min d a b p v => Sys2Proof.Machine.execMin d a b p v s
  | .max d a b p v => Sys2Proof.Machine.execMax d a b p v s
  | .minu d a b p v => Sys2Proof.Machine.execMinu d a b p v s
  | .maxu d a b p v => Sys2Proof.Machine.execMaxu d a b p v s
  | .clz d a p v => Sys2Proof.Machine.execClz d a p v s
  | .popc d a p v => Sys2Proof.Machine.execPopc d a p v s
  | .sel d a b p v => Sys2Proof.Machine.execSel d a b p v s
  | .peq d a b p v => Sys2Proof.Machine.execPeq d a b p v s
  | .pne d a b p v => Sys2Proof.Machine.execPne d a b p v s
  | .plt d a b p v => Sys2Proof.Machine.execPlt d a b p v s
  | .pltu d a b p v => Sys2Proof.Machine.execPltu d a b p v s
  | .pand d a b p v => Sys2Proof.Machine.execPand d a b p v s
  | .por d a b p v => Sys2Proof.Machine.execPor d a b p v s
  | .pxor d a b p v => Sys2Proof.Machine.execPxor d a b p v s
  | .pandn d a b p v => Sys2Proof.Machine.execPandn d a b p v s
  | .pmov d a p v => Sys2Proof.Machine.execPmov d a p v s
  | .pfrom d a b p v => Sys2Proof.Machine.execPfrom d a b p v s
  | .sfromp d a h p v => Sys2Proof.Machine.execSfromp d a h p v s
  | .addi d a v x => Sys2Proof.Machine.execAddi d a v x s
  | .andi d a v x => Sys2Proof.Machine.execAndi d a v x s
  | .ori d a v x => Sys2Proof.Machine.execOri d a v x s
  | .xori d a v x => Sys2Proof.Machine.execXori d a v x s
  | .shli d a c => Sys2Proof.Machine.execShli d a c s
  | .shri d a c => Sys2Proof.Machine.execShri d a c s
  | .srai d a c => Sys2Proof.Machine.execSrai d a c s
  | .lim d v x => Sys2Proof.Machine.execLim d v x s
  | .limh d v x => Sys2Proof.Machine.execLimh d v x s
  | .peqi d a v x => Sys2Proof.Machine.execPeqi d a v x s
  | .plti d a v x => Sys2Proof.Machine.execPlti d a v x s
  | .pltui d a v x => Sys2Proof.Machine.execPltui d a v x s
  | .muli d a v x => Sys2Proof.Machine.execMuli d a v x s
  | .br o => Sys2Proof.Machine.execBr o s
  | .brp p o => Sys2Proof.Machine.execBrp p o s
  | .brnp p o => Sys2Proof.Machine.execBrnp p o s
  | .call o => Sys2Proof.Machine.execCall o s
  | .ret => Sys2Proof.Machine.execRet s
  | .jr a v => Sys2Proof.Machine.execJr a v s
  | .loopi a sc b => Sys2Proof.Machine.execLoopi a sc b s
  | .loop o => Sys2Proof.Machine.execLoop o s
  | .waitc a v => Sys2Proof.Machine.execWaitc a v s
  | .fmtset c sc r o a e => Sys2Proof.Machine.execFmtset c sc r o a e s
  | .fmtget d => Sys2Proof.Machine.execFmtget d s
  | .halt => Sys2Proof.Machine.execHalt s
  | .trap v => Sys2Proof.Machine.execTrap v s
  | .csrr d c => Sys2Proof.Machine.execCsrr d c s
  | .csrw d a c => Sys2Proof.Machine.execCsrw d a c s
  | .csrs d a c => Sys2Proof.Machine.execCsrs d a c s
  | .csrc d a c => Sys2Proof.Machine.execCsrc d a c s
  | .rdcyc d => Sys2Proof.Machine.execRdcyc d s
  | .rdgcy d => Sys2Proof.Machine.execRdgcy d s
  | .rdwhl d => Sys2Proof.Machine.execRdwhl d s
  | .twincmp a => Sys2Proof.Machine.execTwincmp a s
  | .twincmpTile k => Sys2Proof.Machine.execTwincmpTile k s
  | .fence sc => Sys2Proof.Machine.execFence sc s
  | .fencec d sc => Sys2Proof.Machine.execFencec d sc s
  | .scfence d sc => Sys2Proof.Machine.execScfence d sc s
  | .brk v => Sys2Proof.Machine.execBrk v s
  | .detn d c => Sys2Proof.Machine.execDetn d c s
  | .dgst d => Sys2Proof.Machine.execDgst d s
  | .dgstFold a => Sys2Proof.Machine.execDgstFold a s
  | .vmov d a p x => Sys2Proof.Machine.execVmov d a p x s
  | .vadd d a b p x => Sys2Proof.Machine.execVadd d a b p x s
  | .vsub d a b p x => Sys2Proof.Machine.execVsub d a b p x s
  | .vmul d a b p x => Sys2Proof.Machine.execVmul d a b p x s
  | .vmac d a b p x => Sys2Proof.Machine.execVmac d a b p x s
  | .vadds d a b p x => Sys2Proof.Machine.execVadds d a b p x s
  | .vsubs d a b p x => Sys2Proof.Machine.execVsubs d a b p x s
  | .vmin d a b p x => Sys2Proof.Machine.execVmin d a b p x s
  | .vmax d a b p x => Sys2Proof.Machine.execVmax d a b p x s
  | .vabs d a p x => Sys2Proof.Machine.execVabs d a p x s
  | .vneg d a p x => Sys2Proof.Machine.execVneg d a p x s
  | .vand d a b p x => Sys2Proof.Machine.execVand d a b p x s
  | .vor d a b p x => Sys2Proof.Machine.execVor d a b p x s
  | .vxor d a b p x => Sys2Proof.Machine.execVxor d a b p x s
  | .vshl d a b p x => Sys2Proof.Machine.execVshl d a b p x s
  | .vshr d a b p x => Sys2Proof.Machine.execVshr d a b p x s
  | .vsra d a b p x => Sys2Proof.Machine.execVsra d a b p x s
  | .vmullo d a b p x => Sys2Proof.Machine.execVmullo d a b p x s
  | .vmulhi d a b p x => Sys2Proof.Machine.execVmulhi d a b p x s
  | .vpeq d a b p x => Sys2Proof.Machine.execVpeq d a b p x s
  | .vpne d a b p x => Sys2Proof.Machine.execVpne d a b p x s
  | .vplt d a b p x => Sys2Proof.Machine.execVplt d a b p x s
  | .vple d a b p x => Sys2Proof.Machine.execVple d a b p x s
  | .vsel d a b p x => Sys2Proof.Machine.execVsel d a b p x s
  | .vrcp d a p x => Sys2Proof.Machine.execVrcp d a p x s
  | .vrsq d a p x => Sys2Proof.Machine.execVrsq d a p x s
  | .vexp2 d a p x => Sys2Proof.Machine.execVexp2 d a p x s
  | .vlog2 d a p x => Sys2Proof.Machine.execVlog2 d a p x s
  | .vrsum d a p x => Sys2Proof.Machine.execVrsum d a p x s
  | .vrmax d a p x => Sys2Proof.Machine.execVrmax d a p x s
  | .vrmin d a p x => Sys2Proof.Machine.execVrmin d a p x s
  | .vperm d a b p x => Sys2Proof.Machine.execVperm d a b p x s
  | .vlsh d a b p x => Sys2Proof.Machine.execVlsh d a b p x s
  | .vbcst d a b p x => Sys2Proof.Machine.execVbcst d a b p x s
  | .vpopc d a p x => Sys2Proof.Machine.execVpopc d a p x s
  | .vclz d a p x => Sys2Proof.Machine.execVclz d a p x s
  | .vrint d a p x => Sys2Proof.Machine.execVrint d a p x s
  | .vcvt d a f e p x => Sys2Proof.Machine.execVcvt d a f e p x s
  | .vsplat d v p x => Sys2Proof.Machine.execVsplat d v p x s
  | .vsplats d e u p x => Sys2Proof.Machine.execVsplats d e u p x s
  | .vaddi d a v p x => Sys2Proof.Machine.execVaddi d a v p x s
  | .vshli d a v p x => Sys2Proof.Machine.execVshli d a v p x s
  | .vshri d a v p x => Sys2Proof.Machine.execVshri d a v p x s
  | .viota d v p x => Sys2Proof.Machine.execViota d v p x s
  | .vcur c t r sc => Sys2Proof.Machine.execVcur c t r sc s
  | .vcurs d x => Sys2Proof.Machine.execVcurs d x s
  | .vextr d a l p x => Sys2Proof.Machine.execVextr d a l p x s
  | .vinsr d a l p x => Sys2Proof.Machine.execVinsr d a l p x s
  | .talloc n x => Sys2Proof.Machine.execTalloc n x s
  | .trel k x => Sys2Proof.Machine.execTrel k x s
  | .tzero k x => Sys2Proof.Machine.execTzero k x s
  | .vtrit d a k p x => Sys2Proof.Machine.execVtrit d a k p x s
  | .wbfill sc w n x => Sys2Proof.Machine.execWbfill sc w n x s
  | .mldw w k => Sys2Proof.Machine.execMldw w k s
  | .mma z sc w k p n x => Sys2Proof.Machine.execMma z sc w k p n x s
  | .mmaz z sc w k p n x => Sys2Proof.Machine.execMmaz z sc w k p n x s
  | .mbmap sc w x => Sys2Proof.Machine.execMbmap sc w x s
  | .anorm z sc x => Sys2Proof.Machine.execAnorm z sc x s
  | .ard z d r e n => Sys2Proof.Machine.execArd z d r e n s
  | .awr z sc r g n x => Sys2Proof.Machine.execAwr z sc r g n x s
  | .aexpWrite z sc y x => Sys2Proof.Machine.execAexpWrite z sc y x s
  | .aexpRead z d y => Sys2Proof.Machine.execAexpRead z d y s
  | .agrd z d r m => Sys2Proof.Machine.execAgrd z d r m s
  | .azero z => Sys2Proof.Machine.execAzero z s
  | .mstat z d w c => Sys2Proof.Machine.execMstat z d w c s
  | .mwait z w sc => Sys2Proof.Machine.execMwait z w sc s
  | .hopen h t b a w x => Sys2Proof.Machine.execHopen h t b a w x s
  | .hclose h d => Sys2Proof.Machine.execHclose h d s
  | .hrd h o p => Sys2Proof.Machine.execHrd h o p s
  | .hwr h o p x => Sys2Proof.Machine.execHwr h o p x s
  | .hupd h o p x => Sys2Proof.Machine.execHupd h o p x s
  | .hstep h v x => Sys2Proof.Machine.execHstep h v x s
  | .hskip h x => Sys2Proof.Machine.execHskip h x s
  | .hmark h => Sys2Proof.Machine.execHmark h s
  | .hrwd h y => Sys2Proof.Machine.execHrwd h y s
  | .hdrop h => Sys2Proof.Machine.execHdrop h s
  | .hpos h d => Sys2Proof.Machine.execHpos h d s
  | .hrev h => Sys2Proof.Machine.execHrev h s
  | .hnew h t w x => Sys2Proof.Machine.execHnew h t w x s
  | .hseal h d => Sys2Proof.Machine.execHseal h d s
  | .hlease h t b w x => Sys2Proof.Machine.execHlease h t b w x s
  | .hfree t x => Sys2Proof.Machine.execHfree t x s
  | .hwait h d => Sys2Proof.Machine.execHwait h d s
  | .wset w a b => Sys2Proof.Machine.execWset w a b s
  | .wloop w a b v => Sys2Proof.Machine.execWloop w a b v s
  | .wrst w => Sys2Proof.Machine.execWrst w s
  | .kcopy sc d l t e => Sys2Proof.Machine.execKcopy sc d l t e s
  | .kcopyr sc d l t e => Sys2Proof.Machine.execKcopyr sc d l t e s
  | .kgath sc d l t e => Sys2Proof.Machine.execKgath sc d l t e s
  | .kscat sc d l t e => Sys2Proof.Machine.execKscat sc d l t e s
  | .kfill sc d l t e => Sys2Proof.Machine.execKfill sc d l t e s
  | .ktag a b => Sys2Proof.Machine.execKtag a b s
  | .kchk a b => Sys2Proof.Machine.execKchk a b s
  | .sld a d z => Sys2Proof.Machine.execSld a d z s
  | .sst a b z => Sys2Proof.Machine.execSst a b z s
  | .ltset a b => Sys2Proof.Machine.execLtset a b s
  | .kstat d e => Sys2Proof.Machine.execKstat d e s
  | .ld d b v z c sc x => Sys2Proof.Machine.execLd d b v z c sc x s
  | .st d b v z c sc x => Sys2Proof.Machine.execSt d b v z c sc x s
  | .lda d b v z c sc x => Sys2Proof.Machine.execLda d b v z c sc x s
  | .stl d b v z c sc x => Sys2Proof.Machine.execStl d b v z c sc x s
  | .ldv d b v z x => Sys2Proof.Machine.execLdv d b v z x s
  | .stv d b v z x => Sys2Proof.Machine.execStv d b v z x s
  | .amoadd d b v z c sc x => Sys2Proof.Machine.execAmoadd d b v z c sc x s
  | .amoand d b v z c sc x => Sys2Proof.Machine.execAmoand d b v z c sc x s
  | .amoor d b v z c sc x => Sys2Proof.Machine.execAmoor d b v z c sc x s
  | .amoxor d b v z c sc x => Sys2Proof.Machine.execAmoxor d b v z c sc x s
  | .amomin d b v z c sc x => Sys2Proof.Machine.execAmomin d b v z c sc x s
  | .amomax d b v z c sc x => Sys2Proof.Machine.execAmomax d b v z c sc x s
  | .amoswp d b v z c sc x => Sys2Proof.Machine.execAmoswp d b v z c sc x s
  | .amocas d b v z c sc x => Sys2Proof.Machine.execAmocas d b v z c sc x s
  | .vamoor d b v c x => Sys2Proof.Machine.execVamoor d b v c x s
  | .vamoadd d b v c x => Sys2Proof.Machine.execVamoadd d b v c x s
  | .barriv d b v c x => Sys2Proof.Machine.execBarriv d b v c x s
  | .barwait d b v c x => Sys2Proof.Machine.execBarwait d b v c x s
  | .barinit d b v c x => Sys2Proof.Machine.execBarinit d b v c x s
  | .sfbind d a y => Sys2Proof.Machine.execSfbind d a y s
  | .sfgo a b y => Sys2Proof.Machine.execSfgo a b y s
  | .sfstat d a sc => Sys2Proof.Machine.execSfstat d a sc s
  | .sfrel a => Sys2Proof.Machine.execSfrel a s
  | .sfmash a b => Sys2Proof.Machine.execSfmash a b s
  | .qdim a v => Sys2Proof.Machine.execQdim a v s
  | .qidx a b y => Sys2Proof.Machine.execQidx a b y s
  | .qstr a => Sys2Proof.Machine.execQstr a s
  | .qgen h f => Sys2Proof.Machine.execQgen h f s
  | .qgenv h f => Sys2Proof.Machine.execQgenv h f s
  | .qdir a j => Sys2Proof.Machine.execQdir a j s
  | .qscr a v => Sys2Proof.Machine.execQscr a v s
  | .qscrShift a => Sys2Proof.Machine.execQscrShift a s
  | .qsave d a b => Sys2Proof.Machine.execQsave d a b s
  | .qload d a b => Sys2Proof.Machine.execQload d a b s
  | .klaunch a y => Sys2Proof.Machine.execKlaunch a y s
  | .klaunchc a b y => Sys2Proof.Machine.execKlaunchc a b y s
  | .gsig a b => Sys2Proof.Machine.execGsig a b s
  | .qsync d => Sys2Proof.Machine.execQsync d s
  | .gprio a => Sys2Proof.Machine.execGprio a s
  | .garg d v => Sys2Proof.Machine.execGarg d v s
  | .boot inp => Sys2Proof.Machine.execBoot inp s
  | .imageFetch kind img => Sys2Proof.Machine.execImageFetch kind img s
  | .decodeTableReload die img => Sys2Proof.Machine.execDecodeTableReload die img s
  | .floorRequest post => Sys2Proof.Machine.execFloorRequest post s
  | .codeScan ctx va => Sys2Proof.Machine.execCodeScan ctx va s
  | .folioLoad folio => Sys2Proof.Machine.execFolioLoad folio s
  | .tlbInvalidation ctx va len => Sys2Proof.Machine.execTlbInvalidation ctx va len s
  | .contextDigestReport ctx => Sys2Proof.Machine.execContextDigestReport ctx s
  | .doorbellWrite fn tail => Sys2Proof.Machine.execDoorbellWrite fn tail s
  | .cqheadWrite fn head => Sys2Proof.Machine.execCqheadWrite fn head s
  | .registerWrite fn off val => Sys2Proof.Machine.execRegisterWrite fn off val s
  | .hostBar2Write fn va data => Sys2Proof.Machine.execHostBar2Write fn va data s
  | .hostBar2Read fn va len => Sys2Proof.Machine.execHostBar2Read fn va len s
  | .schedulerDecision => Sys2Proof.Machine.execSchedulerDecision s
  | .priorityAging => Sys2Proof.Machine.execPriorityAging s
  | .condNodeComplete id => Sys2Proof.Machine.execCondNodeComplete id s
  | .copyNodeComplete id => Sys2Proof.Machine.execCopyNodeComplete id s
  | .preemptFreeze t => Sys2Proof.Machine.execPreemptFreeze t s
  | .preemptSave t => Sys2Proof.Machine.execPreemptSave t s
  | .taskEndCloses t => Sys2Proof.Machine.execTaskEndCloses t s
  | .taskEnd t => Sys2Proof.Machine.execTaskEnd t s
  | .kernelNodeComplete t => Sys2Proof.Machine.execKernelNodeComplete t s
  | .nowLaunchArrival t id => Sys2Proof.Machine.execNowLaunchArrival t id s
  | .qsyncComplete t id => Sys2Proof.Machine.execQsyncComplete t id s
  | .wheelGroupIssue t => Sys2Proof.Machine.execWheelGroupIssue t s
  | .powerGateExit t => Sys2Proof.Machine.execPowerGateExit t s
  | .engineCommandStart t c e => Sys2Proof.Machine.execEngineCommandStart t c e s
  | .copyPerform t c e => Sys2Proof.Machine.execCopyPerform t c e s
  | .copySuspend t c e => Sys2Proof.Machine.execCopySuspend t c e s
  | .sequenceEnginePerform t c => Sys2Proof.Machine.execSequenceEnginePerform t c s
  | .timedWritePerform t id => Sys2Proof.Machine.execTimedWritePerform t id s
  | .walkerLeafWritePerform t id => Sys2Proof.Machine.execWalkerLeafWritePerform t id s
  | .wbfillComplete t c id => Sys2Proof.Machine.execWbfillComplete t c id s
  | .planeLoadComplete t c id => Sys2Proof.Machine.execPlaneLoadComplete t c id s
  | .mmaInputStart t c id => Sys2Proof.Machine.execMmaInputStart t c id s
  | .mmaRowPerform t c id => Sys2Proof.Machine.execMmaRowPerform t c id s
  | .accumulatorWritePerform t c id => Sys2Proof.Machine.execAccumulatorWritePerform t c id s
  | .tableOperationPerform t id => Sys2Proof.Machine.execTableOperationPerform t id s
  | .headCloseTableWrite t id => Sys2Proof.Machine.execHeadCloseTableWrite t id s
  | .headWritePerform t id => Sys2Proof.Machine.execHeadWritePerform t id s
  | .hwaitComplete t id => Sys2Proof.Machine.execHwaitComplete t id s
  | .headRefillFetch t => Sys2Proof.Machine.execHeadRefillFetch t s
  | .sfbindPerform t id => Sys2Proof.Machine.execSfbindPerform t id s
  | .streamRunPerform t c => Sys2Proof.Machine.execStreamRunPerform t c s
  | .sfrelPerform t id => Sys2Proof.Machine.execSfrelPerform t id s
  | .streamDeadlineFault t c e => Sys2Proof.Machine.execStreamDeadlineFault t c e s
  | .queuedLoadPerform id => Sys2Proof.Machine.execQueuedLoadPerform id s
  | .queuedWritePerform id => Sys2Proof.Machine.execQueuedWritePerform id s
  | .atomicPerform id => Sys2Proof.Machine.execAtomicPerform id s
  | .barrierPerform id => Sys2Proof.Machine.execBarrierPerform id s
  | .fencecComplete id => Sys2Proof.Machine.execFencecComplete id s
  | .scfenceComplete id => Sys2Proof.Machine.execScfenceComplete id s
  | .translationWalk id => Sys2Proof.Machine.execTranslationWalk id s
  | .faultServiceResume t resume => Sys2Proof.Machine.execFaultServiceResume t resume s
  | .serviceTimeout t => Sys2Proof.Machine.execServiceTimeout t s
  | .deviceFatal cause => Sys2Proof.Machine.execDeviceFatal cause s
  | .dumpExport => Sys2Proof.Machine.execDumpExport s
  | .floorRestart => Sys2Proof.Machine.execFloorRestart s
  | .timelineFill t ch w => Sys2Proof.Machine.execTimelineFill t ch w s
  | .timelineStream t ch w => Sys2Proof.Machine.execTimelineStream t ch w s
  | .timelineRefpb t ch w => Sys2Proof.Machine.execTimelineRefpb t ch w s
  | .timelineRefab t ch w => Sys2Proof.Machine.execTimelineRefab t ch w s
  | .forcedRefresh ch bank => Sys2Proof.Machine.execForcedRefresh ch bank s
  | .guardedModeEntry dram => Sys2Proof.Machine.execGuardedModeEntry dram s
  | .guardedRefresh t ch bank => Sys2Proof.Machine.execGuardedRefresh t ch bank s
  | .longStallPrecharge t => Sys2Proof.Machine.execLongStallPrecharge t s
  | .patrolScrub ch bank row found => Sys2Proof.Machine.execPatrolScrub ch bank row found s
  | .tierEviction => Sys2Proof.Machine.execTierEviction s
  | .flitReceive port flit => Sys2Proof.Machine.execFlitReceive port flit s
  | .laneRemoval port lane => Sys2Proof.Machine.execLaneRemoval port lane s
  | .readRequest port chan m => Sys2Proof.Machine.execReadRequest port chan m s
  | .writeRequest port chan m => Sys2Proof.Machine.execWriteRequest port chan m s
  | .atomicRequest port chan m => Sys2Proof.Machine.execAtomicRequest port chan m s
  | .readResponse port chan m => Sys2Proof.Machine.execReadResponse port chan m s
  | .writeAcknowledgement port chan m => Sys2Proof.Machine.execWriteAcknowledgement port chan m s
  | .atomicResponse port chan m => Sys2Proof.Machine.execAtomicResponse port chan m s
  | .grant port g => Sys2Proof.Machine.execGrant port g s
  | .recall port g => Sys2Proof.Machine.execRecall port g s
  | .recallAcknowledgement port g => Sys2Proof.Machine.execRecallAcknowledgement port g s
  | .recallTimeout g => Sys2Proof.Machine.execRecallTimeout g s
  | .nack port tag chan reason => Sys2Proof.Machine.execNack port tag chan reason s
  | .peerFailure chip => Sys2Proof.Machine.execPeerFailure chip s
  | .powerWindow sample => Sys2Proof.Machine.execPowerWindow sample s
  | .rateChange t k => Sys2Proof.Machine.execRateChange t k s
  | .clockSwallow t => Sys2Proof.Machine.execClockSwallow t s
  | .powerHold => Sys2Proof.Machine.execPowerHold s
  | .powerHoldEnd t => Sys2Proof.Machine.execPowerHoldEnd t s
  | .retrainComplete port => Sys2Proof.Machine.execRetrainComplete port s
  | .linkReset port => Sys2Proof.Machine.execLinkReset port s
  | .pageMoveComplete ctx va => Sys2Proof.Machine.execPageMoveComplete ctx va s
  | .allocationHintChange ctx va prio next => Sys2Proof.Machine.execAllocationHintChange ctx va prio next s
  | .copyReplayCaughtUp t c e => Sys2Proof.Machine.execCopyReplayCaughtUp t c e s
  | .completionQueueSetup ctx base size => Sys2Proof.Machine.execCompletionQueueSetup ctx base size s

end Sys2Proof.Machine
end

