-- ==== Sys2Proof/Machine/Schedule.lean ====
section
/-!
DEFINITION. The order of the machine's work: what comes in one period of the reference clock, and in one domain cycle (03 R46
to R55; 25, the order table).
-/

namespace Sys2Proof.Machine

/-! ### Tasks in order -/

/-- Tasks in the order of their first physical core. -/
def State.taskOrder (s : State) : List Nat := (sortBy (fun e => e.2.physCore 0 * 2 ^ 128 + e.1) s.tasks).map (·.1)

/-- Tasks of which something holds, in that order. -/
def State.tasksWhere (s : State) (p : Task → Bool) : List Nat := s.taskOrder.filter fun t => p (s.task t)

/-- Whether a task's domain is bound to its cores and may advance or stall. -/
def Task.live (k : Task) : Bool := k.status = .running || k.status = .service

/-! ### The period of the reference clock -/

/-- Rows of the table that come from outside the device: the host, the board, firmware, the far end of a link, a fault of the
hardware. -/
def fromOutside (i : Instr) : Bool :=
  match i with
  | .boot _ | .imageFetch _ _ | .decodeTableReload _ _ | .floorRequest _ | .codeScan _ _ | .folioLoad _ |
    .tlbInvalidation _ _ _ | .contextDigestReport _ | .doorbellWrite _ _ | .cqheadWrite _ _ |
    .registerWrite _ _ _ | .hostBar2Write _ _ _ | .hostBar2Read _ _ _ | .faultServiceResume _ _ | .deviceFatal _ |
    .dumpExport | .floorRestart | .guardedModeEntry _ | .patrolScrub _ _ _ _ | .flitReceive _ _ |
    .laneRemoval _ _ | .readRequest _ _ _ | .writeRequest _ _ _ | .atomicRequest _ _ _ | .readResponse _ _ _ |
    .writeAcknowledgement _ _ _ | .atomicResponse _ _ _ | .grant _ _ | .recall _ _ | .recallAcknowledgement _ _ |
    .nack _ _ _ _ | .peerFailure _ | .powerWindow _ | .linkReset _ | .allocationHintChange _ _ _ _ |
    .completionQueueSetup _ _ _ => true
  | _ => false

/-- Events from outside that are due, and the rest. -/
def State.dueEnv (s : State) : List Instr × List (Nat × Instr) :=
  ((s.env.takeWhile (·.1 ≤ s.gcyc)).map (·.2), s.env.dropWhile (·.1 ≤ s.gcyc))

/-- Patrol scrub, the last of the work of open slots (10 R205). -/
def isScrub : Instr → Bool
  | .patrolScrub .. => true
  | _ => false

/-- The events that are due come next: host and peers, then migration, then scrub, that of the device's own round last (10 R205, log
116). -/
def State.takeEnv (s : State) (migration scrubs : List Event) : State :=
  let (now, later) := s.dueEnv
  let due := now.filter fromOutside
  { s with env := later }.push ((due.filter (!isScrub ·)).map Work.event ++ migration.map Work.auto ++
    (due.filter isScrub).map Work.event ++ scrubs.map Work.auto)

/-- Pages whose moves are complete, and the next that the eviction engine moves (10 R209). -/
def State.migrationEvents (s : State) : List Event :=
  ((s.tier.moving.filter (·.due ≤ s.gcyc)).map fun m => Event.pageMoveComplete m.ctx m.va) ++
    if s.belowWatermark then [Event.tierEviction] else []

/-- One period: refreshes that the controllers insert, the queued path, the command processor, what comes from outside, the domains, the
end (10 R205, log 116).  A device that has not booted, or has failed, takes only events from outside and completes its dump. -/
def State.periodStage (s : State) : State :=
  let refreshes := (s.tasksWhere Task.live).flatMap fun t => s.forcedEvents t ++ s.guardedEvents t
  if s.alive then
    s.push (refreshes.map Work.auto ++ [.stage .queued, .stage .processor, .stage .inputs, .stage .domains, .stage .endPeriod])
  else (s.finishDump.push [.stage .endPeriod]).takeEnv [] []

/-- Kernel instances by their first core, other nodes in the order in which the scheduler started them, its own decision every 24 global
cycles, launches and signals by core, and only then the host's entries (16 R284, R288); ends of failed tasks, saves, replays and links,
as they fall due. -/
def State.processorEvents (s : State) : List Event :=
  let order := s.taskOrder
  let ends := (s.tasksWhere (·.closed)).map .kernelNodeComplete
  let nodes := s.running.filter (·.due ≤ s.gcyc)
  let types (r : CpNode) : Nat := ((s.readNode r.ctx r.node).map recType).getD 0
  let nodeEnd (r : CpNode) : Event := if types r = 5 then .copyNodeComplete r.id else .condNodeComplete r.id
  let schedule := if s.gcyc % 24 = 0 then [Event.schedulerDecision] else []
  let posts := sortBy (·.1) (order.flatMap fun t =>
    ((s.task t).posts.filter (s.postReady t ·)).map fun p => ((s.task t).physCore p.core, Event.nowLaunchArrival t p.id))
  let syncs := order.flatMap fun t => (s.task t).qsyncs.map fun q => Event.qsyncComplete t q.2.1
  let failed := (s.tasksWhere fun k => k.status = .failed && !k.closed).map .taskEnd
  let saves := (s.tasksWhere fun k => k.status = .frozen && k.saveGc ≤ s.gcyc).map .preemptSave
  let replays := (order.filterMap fun t => (s.task t).service.bind fun v => match v.kind with
    | .replay due => if due ≤ s.gcyc then some ((s.suspendEvents t).filterMap fun e => match e with
        | .copySuspend t c e => some (Event.copyReplayCaughtUp t c e)
        | _ => none) else none
    | _ => none).flatten
  let trained := (s.ports.filter fun p => p.2.retrain.any (· ≤ s.gcyc)).map fun p => Event.retrainComplete p.1
  let late := (s.grants.filter fun g => g.2.state = .recalling && g.2.recallGc + recallLimit ≤ s.gcyc).map
    fun g => Event.recallTimeout g.1
  let aging := if s.ready.any fun r => r.agedGc + agePeriod ≤ s.gcyc then [Event.priorityAging] else []
  ends ++ nodes.map nodeEnd ++ schedule ++ posts.map (·.2) ++ syncs ++ failed ++ saves ++ replays ++ trained ++ late ++ aging

/-- The errors that a resume meets in the shadow result buffers of cores that owe a write, each with the instruction of the first such
write (17 R303, R306, 03 R60). -/
def Task.bufferErrors (k : Task) : List Trap :=
  k.cores.filterMap fun e => match e.2.sramFail 5 0, k.owed.find? (·.core = e.1) with
    | some f, some o => some (f.fill (Trap.plain e.1 o.pc o.slot f.cause f.sub))
    | _, _ => none

/-- Tasks whose first bundles, or the bundles of their freeze, issue in this global cycle. -/
def State.startTasks (s : State) : State :=
  (s.tasksWhere fun k => (k.status = .starting || k.status = .resuming) && k.startGc ≤ s.gcyc).foldl
    (fun (s : State) t => if (s.task t).status = .starting then s.startTask t
      else s.setTask t fun k => { k with status := .running, raised := k.raised ++ k.bufferErrors }) s

/-- The stage of the command processor; its queued writes of fault records are among what performs here. -/
def State.processorStage (s : State) : State :=
  let s1 := s.recordStage.finishInvals.finishDump
  s1.startTasks.push (s1.processorEvents.map .auto)

/-- What comes from outside the domains: events of the environment, the clock's rate and power holds at a block of 64 global cycles,
deadlines of fault service, units that have powered up, migration and scrub. -/
def State.inputsStage (s : State) : State :=
  let rates := if s.gcyc % 64 = 0 then
      (s.tasksWhere fun k => k.nextRate ≠ k.rate).map fun t => Event.rateChange t (s.task t).nextRate else []
  let timeouts := (s.tasksWhere fun k => k.service.any (·.deadline ≤ s.gcyc)).map .serviceTimeout
  let live := s.tasksWhere Task.live
  let gates := (live.filter fun t => (s.task t).gated.any (· ≤ s.gcyc)).map .powerGateExit
  let (holds, s1) := s.holdEvents
  let (scrubs, s2) := s1.scrubEvents
  (s2.push ((holds ++ rates ++ timeouts ++ gates).map .auto)).takeEnv s.migrationEvents scrubs

/-! ### The domains -/

/-- Traps raised outside an issue are taken; those of a task under service wait for its end. -/
def State.takeRaised (s : State) (t : Nat) : State :=
  let k := s.task t
  if k.raised.isEmpty || !(k.status = .running || k.status = .frozen || k.status = .ended) then s
  else (s.setTask t fun k => { k with raised := [] }).takeTraps t k.raised

/-- A stalled period of one domain: what it records and does. -/
def State.stallWork (s : State) (t : Nat) : List Work :=
  let k := s.task t
  (if k.held || swallowed k.rate s.gcyc then [.auto (.clockSwallow t)] else []) ++ [.stage (.stalled t)] ++
    (if k.stallLen = 2400 then [.auto (.longStallPrecharge t)] else [])

/-- The tape that a bind or a release is an operation on: context and index in one number. -/
def State.streamTape (s : State) (e : Event) : Option Nat :=
  let key (t : Nat) (h : BitVec 32) : Nat := (s.task t).ctx * 2 ^ 16 + h.toNat % 2 ^ 16
  let eff (t id : Nat) : Option Eff := ((s.task t).owed.find? (·.id = id)).map (·.eff)
  match e with
  | .sfbindPerform t id => (eff t id).bind fun x => match x with
    | .sfbind _ r _ _ => some (key t (recTape r))
    | _ => none
  | .sfrelPerform t id => (eff t id).bind fun x => match x with
    | .sfrel n _ _ => some (key t (s.stream n).handle)
    | _ => none
  | .streamRunPerform t c =>
    let e := (s.core t c).engine 5
    ((e.running.map (·.cmd)).or (e.pending.find? fun x => x.start = (s.task t).dc && x.perform = (s.task t).dc)).bind fun x =>
      match x.op with
      | .run n .. => some (key t (s.stream n).handle)
      | _ => none
  | _ => none

/-- Binds and releases that come before the runs of this global cycle: those on the tape of a run of a core above, and what cores below
them do to other tapes (08 R155, 11 R223, 25 R358). -/
def State.earlyBinds (s : State) (go : List Nat) : List Event :=
  let going := go.filter fun t => (s.task t).status = .running && (s.task t).raised.isEmpty
  let runs := going.flatMap fun t => (s.performEvents t).filterMap fun e => match e with
    | .streamRunPerform _ c => (s.streamTape e).map fun i => (i, (s.task t).physCore c)
    | _ => none
  let ops := (going.flatMap fun t => s.dueTables t false).filter (·.1 = 0)
  let on (x : Nat × Nat × Nat × Event) : List Nat := (runs.filter fun r => s.streamTape x.2.2.2 = some r.1).map (·.2)
  let first := ops.filter fun x => (on x).any (x.2.1 < ·)
  orderTables (ops.filter fun x => (on x).any (x.2.1 < ·) || ((on x).isEmpty && first.any fun y => x.2.1 < y.2.1))

/-- The phases of one domain cycle, for every domain that advances: performs before table operations, but for the binds and releases
that come before a run, these before starts and pops, and all before any bundle issues (09 R188, 08 R155, 25).  Table operations of
domains that stand fall among the others (08 R155, 11 R223). -/
def cyclePhases (ts held : List Nat) : List Work :=
  (ts.map fun t => .stage (.timed t)) ++ [.stage (.binds ts)] ++ (ts.map fun t => .stage (.engines t)) ++
    [.stage (.tables ts held)] ++ (ts.map fun t => .stage (.starts t)) ++ (ts.map fun t => .stage (.matrix t)) ++
    (ts.map fun t => .stage (.timeline t)) ++ (ts.map fun t => .stage (.issue t))

/-- Every live domain stalls, freezes or advances (03 R54). -/
def State.domainsStage (s : State) : State :=
  let s1 := s.taskOrder.foldl State.takeRaised s
  let live := s1.tasksWhere Task.live
  let stalls (t : Nat) : Bool := (s1.task t).status = .service || !(s1.causes t).isEmpty
  let go := live.filter fun t => !stalls t
  let freezes := (go.filter fun t => s1.freezes t).map fun t => Work.auto (.preemptFreeze t)
  let s2 := go.foldl (fun (s : State) t => (s.reopenRows t).setTask t fun k => { k with causes := [], stallLen := 0 }) s1
  s2.push ((live.filter stalls).flatMap s1.stallWork ++ freezes ++ cyclePhases go (live.filter stalls))

/-- The end of a period: ends of tasks, then the counter of the reference clock. -/
def State.endStage (s : State) : State :=
  match if s.alive then s.taskOrder.filter s.taskDone else [] with
  | [] => { s.coolDown.idleRefreshes with
      gcyc := s.gcyc + 1
      banks := []
      tasks := mapVals s.tasks fun _ k =>
        { k with cores := mapVals k.cores fun _ c => { c with dgst := c.dgst + c.dgstNext, dgstNext := 0 } } }
  | ts => s.push ((ts.map fun t => Work.auto (.taskEnd t)) ++ [.stage .endPeriod])

/-! ### A stage -/

/-- Whether a task runs and has raised no trap in this cycle. -/
def Task.going (k : Task) : Bool := k.status = .running && k.raised.isEmpty

/-- A phase of a task that still runs. -/
def State.whileRunning (s : State) (t : Nat) (f : State → State) : State := if (s.task t).status = .running then f s else s

/-- A phase of a domain cycle in which no trap has been raised: from a trap on nothing of the domain starts or performs (17 R304,
log 96). -/
def State.whileGoing (s : State) (t : Nat) (f : State → State) : State := if (s.task t).going then f s else s

/-- One stage: what it does itself, and the work it puts before the rest of the agenda. -/
def State.runStage (s : State) (g : Stage) : State :=
  match g with
  | .period => s.periodStage
  | .queued => s.queuedStage
  | .processor => s.processorStage
  | .inputs => s.inputsStage
  | .domains => s.domainsStage
  | .stalled t => if (s.task t).live then s.stalledPeriod t else s
  | .timed t => s.whileGoing t fun s => s.push ((s.timedEvents t).map .auto)
  | .binds go => s.push ((s.earlyBinds go).map .auto)
  | .engines t => s.whileGoing t fun s => (s.push ((s.performEvents t).map .auto)).flushAll t
  | .tables go held =>
    let due := ((go.filter fun t => (s.task t).going).flatMap fun t => s.dueTables t false) ++
      (held.filter fun t => (s.task t).live).flatMap fun t => s.dueTables t true
    s.push ((orderTables due).map .auto)
  | .starts t => s.whileGoing t fun s =>
    let s1 := s.readSources t
    s1.push ((s1.suspendEvents t).map .auto ++ (s1.startEvents t).map .auto)
  | .matrix t => s.whileGoing t (·.matrixStage t)
  | .timeline t => s.whileGoing t fun s =>
    let s1 := s.runMoves t
    s1.push ((s1.windowEvents t ++ s1.deadlineEvents t).map .auto)
  | .issue t => s.whileRunning t fun s => (s.beginTask t).issueStage t
  | .commit t => s.whileRunning t (·.commit t)
  | .gate t => s.whileRunning t (·.gateStage t)
  | .close t => s.whileRunning t (·.closeStage t)
  | .endPeriod => s.endStage

/-- The next item of work, and the state without it.  An empty agenda begins a period. -/
def State.takeWork (s : State) : Work × State :=
  match s.agenda with
  | [] => (.stage .period, s)
  | w :: ws => (w, { s with agenda := ws })

/-! ### An event of the device's own -/

/-- The meaning of the row of the same name. -/
def runEvent (e : Event) (s : State) : Out :=
  match e with
  | .schedulerDecision => execSchedulerDecision s
  | .priorityAging => execPriorityAging s
  | .condNodeComplete id => execCondNodeComplete id s
  | .copyNodeComplete id => execCopyNodeComplete id s
  | .preemptFreeze t => execPreemptFreeze t s
  | .preemptSave t => execPreemptSave t s
  | .taskEndCloses t => execTaskEndCloses t s
  | .taskEnd t => execTaskEnd t s
  | .kernelNodeComplete t => execKernelNodeComplete t s
  | .nowLaunchArrival t id => execNowLaunchArrival t id s
  | .qsyncComplete t id => execQsyncComplete t id s
  | .wheelGroupIssue t => execWheelGroupIssue t s
  | .powerGateExit t => execPowerGateExit t s
  | .engineCommandStart t c e => execEngineCommandStart t c e s
  | .copyPerform t c e => execCopyPerform t c e s
  | .copySuspend t c e => execCopySuspend t c e s
  | .copyReplayCaughtUp t c e => execCopyReplayCaughtUp t c e s
  | .sequenceEnginePerform t c => execSequenceEnginePerform t c s
  | .timedWritePerform t id => execTimedWritePerform t id s
  | .walkerLeafWritePerform t id => execWalkerLeafWritePerform t id s
  | .wbfillComplete t c id => execWbfillComplete t c id s
  | .planeLoadComplete t c id => execPlaneLoadComplete t c id s
  | .mmaInputStart t c id => execMmaInputStart t c id s
  | .mmaRowPerform t c id => execMmaRowPerform t c id s
  | .accumulatorWritePerform t c id => execAccumulatorWritePerform t c id s
  | .tableOperationPerform t id => execTableOperationPerform t id s
  | .headCloseTableWrite t id => execHeadCloseTableWrite t id s
  | .headWritePerform t id => execHeadWritePerform t id s
  | .hwaitComplete t id => execHwaitComplete t id s
  | .headRefillFetch t => execHeadRefillFetch t s
  | .sfbindPerform t id => execSfbindPerform t id s
  | .streamRunPerform t c => execStreamRunPerform t c s
  | .sfrelPerform t id => execSfrelPerform t id s
  | .streamDeadlineFault t c e => execStreamDeadlineFault t c e s
  | .queuedLoadPerform id => execQueuedLoadPerform id s
  | .queuedWritePerform id => execQueuedWritePerform id s
  | .atomicPerform id => execAtomicPerform id s
  | .barrierPerform id => execBarrierPerform id s
  | .fencecComplete id => execFencecComplete id s
  | .scfenceComplete id => execScfenceComplete id s
  | .translationWalk id => execTranslationWalk id s
  | .serviceTimeout t => execServiceTimeout t s
  | .timelineFill t ch w => execTimelineFill t ch w s
  | .timelineStream t ch w => execTimelineStream t ch w s
  | .timelineRefpb t ch w => execTimelineRefpb t ch w s
  | .timelineRefab t ch w => execTimelineRefab t ch w s
  | .forcedRefresh ch bank => execForcedRefresh ch bank s
  | .guardedRefresh t ch bank => execGuardedRefresh t ch bank s
  | .longStallPrecharge t => execLongStallPrecharge t s
  | .patrolScrub ch bank row found => execPatrolScrub ch bank row found s
  | .tierEviction => execTierEviction s
  | .pageMoveComplete ctx va => execPageMoveComplete ctx va s
  | .recallTimeout g => execRecallTimeout g s
  | .retrainComplete port => execRetrainComplete port s
  | .rateChange t k => execRateChange t k s
  | .clockSwallow t => execClockSwallow t s
  | .powerHold => execPowerHold s
  | .powerHoldEnd t => execPowerHoldEnd t s

/-! ### The next slot -/

/-- The state in which a slot runs. -/
def State.at (s : State) (t c k : Nat) : State := { s with cur := ⟨t, c, k⟩ }

/-- The instruction of the slot about to run, from the bundle at its core's PC. -/
def State.fetchSlot (s : State) : Except Fault (Except Refusal Instr) :=
  match s.fetchBundle with
  | .error f => .error f
  | .ok b => .ok (slotInstruction (b.slot s.cur.slot))

/-! ### A kernel placed from outside -/

/-- Page tables at 0x1000 to 0x5000 that map the page of virtual address 0, readable and executable, to the frame at
0x6000. -/
def onePageTables : List (Nat × Nat) := [(0x1000, 0x2001), (0x2000, 0x3001), (0x3000, 0x4001), (0x4000, 0x5001), (0x5000, 0x6017)]

/-- A folio of one kernel of one bundle at virtual address 0 of context 0. -/
def oneBundleFolio : Folio := ⟨⟨0, 0, 1, 0, 1, [⟨0, 1, 1, false, 0, false, [], [], [], [], []⟩]⟩, 0x10001, [[]]⟩

/-- A task of one quire at its first domain cycle. -/
def oneQuireTask : Task :=
  { Task.start with quires := [0], cores := (List.range 8).map fun c => (c, startCore c 8 c 0x10001 none 0 0) }

/-- The state in which the next step is slot 0 of the 16 bytes of a bundle, on core 0 of task 0 (log 4). -/
def State.loadOneBundle (s : State) (l : List Byte) : State :=
  let tables := onePageTables.foldl (fun m e => Memory.setBytes m e.1 (leBytes 8 e.2)) s.mem
  { s with
    mem := Memory.setBytes tables 0x6000 l
    ctxs := put s.ctxs 0 { Context.start with root := 0x1000 }
    folios := put s.folios 0 oneBundleFolio
    tasks := put s.tasks 0 oneQuireTask
    agenda := [.slot 0 0 0]
    issued := []
    newQueue := []
    traps := [] }

end Sys2Proof.Machine
end

