-- ==== Sys2Proof/Machine/Step.lean ====
section
/-!
DEFINITION. One step: the next item of the machine's work.
-/

namespace Sys2Proof.Machine

/-- One step.  A slot is fetched from the bundle at its core's PC, decoded and run; an event or a stage is what its own
definition says. -/
def step (s : State) : Host.Outcome State Fault Refusal :=
  match s.takeWork with
  | (.stage g, s') => .next (s'.runStage g)
  | (.auto e, s') => runEvent e s'
  | (.event i, s') => exec i s'
  | (.slot t c k, s') =>
    match (s'.at t c k).fetchSlot with
    | .error f => .fault f
    | .ok (.error r) => .refused r
    | .ok (.ok i) => exec i (s'.at t c k)

/-- The state with an instruction word where the next step fetches: a kernel of one bundle that a context's pages map, bound to
one quire, whose core 0 is about to issue slot 0 (log 4). -/
def State.withFetchWord (s : State) (nbits w : Nat) : State := s.loadOneBundle (if nbits ≤ 32 then tableBundle w else [])

end Sys2Proof.Machine
end

