-- ==== Sys2Proof/Safety.lean ====
section
/-!
DEFINITION. The terms in which claims are stated: what a slot may change before its bundle commits, which registers an effect
writes, and states that no step leaves.
-/

namespace Sys2Proof

/-- An instruction that a slot holds; every other row of the table is an event of the device. -/
def Instr.isSlot (i : Instr) : Bool := i.encode.isSome

end Sys2Proof

namespace Sys2Proof.Machine

/-! ### A slot before its bundle commits (02 R23) -/

/-- What running a slot may change: it adds to what the bundle issues, to the queued accesses it brings and to the traps it
raises, takes banks, fresh numbers and free values, and notes what it reads; every task, register and byte of memory stays as it is. -/
structure SlotFrame (s t : State) : Prop where
  rest : t = { s with
    issued := t.issued, newQueue := t.newQueue, traps := t.traps, banks := t.banks, reads := t.reads, nextId := t.nextId
    freeCount := t.freeCount }
  issued : s.issued <+: t.issued
  newQueue : s.newQueue <+: t.newQueue
  traps : s.traps <+: t.traps

/-- The scalar register that an effect writes once it performs, if it is not s0. -/
def Eff.scalarTarget : Eff → Option Nat
  | .scalar n _ => some n
  | .table _ _ _ _ reg .. | .hwait _ reg | .qsync reg | .sfbind reg .. => if reg = 0 then none else some reg
  | _ => none

/-- The special registers that a slot's effect writes: FRPTR, TWIN, LC, FMT (04 R69). -/
inductive Special where
  | frptr | twin | lc | fmt
  deriving DecidableEq, Repr

def Eff.special : Eff → Option Special
  | .frptr _ => some .frptr
  | .twin _ => some .twin
  | .lc _ => some .lc
  | .fmt _ => some .fmt
  | _ => none

/-- Instructions whose rule writes a special register (04 R76, R77, R79, R81, R84). -/
def writesSpecial (i : Instr) : List Special :=
  match i with
  | .csrw .. | .csrs .. | .csrc .. => [.frptr, .twin, .lc]
  | .twincmp .. | .twincmpTile .. => [.twin]
  | .loopi .. | .loop .. => [.lc]
  | .fmtset .. => [.fmt]
  | _ => []

/-! ### A device that has failed (17 R311, R322) -/

/-- Work that a failed device may have before it: events from outside, and the beginning and the end of a period. -/
def Work.quiet (w : Work) : Bool :=
  match w with
  | .event i => fromOutside i
  | .stage .endPeriod | .stage .period => true
  | _ => false

/-- The device has failed with a cause and runs nothing. -/
def State.hasFailed (s : State) (c : FatalCause) : Prop := s.fw.boot = .failed c ∧ ∀ w ∈ s.agenda, w.quiet = true

/-! ### The tables of 04 R70 and R73, in arithmetic over the integers -/

/-- Lane 0 of pk, inverted when mod bit 0 is 1, is 1 (04 R67). -/
def State.gateOpen (s : State) (p : BitVec 4) (i : BitVec 1) : Prop := (s.me.pred p.toNat).getLsbD 0 = decide (i = 0)

/-- The slot writes s[d] at `lat` domain cycles after its issue; a write to s0 is discarded (04 R66, R68). -/
def State.scalarResult (s : State) (lat : Nat) (d : BitVec 5) (v : Word) : State :=
  if d = 0 then s else s.issue lat (.scalar d.toNat v)

/-- A SCAL operation on two scalars: its latency and its result. -/
structure ScalarRow where
  op : BitVec 5 → BitVec 5 → BitVec 5 → BitVec 4 → BitVec 1 → Instr
  latency : Nat
  result : Word → Word → Word

def scalarRows : List ScalarRow := [
  ⟨.add, 1, fun a b => BitVec.ofNat 64 (a.toNat + b.toNat)⟩,
  ⟨.sub, 1, fun a b => BitVec.ofInt 64 (a.toInt - b.toInt)⟩,
  ⟨.addw, 1, fun a b => BitVec.ofInt 64 (BitVec.ofInt 32 (a.toInt + b.toInt)).toInt⟩,
  ⟨.subw, 1, fun a b => BitVec.ofInt 64 (BitVec.ofInt 32 (a.toInt - b.toInt)).toInt⟩,
  ⟨.mul, 3, fun a b => BitVec.ofInt 64 (a.toInt * b.toInt)⟩,
  ⟨.mulh, 3, fun a b => BitVec.ofInt 64 (a.toInt * b.toInt / (2 ^ 64 : Nat))⟩,
  ⟨.mulhu, 3, fun a b => BitVec.ofNat 64 (a.toNat * b.toNat / 2 ^ 64)⟩,
  ⟨.div, 16, fun a b => if b = 0 then 0xFFFFFFFFFFFFFFFF else
    if a = 0x8000000000000000 ∧ b = 0xFFFFFFFFFFFFFFFF then 0x8000000000000000 else BitVec.ofInt 64 (a.toInt.tdiv b.toInt)⟩,
  ⟨.divu, 16, fun a b => if b = 0 then 0xFFFFFFFFFFFFFFFF else BitVec.ofNat 64 (a.toNat / b.toNat)⟩,
  ⟨.rem, 16, fun a b => if b = 0 then a else
    if a = 0x8000000000000000 ∧ b = 0xFFFFFFFFFFFFFFFF then 0 else BitVec.ofInt 64 (a.toInt.tmod b.toInt)⟩,
  ⟨.remu, 16, fun a b => if b = 0 then a else BitVec.ofNat 64 (a.toNat % b.toNat)⟩,
  ⟨.and, 1, fun a b => a &&& b⟩,
  ⟨.or, 1, fun a b => a ||| b⟩,
  ⟨.xor, 1, fun a b => a ^^^ b⟩,
  ⟨.andn, 1, fun a b => a &&& ~~~b⟩,
  ⟨.shl, 1, fun a b => BitVec.ofNat 64 (a.toNat * 2 ^ (b.toNat % 64))⟩,
  ⟨.shr, 1, fun a b => BitVec.ofNat 64 (a.toNat / 2 ^ (b.toNat % 64))⟩,
  ⟨.sra, 1, fun a b => BitVec.ofInt 64 (a.toInt / (2 ^ (b.toNat % 64) : Nat))⟩,
  ⟨.min, 1, fun a b => BitVec.ofInt 64 (min a.toInt b.toInt)⟩,
  ⟨.max, 1, fun a b => BitVec.ofInt 64 (max a.toInt b.toInt)⟩,
  ⟨.minu, 1, fun a b => BitVec.ofNat 64 (min a.toNat b.toNat)⟩,
  ⟨.maxu, 1, fun a b => BitVec.ofNat 64 (max a.toNat b.toNat)⟩]

/-- An immediate sign-extended to 64 bits, the ext byte of a header in front of it (01 R9). -/
def signedImm {n : Nat} (x : Ext) (i : BitVec n) : Word :=
  match x with
  | none => i.signExtend 64
  | some e => (e ++ i).signExtend 64

/-- An immediate zero-extended to 64 bits. -/
def unsignedImm {n : Nat} (x : Ext) (i : BitVec n) : Word :=
  match x with
  | none => i.zeroExtend 64
  | some e => (e ++ i).zeroExtend 64

/-- A SIMM operation on a scalar and a sign-extended immediate. -/
structure ImmRow where
  op : BitVec 5 → BitVec 5 → BitVec 12 → Ext → Instr
  latency : Nat
  result : Word → Word → Word

def immRows : List ImmRow := [
  ⟨.addi, 1, fun a b => BitVec.ofNat 64 (a.toNat + b.toNat)⟩,
  ⟨.muli, 3, fun a b => BitVec.ofInt 64 (a.toInt * b.toInt)⟩,
  ⟨.andi, 1, fun a b => a &&& b⟩,
  ⟨.ori, 1, fun a b => a ||| b⟩,
  ⟨.xori, 1, fun a b => a ^^^ b⟩]

/-- A shift by imm12[5:0]. -/
structure ShiftRow where
  op : BitVec 5 → BitVec 5 → BitVec 6 → Instr
  result : Word → Nat → Word

def shiftRows : List ShiftRow := [
  ⟨.shli, fun a c => BitVec.ofNat 64 (a.toNat * 2 ^ c)⟩,
  ⟨.shri, fun a c => BitVec.ofNat 64 (a.toNat / 2 ^ c)⟩,
  ⟨.srai, fun a c => BitVec.ofInt 64 (a.toInt / (2 ^ c : Nat))⟩]

/-- The slot writes all 128 lanes of p[d], which must be p1 to p11, one domain cycle after its issue (04 R73). -/
def State.predResult (s : State) (d : BitVec 5) (v : Pred) : State := s.issue 1 (.pred d.toNat (BitVec.allOnes 128) v)

/-- The slot owes each effect of a list at its number of domain cycles after the issue, in order, and does nothing else. -/
def State.issueAll (s : State) (l : List (Nat × Eff)) : State := l.foldl (fun s e => s.issue e.1 e.2) s

/-- The slot adds one access to what its core has queued and does nothing else. -/
def State.queuesOne (s t : State) (q : QAcc) : Prop :=
  SlotFrame s t ∧ t.issued = s.issued ∧ t.traps = s.traps ∧ t.newQueue = s.newQueue ++ [q]

/-- All ones or all zeros. -/
def everyLane (b : Prop) [Decidable b] : Pred := if b then BitVec.allOnes 128 else 0

/-! ### The tables of 06 R120 to R132 -/

/-- A row source that the slot reads without a trap: its row, and the state that the read leaves (06 R120). -/
def State.delivers (s : State) (c : BitVec 6) (x : Ext) (f : Nat) (r : Row) (t : State) : Prop :=
  s.readRow c x f = (r, t) ∧ t.traps = s.traps

/-- Both sources of a row operation; one that is named twice is read once (06 R120). -/
def State.delivers2 (s : State) (a b : BitVec 6) (x : Ext) (f : Nat) (ra rb : Row) (t : State) : Prop :=
  ∃ u, s.delivers a x f ra u ∧ if b = a then rb = ra ∧ t = u else u.delivers b x f rb t

/-- The low `w` bits of a lane: the element that it holds (05 R91). -/
def elemBV (w : Nat) (l : Lane) : BitVec w := BitVec.ofNat w l.toNat

/-- An element in a lane, sign-extended in INT8, INT16 and INT32 and zero-extended in the other formats (05 R91). -/
def laneBV {w : Nat} (signed : Bool) (v : BitVec w) : Lane := if signed then BitVec.ofInt 32 v.toInt else BitVec.ofNat 32 v.toNat

/-- The formats that a letter I, F or T of 06 R122 names: INT8, UINT8, INT16, INT32, UINT32; the floating ones; TRIT. -/
def lettersI : List Nat := [0, 1, 2, 3, 10]
def lettersF : List Nat := [4, 5, 6, 7, 8]

/-- A binary ROW operation: its formats, its latency, what it does to elements of w bits, signed or not, and to floating
values. -/
structure RowRow where
  op : BitVec 6 → BitVec 6 → BitVec 6 → BitVec 4 → Ext → Instr
  formats : List Nat
  latency : Nat → Nat
  bits : (w : Nat) → Bool → BitVec w → BitVec w → BitVec w
  float : Option (Modes → Nat → Num → Num → Num)

/-- What a row operation gives a lane. -/
def RowRow.lane (r : RowRow) (m : Modes) (e : Nat) (a b : Lane) : Lane :=
  match r.float, isFloatFmt e with
  | some g, true => m.res e (g m e (m.val e a) (m.val e b))
  | _, _ => laneBV (isSignedFmt e) (r.bits (elemBits e) (isSignedFmt e) (elemBV _ a) (elemBV _ b))

/-- An integer clamped to the range of w bits. -/
def clampBV (w : Nat) (signed : Bool) (v : Int) : BitVec w :=
  if signed then BitVec.ofInt w (max (-(2 ^ (w - 1) : Nat)) (min ((2 ^ (w - 1) : Nat) - 1) v))
  else BitVec.ofInt w (max 0 (min ((2 ^ w : Nat) - 1) v))

/-- The integer that an element holds. -/
def intBV {w : Nat} (signed : Bool) (v : BitVec w) : Int := if signed then v.toInt else v.toNat

/-- 2 in I formats and 4 in F formats. -/
def twoOrFour (e : Nat) : Nat := if e ∈ lettersF then 4 else 2

def rowRows : List RowRow := [
  ⟨.vadd, lettersI ++ lettersF, twoOrFour, fun _ _ a b => a + b, some fun m e u v => addNum (m.forFmt e) u v⟩,
  ⟨.vsub, lettersI ++ lettersF, twoOrFour, fun _ _ a b => a - b, some fun m e u v => addNum (m.forFmt e) u v.negate⟩,
  ⟨.vmul, lettersI ++ lettersF, twoOrFour, fun _ _ a b => a * b, some fun _ _ u v => mulNum u v⟩,
  ⟨.vadds, lettersI, fun _ => 2, fun w g a b => clampBV w g (intBV g a + intBV g b), none⟩,
  ⟨.vsubs, lettersI, fun _ => 2, fun w g a b => clampBV w g (intBV g a - intBV g b), none⟩,
  ⟨.vmin, lettersI ++ lettersF, fun _ => 2, fun _ g a b => if intBV g a ≤ intBV g b then a else b, some fun _ _ => minNum⟩,
  ⟨.vmax, lettersI ++ lettersF, fun _ => 2, fun _ g a b => if intBV g a ≤ intBV g b then b else a, some fun _ _ => maxNum⟩,
  ⟨.vand, lettersI ++ lettersF, fun _ => 2, fun _ _ a b => a &&& b, none⟩,
  ⟨.vor, lettersI ++ lettersF, fun _ => 2, fun _ _ a b => a ||| b, none⟩,
  ⟨.vxor, lettersI ++ lettersF, fun _ => 2, fun _ _ a b => a ^^^ b, none⟩,
  ⟨.vshl, lettersI, fun _ => 2, fun _ _ a b => a <<< (b.toNat % 256), none⟩,
  ⟨.vshr, lettersI, fun _ => 2, fun _ _ a b => a >>> (b.toNat % 256), none⟩,
  ⟨.vsra, lettersI, fun _ => 2, fun _ _ a b => a.sshiftRight (b.toNat % 256), none⟩,
  ⟨.vmullo, lettersI, fun _ => 2, fun _ _ a b => a * b, none⟩,
  ⟨.vmulhi, lettersI, fun _ => 2, fun w g a b => BitVec.ofInt w (intBV g a * intBV g b / (2 ^ w : Nat)), none⟩]

/-- A unary ROW operation. -/
structure RowRow1 where
  op : BitVec 6 → BitVec 6 → BitVec 4 → Ext → Instr
  formats : List Nat
  latency : Nat
  bits : (w : Nat) → Bool → BitVec w → BitVec w
  float : Option (Modes → Nat → Lane → Lane)

def RowRow1.lane (r : RowRow1) (m : Modes) (e : Nat) (a : Lane) : Lane :=
  match r.float, isFloatFmt e with
  | some g, true => g m e a
  | _, _ => laneBV (isSignedFmt e) (r.bits (elemBits e) (isSignedFmt e) (elemBV _ a))

/-- Ones and leading zeros of an element. -/
def onesBV {w : Nat} (v : BitVec w) : Nat := ((List.range w).filter fun j => v.getLsbD j).length
def leadingBV {w : Nat} (v : BitVec w) : Nat := ((List.range w).takeWhile fun j => !v.getLsbD (w - 1 - j)).length

def rowRows1 : List RowRow1 := [
  ⟨.vabs, lettersI ++ lettersF, 2, fun _ g a => if intBV g a < 0 then -a else a, some absLane⟩,
  ⟨.vpopc, lettersI, 2, fun w _ a => BitVec.ofNat w (onesBV a), none⟩,
  ⟨.vclz, lettersI, 2, fun w _ a => BitVec.ofNat w (leadingBV a), none⟩,
  ⟨.vrint, lettersF, 4, fun _ _ a => a, some fun m e a => m.res e (rintNum (m.forFmt e) (m.val e a))⟩,
  ⟨.vrcp, lettersF, 10, fun _ _ a => a, some fun m e a => m.res e (rcpNum (m.val e a))⟩,
  ⟨.vrsq, lettersF, 10, fun _ _ a => a, some fun m e a => m.res e (rsqNum (m.val e a))⟩,
  ⟨.vexp2, lettersF, 10, fun _ _ a => a, some fun m e a => m.res e (exp2Num (m.val e a))⟩,
  ⟨.vlog2, lettersF, 10, fun _ _ a => a, some fun m e a => m.res e (log2Num (m.val e a))⟩]

/-- A comparison into a predicate (06 R126). -/
structure RowTest where
  op : BitVec 6 → BitVec 6 → BitVec 6 → BitVec 4 → Ext → Instr
  formats : List Nat
  ints : Int → Int → Bool
  floats : Num → Num → Bool

def rowTests : List RowTest := [
  ⟨.vpeq, lettersI ++ lettersF ++ [9], fun a b => a = b, eqNum⟩,
  ⟨.vpne, lettersI ++ lettersF ++ [9], fun a b => a ≠ b, fun a b => !eqNum a b⟩,
  ⟨.vplt, lettersI ++ lettersF, fun a b => a < b, ltNum⟩,
  ⟨.vple, lettersI ++ lettersF, fun a b => a ≤ b, fun a b => ltNum a b || eqNum a b⟩]

/-- The lanes of two rows by a comparison: trits, integers or floating values. -/
def RowTest.holds (r : RowTest) (m : Modes) (e : Nat) (a b : Lane) : Bool :=
  if isFloatFmt e then r.floats (m.val e a) (m.val e b)
  else if e = 9 then r.ints (tritInt (elemBV 2 a).toNat) (tritInt (elemBV 2 b).toNat)
  else r.ints (intBV (isSignedFmt e) (elemBV (elemBits e) a)) (intBV (isSignedFmt e) (elemBV (elemBits e) b))

/-- No lane that a mask selects holds the poison trit (05 R92). -/
def noPoison (mask : Pred) (r : Row) : Prop := ∀ l < 128, mask.getLsbD l = true → (elemBV 2 (r.getD l 0)) ≠ 2

/-- Node N(l, i) of the tree of 05 R111 over leaves of which some are absent (06 R129). -/
def treeNode {α : Type} (leaf : Nat → Option α) (op : α → α → α) : Nat → Nat → Option α
  | 0, i => leaf i
  | l + 1, i =>
    match treeNode leaf op l (2 * i), treeNode leaf op l (2 * i + 1) with
    | some x, some y => some (op x y)
    | some x, none => some x
    | none, y => y

/-! ### Class CTRL -/

/-- The target of RET lies in the text, directly after a bundle that holds CALL (04 R75). -/
def State.mayReturn (s : State) (v : Nat) : Prop :=
  ∃ k b j, s.kernel s.cur.task = some k ∧ 0 < v ∧ v < k.bundles ∧ s.bundleAt s.cur.task (v - 1) = some b ∧ (.ok (.call j)) ∈ b.slots

/-- The target of JR is a restart bundle of the text (04 R75). -/
def State.mayJump (s : State) (v : Int) : Prop :=
  ∃ k b h, s.kernel s.cur.task = some k ∧ 0 ≤ v ∧ v < k.bundles ∧ s.bundleAt s.cur.task v.toNat = some b ∧ b.hdr = some h ∧
    h.mark = true

/-! ### Class MTX, engines and heads -/

/-- The source of an MTX command's rows, popped at the mcs of a list, is taken without a trap (07 R137). -/
def State.supplies (s : State) (c : BitVec 6) (x : Ext) (whens : List Nat) (src : RowSource) (uses : List (Nat × Nat))
    (engaged : List Engaged) (t : State) : Prop :=
  s.mtxSource c x whens = (src, uses, engaged, t) ∧ t.traps = s.traps

/-- One row is popped at the issue of an MTX command without a trap (07 R137). -/
def State.pops (s : State) (c : BitVec 6) (x : Ext) (row : Row) (t : State) : Prop :=
  s.mtxPop c x = (row, t) ∧ t.traps = s.traps

/-- The contents of accumulators, exponents, slots, planes' tags in force and ACCOVF stay as they are. -/
def Matrix.sameContents (m n : Matrix) : Prop :=
  n.acc = m.acc ∧ n.rowExp = m.rowExp ∧ n.laneExp = m.laneExp ∧ n.ovf = m.ovf ∧ n.slots = m.slots

/-- A slot may use head `n` in one of these modes (08 R160, R161). -/
def State.mayUse (s : State) (n : Nat) (modes : List HeadMode) : Prop :=
  s.me.engages true n = false ∧ (s.me.head n).status = .opened ∧ (s.me.head n).mode ∈ modes

/-- An engine of the core takes a command with start cycle S (03 R51, R52). -/
def State.takesCommand (s : State) (e start : Nat) (pair : Option (Nat × Nat)) : Prop :=
  s.timingFail e start = none ∧ s.meshFail pair start = none

/-- A copy from `n` bytes at `a` to `m` bytes at `d`: both endpoints are allowed and at most one lies in main memory (09 R186). -/
def State.endpoints (s : State) (a n d m : Nat) (src dst : Endpoint) : Prop :=
  s.endpoint a n false = .ok src ∧ s.endpoint d m true = .ok dst ∧ bothMemory src dst = false

/-- A queued access of `n` bytes at an effective address finds its page or slice and a free entry (13 R243, R248). -/
def State.mayQueue (s : State) (ea u n kind : Nat) (target : Target) : Prop :=
  ea < 2 ^ 57 ∧ ea % u = 0 ∧ s.windowTarget ea n kind = .ok target ∧ s.entriesHeld s.cur.task s.cur.core < 2048

/-! ### Normal execution of a slot (04 to 16) -/

/-- A row destination takes a row of the slot without a trap, whatever the latency, the mask and the lanes (06 R121). -/
def State.takesRow (s : State) (d : BitVec 6) : Prop := ∀ lat mask row, (s.writeRow d lat mask row).traps = s.traps

/-- A destination takes `n` rows of an MTX command without a trap (07 R147, R148). -/
def State.takesRows (s : State) (d : BitVec 6) (n : Nat) : Prop :=
  ∀ lat rows g, rows.length = n → (s.mtxStore d lat rows g).traps = s.traps

/-- A row source delivers, and the destination takes; a poison trit in the selected lanes is allowed only where it is moved (05 R92). -/
def State.rowPasses (s : State) (a d : BitVec 6) (x : Ext) (f : Nat) (clean : Row → Prop) : Prop :=
  ∃ ra t, s.delivers a x f ra t ∧ clean ra ∧ t.takesRow d

/-- Two row sources deliver, and the destination takes. -/
def State.rowsPass (s : State) (a b d : BitVec 6) (x : Ext) : Prop :=
  ∃ ra rb t, s.delivers2 a b x s.elem ra rb t ∧ t.takesRow d

/-- Two row sources deliver for a comparison, without a poison trit in the selected lanes. -/
def State.rowsCompare (s : State) (a b : BitVec 6) (p : BitVec 4) (x : Ext) : Prop :=
  ∃ ra rb t, s.delivers2 a b x s.elem ra rb t ∧ (s.elem = 9 → noPoison (s.me.pred p.toNat) ra ∧ noPoison (s.me.pred p.toNat) rb)

/-- The head that a slot writes its source's row through has room, and no selected lane is a poison trit (08 R158, R160). -/
def State.headTakes (s : State) (h : BitVec 4) (o : BitVec 6) (p : BitVec 4) (x : Ext) (modes : List HeadMode) : Prop :=
  let mask := s.me.pred p.toNat
  s.mayUse h.toNat modes ∧ ∃ row t, s.delivers o x (s.me.head h.toNat).fmt row t ∧
    ((s.me.head h.toNat).fmt = 9 → noPoison mask row) ∧
    ∃ eff hd, s.headStore s.cur.task s.cur.core h.toNat (blend mask Row.zero row) = .ok (eff, hd)

/-- The plane, rows and tiles of an MMA are there (07 R139, R144). -/
def State.mmaReady (s : State) (z : BitVec 5) (sc : BitVec 6) (w : BitVec 4) (k : BitVec 3) (p : BitVec 1) (n : BitVec 3)
    (x : Ext) : Prop :=
  s.queueFull = false ∧ ∃ pl m1 swap width, s.planeFor w.toNat k.toNat = .ok (pl, m1, swap, width, false) ∧
    z.toNat + width ≤ 23 ∧ pl.sp = decide (p = 1) ∧
    let step := if fmtAct s.myFmt ∈ [2, 6, 7] then 2 else 1
    let each := if pl.sp then 2 else 1
    let start := max (s.mc + 1) (max pl.validAt s.me.mtx.inputFree)
    ∃ src uses engaged t, s.supplies sc x ((List.range (2 ^ n.toNat * each)).map fun i => start + step * (i / each)) src uses engaged t

/-- One row is popped at the issue of an MTX command, and the row passes. -/
def State.popPasses (s : State) (sc : BitVec 6) (x : Ext) (fits : Row → Prop) : Prop := ∃ row t, s.pops sc x row t ∧ fits row

/-- The effective address of a queued access, in units of `u` bytes (13 R243). -/
def State.queuedAddress (s : State) (b : BitVec 5) (i : BitVec 6) (x : Ext) (u : Nat) : Nat :=
  (s.me.reg b.toNat + BitVec.ofInt 64 ((signedImm x i).toInt * u)).toNat

/-- A queued access of `n` bytes finds its place. -/
def State.queues (s : State) (b : BitVec 5) (i : BitVec 6) (x : Ext) (n kind : Nat) : Prop :=
  ∃ target, s.mayQueue (s.queuedAddress b i x n) n n kind target

/-- A VAMO's block is readable, each active lane has its place, and the core has entries for all (13 R256). -/
def State.blockQueues (s : State) (d b : BitVec 5) (i : BitVec 6) (x : Ext) : Prop :=
  ∃ bytes t, s.readTimed s.cur.task s.cur.core ((s.me.reg d.toNat).toNat % 2 ^ 32) 1024 64 6 s.me.pc = .ok (bytes, t) ∧
    t.traps = s.traps ∧
    let ea := s.queuedAddress b i x 4
    let index (l : Nat) : Nat := leNat ((bytes.drop (4 * l)).take 4)
    let active := (List.range 128).filter fun l => index l ≠ 0xFFFFFFFF
    let place (l : Nat) : Nat := (ea + 4 * index l) % 2 ^ 64
    ea < 2 ^ 57 ∧ ea % 4 = 0 ∧ (∀ l ∈ active, place l < 2 ^ 57 ∧ t.windowTarget (place l) 4 3 = .ok .untranslated) ∧
      t.entriesHeld s.cur.task s.cur.core + active.length ≤ 2048

/-- A copy's operands, endpoints and start are in order (09 R186 to R191, 03 R51, R52): `n` bytes are read at s[a] and `m` written at
s[d]. -/
def State.copies (s : State) (a d l : BitVec 5) (e : BitVec 2) (n m : Nat) : Prop :=
  let r (i : BitVec 5) : Nat := (s.me.reg i.toNat).toNat
  ∃ src dst, s.endpoints (r a) n (r d) m src dst ∧ s.takesCommand e.toNat (r l) (meshPair src dst)

/-- Bytes that KCOPY and KFILL move (09 R189, R190). -/
def copyWords (b : Nat) : Prop := b % 4 = 0 ∧ 4 ≤ b ∧ b ≤ 0x280000

/-- A gather's or scatter's descriptor is in order (09 R191). -/
def State.recordsCopy (s : State) (l : BitVec 5) (P : Nat → Nat → Nat → Prop) : Prop :=
  ∃ list k z, s.descriptor (s.me.reg l.toNat) = some (list, k, z) ∧ P list k z

/-- An aligned read of scratchpad passes its checks (09 R174, R176, R194). -/
def State.readsSpad (s : State) (a n al kind : Nat) (P : List Byte → State → Prop) : Prop :=
  ∃ bytes t, s.readTimed s.cur.task s.cur.core a n al kind s.me.pc = .ok (bytes, t) ∧ t.traps = s.traps ∧ P bytes t

/-- A draw reads no word of the store that holds an error (12 R236, R239). -/
def State.draws (s : State) (dim index : Nat → Nat) : Prop := ∀ l < 128, s.me.seq.badPoint (dim l) (index l) = false

/-- The range and image of a QSAVE or QLOAD are in order, and its engine takes the command (12 R237, R239). -/
def State.sequenceMoves (s : State) (d a b : BitVec 5) : Prop :=
  let image := (s.me.reg a.toNat).toNat % 2 ^ 32
  let v := (s.me.reg b.toNat).toNat
  let c := v / 256 % 512
  0 < c ∧ v % 256 + c ≤ 256 ∧ v < 2 ^ 17 ∧ image % 64 = 0 ∧ s.myTask.spadFault s.cur.core image (320 * c) 1 = none ∧
    s.timingFail 6 (s.me.reg d.toNat).toNat = none

/-- A launch's address is in order and its list has room (16 R295). -/
def State.launches (s : State) (v : Word) : Prop :=
  v.toNat < 2 ^ 57 ∧ v.toNat % 64 = 0 ∧ (v.toNat ∈ s.launchList s.cur.task ∨ (s.launchList s.cur.task).length < 16)

/-- What an instruction of a slot asks of its operands and of its core for normal execution: it then raises no trap at issue.  TRAP
always traps, and no row of an event is a slot's. -/
def State.mayComplete (s : State) (i : Instr) : Prop :=
  let reg (n : BitVec 5) : Nat := (s.me.reg n.toNat).toNat
  let mask (p : BitVec 4) : Pred := s.me.pred p.toNat
  let ints : Prop := s.elem ∈ lettersI
  let floats : Prop := s.elem ∈ lettersF
  let any (_ : Row) : Prop := True
  let allocated (t : BitVec 6) (x : Ext) : Prop := s.me.tallocmap.getLsbD (unsignedImm x t).toNat = true
  let tile (z : BitVec 5) : Prop := (1, z.toNat) ∉ s.me.sram
  let opens (h : BitVec 4) : Prop := s.me.engages true h.toNat = false ∧ (s.me.head h.toNat).status = .closed
  match i with
  | .nop | .add .. | .sub .. | .addw .. | .subw .. | .mul .. | .mulh .. | .mulhu .. | .div .. | .divu .. | .rem .. | .remu ..
  | .and .. | .or .. | .xor .. | .andn .. | .shl .. | .shr .. | .sra .. | .min .. | .max .. | .minu .. | .maxu .. | .clz ..
  | .popc .. | .sel .. | .peq .. | .pne .. | .plt .. | .pltu .. | .pand .. | .por .. | .pxor .. | .pandn .. | .pmov .. | .pfrom ..
  | .sfromp .. | .addi .. | .andi .. | .ori .. | .xori .. | .shli .. | .shri .. | .srai .. | .lim .. | .limh .. | .peqi .. | .plti ..
  | .pltui .. | .muli .. => True
  | .br _ | .brp .. | .brnp .. | .call _ | .loopi .. | .loop _ | .waitc .. | .fmtset .. | .fmtget _ | .halt => True
  | .ret => s.mayReturn (s.me.reg 31).toNat
  | .jr a v => s.mayJump (reg a + v.toInt)
  | .csrr .. | .csrw .. | .csrs .. | .csrc .. | .rdcyc _ | .rdgcy _ | .rdwhl _ | .fence _ | .fencec .. | .scfence .. | .brk _
  | .detn .. | .dgst _ | .dgstFold _ => True
  | .twincmp a => s.me.twin.getLsbD 0 = false ∨ s.me.twin.getLsbD 1 = true ∨ s.me.reg a.toNat = s.me.reg (a.toNat + 16)
  | .twincmpTile k => s.me.twin.getLsbD 0 = false ∨
      (∀ r < 16, (0, 16 * k.toNat + r) ∉ s.me.sram ∧ (0, 16 * (k.toNat + 40) + r) ∉ s.me.sram) ∧ (s.me.twin.getLsbD 1 = true ∨
        ∀ r < 16, ∀ l < 128, lane (s.me.tileRow k.toNat r) l = lane (s.me.tileRow (k.toNat + 40) r) l)
  | .vmov d a _ x => s.rowPasses a d x s.elem any
  | .vadd d a b _ x | .vsub d a b _ x | .vmul d a b _ x | .vmin d a b _ x | .vmax d a b _ x | .vand d a b _ x | .vor d a b _ x
  | .vxor d a b _ x => (ints ∨ floats) ∧ s.rowsPass a b d x
  | .vadds d a b _ x | .vsubs d a b _ x | .vshl d a b _ x | .vshr d a b _ x | .vsra d a b _ x | .vmullo d a b _ x
  | .vmulhi d a b _ x => ints ∧ s.rowsPass a b d x
  | .vmac d a b _ x =>
      let cu := s.me.cursor (d.toNat - 0x18)
      (ints ∨ floats) ∧ s.rowsPass a b d x ∧
        (s.me.tallocmap.getLsbD cu.tile.toNat = true → (0, 16 * cu.tile.toNat + cu.row.toNat) ∉ s.me.sram)
  | .vabs d a _ x | .vrsum d a _ x | .vrmax d a _ x | .vrmin d a _ x => (ints ∨ floats) ∧ s.rowPasses a d x s.elem any
  | .vneg d a p x => s.rowPasses a d x s.elem fun r => s.elem = 9 → noPoison (mask p) r
  | .vpeq _ a b p x | .vpne _ a b p x => (ints ∨ floats ∨ s.elem = 9) ∧ s.rowsCompare a b p x
  | .vplt _ a b p x | .vple _ a b p x => (ints ∨ floats) ∧ s.rowsCompare a b p x
  | .vsel d a b _ x => s.rowsPass a b d x
  | .vrcp d a _ x | .vrsq d a _ x | .vexp2 d a _ x | .vlog2 d a _ x | .vrint d a _ x => floats ∧ s.rowPasses a d x s.elem any
  | .vperm d a b _ x | .vlsh d a b _ x | .vbcst d a b _ x => s.elem ≠ 9 ∧ s.rowsPass a b d x
  | .vpopc d a _ x | .vclz d a _ x | .vaddi d a _ _ x | .vshli d a _ _ x | .vshri d a _ _ x | .vtrit d a _ _ x =>
      ints ∧ s.rowPasses a d x s.elem any
  | .vextr d a _ _ x | .vinsr d a _ _ x => s.elem ≠ 9 ∧ s.rowPasses a d x s.elem any
  | .vcvt d a f _ p x => s.rowPasses a d x f.toNat fun r => f.toNat = 9 → noPoison (mask p) r
  | .vsplat d _ _ _ | .vsplats d _ _ _ _ | .viota d _ _ _ => (ints ∨ floats) ∧ s.takesRow d
  | .vcur .. => True
  | .vcurs _ x => (s.me.reg ((x.getD 0).toNat % 32)).toNat % 128 ≤ 79
  | .talloc n x => ∀ t < 80, (unsignedImm x n).toNat ≤ t → s.me.tallocmap.getLsbD t = false
  | .trel k x | .tzero k x => allocated k x
  | .wbfill sc w n x =>
      let start := max (s.mc + 1) (max s.me.mtx.fillFree (s.me.mtx.readsEnd w.toNat))
      s.queueFull = false ∧ ∃ src uses engaged t, s.supplies sc x ((List.range (2 ^ n.toNat)).map (start + ·)) src uses engaged t
  | .mldw w k => s.queueFull = false ∧ ∃ plane, s.me.segmentPlane w.toNat k.toNat = .ok plane
  | .mma z sc w k p n x | .mmaz z sc w k p n x => s.mmaReady z sc w k p n x
  | .mbmap sc _ x | .aexpWrite _ sc _ x => s.popPasses sc x any
  | .anorm z sc x => tile z ∧ s.popPasses sc x fun row =>
      ∀ j < 64, (get s.me.mtx.rowExp 0 (64 * z.toNat + j)).toInt + ((row.getD j 0).toNat % 64 : Nat) ≤ 127
  | .awr _ sc _ _ n x => ∃ src uses engaged t, s.supplies sc x ((List.range (2 ^ n.toNat)).map (s.mc + 1 + ·)) src uses engaged t
  | .ard z d _ _ n => tile z ∧ s.takesRows d (2 ^ n.toNat)
  | .aexpRead z d _ | .agrd z d _ _ => tile z ∧ s.takesRows d 1
  | .mstat z d w _ => tile z ∧ (2, w.toNat) ∉ s.me.sram ∧ s.takesRows d 1
  | .azero _ | .mwait .. => True
  | .hopen h .. | .hnew h .. | .hlease h .. => opens h
  | .hclose h _ | .hpos h _ | .hwait h _ => s.mayUse h.toNat [.read, .append, .update]
  | .hseal h _ => s.mayUse h.toNat [.append]
  | .hfree .. => True
  | .hrd h o p => s.mayUse h.toNat [.read, .update] ∧ ∃ row hd, s.deliver s.cur.task s.cur.core h.toNat = .ok (row, hd) ∧
      ((s.me.head h.toNat).fmt = 9 → noPoison (mask p) row) ∧ (s.issue 0 (.head h.toNat hd)).takesRow o
  | .hwr h o p x => s.headTakes h o p x [.append]
  | .hupd h o p x => s.headTakes h o p x [.update]
  | .hstep h .. | .hskip h _ | .hrev h => s.mayUse h.toNat [.read, .update]
  | .hmark h => s.mayUse h.toNat [.read, .update] ∧ (s.me.head h.toNat).marks.length < 4
  | .hrwd h _ | .hdrop h => s.mayUse h.toNat [.read, .update] ∧ (s.me.head h.toNat).marks ≠ []
  | .wset w a _ => s.me.engages false w.toNat = false ∧ reg a < 128
  | .wloop w a _ v => s.me.engages false w.toNat = false ∧ (s.me.walker w.toNat).loaded = true ∧ reg a % 2 ^ 32 ≠ 0 ∧ v.toNat < 4
  | .wrst w => s.me.engages false w.toNat = false ∧ (s.me.walker w.toNat).loaded = true
  | .kcopy a d l t e => copyWords (reg l) ∧ reg a % 4 = 0 ∧ reg d % 4 = 0 ∧ s.copies a d t e (reg l) (reg l)
  | .kcopyr a d l t e =>
      let w := elemBits s.elem / 8
      s.elem ≠ 9 ∧ reg l % w = 0 ∧ reg l ≤ 65536 ∧ reg a % w = 0 ∧ reg d % w = 0 ∧ inWindow (reg d) = true ∧
        s.copies a d t e (max (reg l) 1) (reg l)
  | .kfill _ d l t e => copyWords (reg l) ∧ reg d % 4 = 0 ∧ ∃ dst, s.endpoint (reg d) (reg l) true = .ok dst ∧
      s.takesCommand e.toNat (reg t) (meshPair (.slice s.cur.core) dst)
  | .kgath a d l t e => s.recordsCopy l fun _ k z => inWindow (reg d) = true ∧ s.copies a d t e 1 (k * 2 ^ z)
  | .kscat a d l t e => s.recordsCopy l fun _ k z => inWindow (reg a) = true ∧ s.copies a d t e (k * 2 ^ z) 1
  | .ktag a _ => (s.me.leafEntry (reg a % 1024)).valid = true
  | .ltset _ b => (s.me.reg b.toNat).getLsbD 23 = false ∨
      0 < reg b / 65536 % 128 ∧ reg b / 65536 % 128 ≤ 65 ∧ reg b % 65536 + reg b / 65536 % 128 ≤ 40960 ∧ reg b < 2 ^ 24
  | .kchk .. | .kstat .. => True
  | .sld a _ z => s.readsSpad (reg a % 2 ^ 32) (2 ^ z.toNat) (2 ^ z.toNat) 2 fun _ _ => True
  | .sst a _ z => s.myTask.spadFault s.cur.core (reg a % 2 ^ 32) (2 ^ z.toNat) (2 ^ z.toNat) = none
  | .ld _ b v z _ _ x | .lda _ b v z _ _ x => s.queues b v x (2 ^ z.toNat) 1
  | .st _ b v z _ _ x | .stl _ b v z _ _ x => s.queues b v x (2 ^ z.toNat) 2
  | .ldv d b v z x => s.queues b v x (64 * 2 ^ z.toNat) 1 ∧
      s.myTask.spadFault s.cur.core (reg d % 2 ^ 32) (64 * 2 ^ z.toNat) (64 * 2 ^ z.toNat) = none
  | .stv d b v z x => s.readsSpad (reg d % 2 ^ 32) (64 * 2 ^ z.toNat) (64 * 2 ^ z.toNat) 6 fun _ t =>
      ∃ target, t.mayQueue (s.queuedAddress b v x (64 * 2 ^ z.toNat)) (64 * 2 ^ z.toNat) (64 * 2 ^ z.toNat) 2 target
  | .amoadd _ b v z _ _ x | .amoand _ b v z _ _ x | .amoor _ b v z _ _ x | .amoxor _ b v z _ _ x | .amomin _ b v z _ _ x
  | .amomax _ b v z _ _ x | .amoswp _ b v z _ _ x | .amocas _ b v z _ _ x => s.queues b v x (if z = 1 then 8 else 4) 3
  | .vamoor d b v _ x | .vamoadd d b v _ x => s.blockQueues d b v x
  | .barriv _ b v _ x | .barwait _ b v _ x | .barinit _ b v _ x =>
      s.queuedAddress b v x 8 < 2 ^ 57 ∧ s.queuedAddress b v x 8 % 8 = 0 ∧ s.entriesHeld s.cur.task s.cur.core < 2048
  | .sfbind _ a _ => s.readsSpad (reg a % 2 ^ 32) 96 32 5 fun bytes _ =>
      let record := (List.range 12).map fun i => BitVec.ofNat 64 (leNat ((bytes.drop (8 * i)).take 8))
      recReserved record = false ∧ recIllegal record = false
  | .sfgo a b _ => ∃ n, s.streamLive (s.streamOf (s.me.reg a.toNat)) = some n ∧
      s.runBad n ((s.stream n).runs + (s.streamRuns s.cur.task n).length) (s.stream n) = false ∧ s.timingFail 5 (reg b) = none
  | .sfstat _ a sel => ∃ n, s.streamOf (s.me.reg a.toNat) = some n ∧ sel.toNat ≤ 6
  | .sfrel a => ∃ n, s.streamLive (s.streamOf (s.me.reg a.toNat)) = some n ∧ s.streamRuns s.cur.task n = []
  | .sfmash a b => ∃ n, let st := s.stream n
      s.streamOf (s.me.reg a.toNat) = some n ∧ (reg b % 256 < 8 ∨ reg b % 256 = 0xFF) ∧
        s.billFits s.cur.task st (s.tape s.myTask.ctx (st.handle.toNat % 2 ^ 16)).format.toNat (reg b % 256) = true
  | .qdim .. | .qidx .. | .qstr _ | .qdir .. | .qscr .. | .qscrShift _ => True
  | .qgen .. =>
      let u := s.me.seq
      s.draws (fun _ => u.dim.toNat) fun l => (u.off.toNat + u.idx.toNat + l * u.str.toNat) % 2 ^ 32
  | .qgenv .. =>
      let u := s.me.seq
      s.draws (fun l => (u.dim.toNat + l) % 256) fun _ => (u.off.toNat + u.idx.toNat) % 2 ^ 32
  | .qsave d a b | .qload d a b => s.sequenceMoves d a b
  | .klaunch a _ => s.launches (s.me.reg a.toNat)
  | .klaunchc a b _ => s.me.reg b.toNat = 0 ∨ s.launches (s.me.reg a.toNat)
  | .gsig .. | .qsync _ | .gprio _ | .garg .. => True
  | _ => False

/-! ### The events of the device's own (25) -/

/-- An instruction is the table's row of an event. -/
def Event.isRow (e : Event) (i : Instr) : Prop :=
  match e with
  | .schedulerDecision => i = .schedulerDecision
  | .priorityAging => i = .priorityAging
  | .condNodeComplete id => i = .condNodeComplete id
  | .copyNodeComplete id => i = .copyNodeComplete id
  | .preemptFreeze t => i = .preemptFreeze t
  | .preemptSave t => i = .preemptSave t
  | .taskEndCloses t => i = .taskEndCloses t
  | .taskEnd t => i = .taskEnd t
  | .kernelNodeComplete t => i = .kernelNodeComplete t
  | .nowLaunchArrival t id => i = .nowLaunchArrival t id
  | .qsyncComplete t id => i = .qsyncComplete t id
  | .wheelGroupIssue t => i = .wheelGroupIssue t
  | .powerGateExit t => i = .powerGateExit t
  | .engineCommandStart t c e => i = .engineCommandStart t c e
  | .copyPerform t c e => i = .copyPerform t c e
  | .copySuspend t c e => i = .copySuspend t c e
  | .copyReplayCaughtUp t c e => i = .copyReplayCaughtUp t c e
  | .sequenceEnginePerform t c => i = .sequenceEnginePerform t c
  | .timedWritePerform t id => i = .timedWritePerform t id
  | .walkerLeafWritePerform t id => i = .walkerLeafWritePerform t id
  | .wbfillComplete t c id => i = .wbfillComplete t c id
  | .planeLoadComplete t c id => i = .planeLoadComplete t c id
  | .mmaInputStart t c id => i = .mmaInputStart t c id
  | .mmaRowPerform t c id => i = .mmaRowPerform t c id
  | .accumulatorWritePerform t c id => i = .accumulatorWritePerform t c id
  | .tableOperationPerform t id => i = .tableOperationPerform t id
  | .headCloseTableWrite t id => i = .headCloseTableWrite t id
  | .headWritePerform t id => i = .headWritePerform t id
  | .hwaitComplete t id => i = .hwaitComplete t id
  | .headRefillFetch t => i = .headRefillFetch t
  | .sfbindPerform t id => i = .sfbindPerform t id
  | .streamRunPerform t c => i = .streamRunPerform t c
  | .sfrelPerform t id => i = .sfrelPerform t id
  | .streamDeadlineFault t c e => i = .streamDeadlineFault t c e
  | .queuedLoadPerform id => i = .queuedLoadPerform id
  | .queuedWritePerform id => i = .queuedWritePerform id
  | .atomicPerform id => i = .atomicPerform id
  | .barrierPerform id => i = .barrierPerform id
  | .fencecComplete id => i = .fencecComplete id
  | .scfenceComplete id => i = .scfenceComplete id
  | .translationWalk id => i = .translationWalk id
  | .serviceTimeout t => i = .serviceTimeout t
  | .timelineFill t ch w => i = .timelineFill t ch w
  | .timelineStream t ch w => i = .timelineStream t ch w
  | .timelineRefpb t ch w => i = .timelineRefpb t ch w
  | .timelineRefab t ch w => i = .timelineRefab t ch w
  | .forcedRefresh ch bank => i = .forcedRefresh ch bank
  | .guardedRefresh t ch bank => i = .guardedRefresh t ch bank
  | .longStallPrecharge t => i = .longStallPrecharge t
  | .patrolScrub ch bank row found => i = .patrolScrub ch bank row found
  | .tierEviction => i = .tierEviction
  | .pageMoveComplete ctx va => i = .pageMoveComplete ctx va
  | .recallTimeout g => i = .recallTimeout g
  | .retrainComplete port => i = .retrainComplete port
  | .rateChange t k => i = .rateChange t k
  | .clockSwallow t => i = .clockSwallow t
  | .powerHold => i = .powerHold
  | .powerHoldEnd t => i = .powerHoldEnd t

/-- A bundle's header word (02 R26). -/
def headerWord (h : Header) : BitVec 32 :=
  (0xF : BitVec 4) ++ (if h.mark then 1 else 0 : BitVec 1) ++ (if h.wheel then 1 else 0 : BitVec 1) ++ (0 : BitVec 2) ++
    h.e1 ++ h.e2 ++ h.e3

/-- An instruction's word that takes the byte that a header lends its slot: the byte of its encoding, or zero. -/
def lends (x : Ext) (e : Byte) : Prop := x = some e ∨ x = none ∧ e = 0

/-- What a slot under a header reads as: the instruction, or where its encoding names no byte the one with the byte zero. -/
def readsAs (i j : Instr) (x : Ext) (w : BitVec 32) : Prop := j = i ∨ x = none ∧ j.encode = some (some 0, w)

/-! ### What an event changes -/

/-- The scalar registers, the predicates, the tiles and the PC of a core are the same. -/
def Core.sameRegisters (k q : Core) : Prop := q.s = k.s ∧ q.p = k.p ∧ q.tiles = k.tiles ∧ q.pc = k.pc

/-- Nothing but task `t` has changed. -/
def State.onlyTask (s u : State) (t : Nat) : Prop := u = { s with tasks := u.tasks } ∧ ∀ j, j ≠ t → u.task j = s.task j

/-- Nothing but core `c` of task `t` has changed. -/
def State.onlyCore (s u : State) (t c : Nat) : Prop :=
  s.onlyTask u t ∧ u.task t = { s.task t with cores := (u.task t).cores } ∧ ∀ d, d ≠ c → u.core t d = s.core t d

/-- Task `t` has raised one trap more and nothing else has changed. -/
def State.raisesOne (s u : State) (t : Nat) (tr : Trap) : Prop :=
  s.onlyTask u t ∧ u.task t = { s.task t with raised := (s.task t).raised ++ [tr] }

/-- A task has changed in nothing but the marks that a write leaves on loads which a rollback may issue again (15 R280). -/
def State.sameTask (s u : State) (t : Nat) : Prop := u.task t = { s.task t with loadMarks := (u.task t).loadMarks }

/-- The result of instruction `id` is not overtaken in its register by that of a later one (03 R65). -/
def State.resultStands (s : State) (t c id reg : Nat) : Prop :=
  reg ≠ 0 ∧ get (s.core t c).timedSeq 0 reg ≤ id ∧ get (s.core t c).loadSeq 0 reg ≤ id

/-- A node's record is in order, one arrival short, not live, and its queue has room (16 R284, R288). -/
def State.becomesReady (s : State) (ctx addr : Nat) (w : List Word) : Prop :=
  s.readNode ctx addr = some w ∧ s.recordBad ctx w = false ∧ recPend w ≤ 1 ∧ s.liveNode ctx addr = false ∧
    (s.ready.filter (·.queue = recQueue w)).length < 4096

/-- The instance that an arrival makes ready (16 R288). -/
def State.readyAt (s : State) (ctx addr : Nat) (w : List Word) (prio : Nat) : Ready :=
  ⟨ctx, addr, recQueue w, prio, s.gcyc, s.gcyc, 0, none⟩

/-- An entry with one reader more, on physical core `me` (08 R152, R156). -/
def TapeEntry.read (e : TapeEntry) (me : Nat) : TapeEntry :=
  { e with
    readers := e.readers + 1
    rcore := if e.readers = 0 then BitVec.ofNat 10 me else e.rcore
    rmulti := e.readers ≠ 0 && (e.rmulti || e.rcore.toNat ≠ me) }

/-- Of the device's tape-table entries exactly one has taken a new value. -/
def State.oneTape (s u : State) (ctx i : Nat) (e : TapeEntry) : Prop :=
  ∀ c j, u.tape c j = if c = ctx ∧ j = i then e else s.tape c j

/-- `n` bytes at virtual address `d`, from the beginning of their first line on, lie at the physical ones from `p` on, whatever they
hold. -/
def State.mapsTo (s : State) (ctx d n p : Nat) : Prop :=
  p % 64 = d % 64 ∧ ∀ m : Memory, (∀ a, a < p ∨ p + n ≤ a → Memory.byte m a = Memory.byte s.mem a) →
    ∀ b, 64 * (d / 64) ≤ b → b < d + n → State.physOf { s with mem := m } ctx b = some (b + p - d)

/-! ### Bundles that commit -/

/-- The bundles about to commit have raised no trap, no read of theirs came before a copy of the same dc, and they pass no limit of the
rollback (02 R23, 09 R194, 15 R279). -/
def State.commits (s : State) (t : Nat) : Prop :=
  (s.task t).raised = [] ∧ s.traps = [] ∧ s.lateReads t = [] ∧ s.overflowTraps t = []

/-! ### The queued path -/

/-- What the atomic operations make of a word: its old value, the operand, and the second operand of a compare (13 R254, R256). -/
def atomicRows : List (Nat × ((w : Nat) → BitVec w → BitVec w → BitVec w → BitVec w)) := [
  (0, fun _ o v _ => o + v),
  (1, fun _ o v _ => o &&& v),
  (2, fun _ o v _ => o ||| v),
  (3, fun _ o v _ => o ^^^ v),
  (4, fun _ o v _ => if o.toInt ≤ v.toInt then o else v),
  (5, fun _ o v _ => if o.toInt ≤ v.toInt then v else o),
  (6, fun _ _ v _ => v),
  (7, fun _ o v x => if o = v then x else o)]

/-- The row in which an access that is no fence performs (13 R249 to R258). -/
def QAcc.performsAs (a : QAcc) (i : Instr) : Prop :=
  if a.kind.isLoad then i = .queuedLoadPerform a.id else if a.kind.isStore then i = .queuedWritePerform a.id
  else if a.kind.isAtomic then i = .atomicPerform a.id else i = .barrierPerform a.id

/-! ### Memory -/

/-- The bytes that `n` bytes at `a` do not cover read as before. -/
def State.sameOutside (s t : State) (a n : Nat) : Prop :=
  ∀ b, b < a ∨ a + n ≤ b → Memory.byte t.mem b = Memory.byte s.mem b

end Sys2Proof.Machine
end

