-- ==== Sys2Proof/Certificates/Slice0/Obligations.lean ====
section
/-!
DEFINITION. The statements for the provers: what reset leaves, how a step runs an instruction, what each family of slot
instructions owes or queues, what every kind of event changes, and what no step changes.
-/

open Sys2Proof Sys2Proof.Machine

/-! ### Class SCAL and SIMM -/

/-- 04 R66 to R71, R73: a SCAL operation whose gate is open writes its result at its latency and does nothing else: the operations
on two scalars, and CLZ, POPC, SEL and SFROMP. Completes: add, sub, addw, subw, mul, mulh, mulhu, div, divu, rem, remu, and, or,
xor, andn, shl, shr, sra, min, max, minu, maxu, clz, popc, sel, sfromp. -/
def Obligations.ScalarResults : Prop :=
  (∀ r ∈ scalarRows, ∀ (d a b : BitVec 5) (p : BitVec 4) (i : BitVec 1) (s : State), s.gateOpen p i →
     exec (r.op d a b p i) s =
       .next (s.scalarResult r.latency d (r.result (s.me.reg a.toNat) (s.me.reg b.toNat)))) ∧
  (∀ (d a b : BitVec 5) (h : BitVec 1) (p : BitVec 4) (i : BitVec 1) (s : State),
     (s.gateOpen p i → exec (.clz d a p i) s = .next (s.scalarResult 1 d (BitVec.ofNat 64
       ((List.range 64).takeWhile fun j => !(s.me.reg a.toNat).getLsbD (63 - j)).length))) ∧
     (s.gateOpen p i → exec (.popc d a p i) s = .next (s.scalarResult 1 d (BitVec.ofNat 64
       ((List.range 64).filter fun j => (s.me.reg a.toNat).getLsbD j).length))) ∧
     (s.gateOpen p i → exec (.sel d a b p i) s = .next (s.scalarResult 1 d (s.me.reg a.toNat))) ∧
     (¬s.gateOpen p i → exec (.sel d a b p i) s = .next (s.scalarResult 1 d (s.me.reg b.toNat))) ∧
     (s.gateOpen p i → exec (.sfromp d a h p i) s = .next (s.scalarResult 1 d
       (if h = 0 then (s.me.pred a.toNat).extractLsb' 0 64 else (s.me.pred a.toNat).extractLsb' 64 64))))

/-- 04 R73: the predicate operations whose gate is open write all 128 lanes of p1 to p11; p0 is written by nothing. Completes: peq,
pne, plt, pltu, pand, por, pxor, pandn, pmov, pfrom. -/
def Obligations.PredicateOperationResults : Prop :=
  ∀ (d a b : BitVec 5) (p : BitVec 4) (i : BitVec 1) (s : State), s.gateOpen p i →
    let A := s.me.reg a.toNat
    let B := s.me.reg b.toNat
    let P := s.me.pred a.toNat
    let Q := s.me.pred b.toNat
    let write (v : Pred) : Out := .next (if d = 0 then s else s.predResult d v)
    exec (.peq d a b p i) s = write (everyLane (A = B)) ∧
    exec (.pne d a b p i) s = write (everyLane (A ≠ B)) ∧
    exec (.plt d a b p i) s = write (everyLane (A.toInt < B.toInt)) ∧
    exec (.pltu d a b p i) s = write (everyLane (A.toNat < B.toNat)) ∧
    exec (.pand d a b p i) s = write (P &&& Q) ∧
    exec (.por d a b p i) s = write (P ||| Q) ∧
    exec (.pxor d a b p i) s = write (P ^^^ Q) ∧
    exec (.pandn d a b p i) s = write (P &&& ~~~Q) ∧
    exec (.pmov d a p i) s = write P ∧
    exec (.pfrom d a b p i) s = write (B ++ A)

/-- 04 R70, R72, R73, R67: the immediate forms always execute; the ext byte of a header stands in front of the immediate. Completes:
addi, muli, andi, ori, xori, shli, shri, srai, lim, limh, peqi, plti, pltui. -/
def Obligations.ImmediateResults : Prop :=
  ∀ (d a : BitVec 5) (s : State),
    let A := s.me.reg a.toNat
    (∀ r ∈ immRows, ∀ (i : BitVec 12) (x : Ext),
      exec (r.op d a i x) s = .next (s.scalarResult r.latency d (r.result A (signedImm x i)))) ∧
    (∀ r ∈ shiftRows, ∀ c : BitVec 6, exec (r.op d a c) s = .next (s.scalarResult 1 d (r.result A c.toNat))) ∧
    (∀ (i : BitVec 17) (x : Ext), exec (.lim d i x) s = .next (s.scalarResult 1 d (signedImm x i))) ∧
    (∀ (i : BitVec 17) (x : Ext), exec (.limh d i x) s =
      .next (s.scalarResult 1 d (s.me.reg d.toNat <<< 25 ||| unsignedImm x i))) ∧
    (∀ (i : BitVec 12) (x : Ext), d ≠ 0 →
      exec (.peqi d a i x) s = .next (s.predResult d (everyLane (A = signedImm x i))) ∧
      exec (.plti d a i x) s = .next (s.predResult d (everyLane (A.toInt < (signedImm x i).toInt))) ∧
      exec (.pltui d a i x) s = .next (s.predResult d (everyLane (A.toNat < (unsignedImm x i).toNat)))) ∧
    (∀ (i : BitVec 12) (x : Ext),
      exec (.peqi 0 a i x) s = .next s ∧ exec (.plti 0 a i x) s = .next s ∧ exec (.pltui 0 a i x) s = .next s)

/-- 04 R70, R73: a SCAL slot whose gate is false writes nothing and changes nothing; NOP (02 R32), and MWAIT once its bundle issues
(07 R148), complete and change nothing. Completes: nop, mwait. -/
def Obligations.ClosedGatesAndNopsChangeNothing : Prop :=
  (∀ (d a b : BitVec 5) (h : BitVec 1) (p : BitVec 4) (i : BitVec 1) (s : State), ¬s.gateOpen p i →
     (∀ r ∈ scalarRows, exec (r.op d a b p i) s = .next s) ∧
     (∀ j ∈ [Instr.clz d a p i, .popc d a p i, .peq d a b p i, .pne d a b p i, .plt d a b p i, .pltu d a b p i,
       .pand d a b p i, .por d a b p i, .pxor d a b p i, .pandn d a b p i, .pmov d a p i, .pfrom d a b p i,
       .sfromp d a h p i], exec j s = .next s)) ∧
  (∀ (s : State) (z : BitVec 5) (w : BitVec 4) (f : BitVec 3), exec .nop s = .next s ∧ exec (.mwait z w f) s = .next s)

/-! ### Class CTRL -/

/-- 04 R74, R75: a taken transfer makes the bundle at its target the next to issue, CALL writes s31, and a branch whose lane 0 does not
select it falls through; RET goes to s31 if that directly follows a bundle that holds CALL, JR to s[a] + sext(imm12, 12) if that is a
restart bundle, both inside the text, and any other target is the jump-target trap at issue; the sum of JR is exact (log 20). R83, R84:
TRAP raises the program trap with imm12 as its code and owes nothing, BRK owes its breakpoint to the commit of its bundle; with TWIN.EN
= 0, or without a difference, TWINCMP has no effect; a difference adds one to TWIN.MISMATCHES, which saturates at 0xFFFF, when
TWIN.COUNT = 1 and raises the twin-mismatch trap, which names the first difference and both values, when TWIN.COUNT = 0; a tile that is
compared and holds a double-bit error raises the SRAM-error trap (17 R303). Completes: br, brp, brnp, call, ret, jr, trap, brk, twincmp,
twincmpTile. -/
def Obligations.TransfersTrapsAndTwinCompares : Prop :=
  (∀ (o : BitVec 22) (q : BitVec 18) (p : BitVec 4) (s : State),
     let goes (off : Int) : Nat := (((s.me.pc : Int) + off) % (2 ^ 32 : Nat)).toNat
     exec (.br o) s = .next (s.issue 0 (.pc (goes o.toInt))) ∧
     exec (.brp p q) s =
       .next (if (s.me.pred p.toNat).getLsbD 0 then s.issue 0 (.pc (goes q.toInt)) else s) ∧
     exec (.brnp p q) s =
       .next (if (s.me.pred p.toNat).getLsbD 0 then s else s.issue 0 (.pc (goes q.toInt))) ∧
     exec (.call o) s =
       .next (s.issueAll [(0, .pc (goes o.toInt)), (1, .scalar 31 (BitVec.ofNat 64 (s.me.pc + 1)))])) ∧
  (∀ (a : BitVec 5) (i : BitVec 12) (s : State),
     let v := (s.me.reg 31).toNat
     let u : Int := (s.me.reg a.toNat).toNat + i.toInt
     (s.mayReturn v → exec .ret s = .next (s.issue 0 (.pc (v % 2 ^ 32)))) ∧
     (¬s.mayReturn v → ∃ f : Trap → Trap, exec .ret s = .next (s.trap 2 0 f)) ∧
     (s.mayJump u → exec (.jr a i) s = .next (s.issue 0 (.pc (u.toNat % 2 ^ 32)))) ∧
     (¬s.mayJump u → ∃ f : Trap → Trap, exec (.jr a i) s = .next (s.trap 2 0 f))) ∧
  (∀ (i : BitVec 12) (s : State),
     exec (.trap i) s = .next (s.trap 3 0 fun tr => { tr with imm := i }) ∧
     exec (.brk i) s = .next (s.issue 0 (.brk i))) ∧
  (∀ (s : State) (i : Instr) (differs : Prop) (named : Nat → Nat → Word → Word → Prop),
     (∃ a : BitVec 5, i = .twincmp a ∧ (differs ↔ s.me.reg a.toNat ≠ s.me.reg (a.toNat + 16)) ∧
       ∀ n place x y, named n place x y ↔ n = a.toNat ∧ place = 0 ∧ x = s.me.reg a.toNat ∧ y = s.me.reg (a.toNat + 16)) ∨
     (∃ k : BitVec 6, let one (r l : Nat) : Lane := lane (s.me.tileRow k.toNat r) l
       let two (r l : Nat) : Lane := lane (s.me.tileRow (k.toNat + 40) r) l
       i = .twincmpTile k ∧ (∀ r < 16, (0, 16 * k.toNat + r) ∉ s.me.sram ∧ (0, 16 * (k.toNat + 40) + r) ∉ s.me.sram) ∧
          (differs ↔ ∃ r < 16, ∃ l < 128, one r l ≠ two r l) ∧
       ∀ n place x y, named n place x y ↔ n = k.toNat ∧ ∃ r < 16, ∃ l < 128, one r l ≠ two r l ∧ place = r + l * 2 ^ 8 ∧
         x = (one r l).setWidth 64 ∧ y = (two r l).setWidth 64 ∧
         ∀ r' < 16, ∀ l' < 128, r' < r ∨ r' = r ∧ l' < l → one r' l' = two r' l') →
     (s.me.twin.getLsbD 0 = false ∨ ¬differs → exec i s = .next s) ∧
     (s.me.twin.getLsbD 0 = true → differs → s.me.twin.getLsbD 1 = true → ∃ v : Word,
       exec i s = .next (s.issue 0 (.twin v)) ∧
       (v.extractLsb' 16 16).toNat = min 0xFFFF ((s.me.twin.extractLsb' 16 16).toNat + 1) ∧
       v.getLsbD 0 = true ∧ v.getLsbD 1 = true) ∧
     (s.me.twin.getLsbD 0 = true → differs → s.me.twin.getLsbD 1 = false → ∃ n place x y, named n place x y ∧
       exec i s = .next (s.trap 0x14 0 fun tr => { tr with
         d7 := BitVec.ofNat 64 n, d8 := BitVec.ofNat 64 place, d9 := x, d10 := y }))) ∧
  (∀ (k : BitVec 6) (s : State),
     (s.me.twin.getLsbD 0 = false → exec (.twincmpTile k) s = .next s) ∧
     (s.me.twin.getLsbD 0 = true → (∃ r < 16, (0, 16 * k.toNat + r) ∈ s.me.sram ∨ (0, 16 * (k.toNat + 40) + r) ∈ s.me.sram) →
       ∃ f : Trap → Trap, exec (.twincmpTile k) s = .next (s.trap 0x1B 0 f)))

/-- 04 R76, R77: LOOPI opens a loop of s[a][31:0] iterations; LOOP moves the stage predicates on, rotates the base registers, counts
the pass and branches while passes are left. Completes: loopi, loop. -/
def Obligations.LoopsOpenAndEndPasses : Prop :=
  (∀ (a : BitVec 5) (stages : BitVec 2) (brot : BitVec 3) (s : State),
     let n := (s.me.reg a.toNat).toNat % 2 ^ 32
     ∃ lc : Word, exec (.loopi a stages brot) s = .next (s.issueAll [(1, .pred 8 ones (if 0 < n then ones else 0)),
       (1, .pred 9 ones 0), (1, .pred 10 ones 0), (1, .pred 11 ones 0), (0, .lc lc)]) ∧
       lcPasses lc = (if 0 < n then n + stages.toNat else 1) ∧ lcBrot lc = brot.toNat ∧ lcStages lc = stages.toNat ∧
       lc.toNat < 2 ^ 39) ∧
  (∀ (o : BitVec 22) (s : State),
     let k := s.me
     let left := lcPasses k.lc - 1
     let rot := lcBrot k.lc + 1
     ∃ lc : Word, exec (.loop o) s = .next (s.issueAll (
       [(1, .pred 11 ones (k.pred 10)), (1, .pred 10 ones (k.pred 9)), (1, .pred 9 ones (k.pred 8)),
         (1, .pred 8 ones (if lcStages k.lc + 1 ≤ left then ones else 0))] ++
       (List.range rot).map (fun i => (0, .base i (k.base (((i : Int) - 1) % rot).toNat))) ++ [(0, .lc lc)] ++
       if left = 0 then [] else [(0, .pc (((k.pc : Int) + o.toInt) % (2 ^ 32 : Nat)).toNat)])) ∧
       lcPasses lc = left ∧ lcBrot lc = lcBrot k.lc ∧ lcStages lc = lcStages k.lc)

/-- 04 R78, R79, R80: WAITC, FMTSET, FMTGET and HALT; an image set at dc n is in force from n + 5 and not before. Completes: waitc,
fmtset, fmtget, halt. -/
def Obligations.WaitFormatAndHalt : Prop :=
  (∀ (d a : BitVec 5) (i : BitVec 12) (c : BitVec 2) (f : BitVec 1) (r : BitVec 2) (o act e : BitVec 4) (s : State),
     exec (.waitc a i) s =
       .next (s.issue 0 (.waitUntil (max (s.dc + 1) ((s.me.reg a.toNat).toNat + i.toNat)))) ∧
     exec (.fmtset c f r o act e) s =
       .next (s.issue 0 (.fmt ((0 : BitVec 4) ++ c ++ (0 : BitVec 1) ++ f ++ r ++ o ++ act ++ e))) ∧
     exec (.fmtget d) s = .next (s.scalarResult 1 d ((s.me.fmtAt s.dc).zeroExtend 64)) ∧
     exec .halt s = .next (s.issue 0 .halt)) ∧
  (∀ (k : Core) (n m : Nat) (image : BitVec 22), (∀ e ∈ k.fmtNext, e.1 ≤ n) → n ≤ m →
     (k.setFmt n image).fmtAt m = if n + 5 ≤ m then image else k.fmtAt m)

/-! ### Class SYS -/

/-- 04 R81, R69, R82, R85, R86, 02 R31: CSRR reads the register that its number names, and a read of GCYC adds a clock-read event;
the counters, DETN and DGST; CSRW, CSRS and CSRC give s[d] the old value and write LC, FRPTR or TWIN in the bits that are RW; the
others keep their value. Completes: csrr, csrw, csrs, csrc, rdcyc, rdgcy, rdwhl, detn, dgst, dgstFold. -/
def Obligations.SpecialRegistersReadAndWrite : Prop :=
  (∀ (d : BitVec 5) (s : State),
     let k := s.me
     let read (v : Word) : Out := .next (s.scalarResult 1 d v)
     exec (.csrr d 0x000) s = read ((k.fmtAt s.dc).zeroExtend 64) ∧
     exec (.csrr d 0x001) s = read k.cmpat ∧
     exec (.csrr d 0x002) s = read k.lc ∧
     exec (.csrr d 0x003) s = read (BitVec.ofNat 64 s.dc) ∧
     exec (.csrr d 0x004) s = .next ((s.scalarResult 1 d (BitVec.ofNat 64 s.gcyc)).issue 0 (.detc 0x0B)) ∧
     exec (.csrr d 0x005) s = read k.wheelmap ∧
     exec (.csrr d 0x006) s = read k.dgst ∧
     exec (.csrr d 0x007) s = read (k.tallocmap.extractLsb' 0 64) ∧
     exec (.csrr d 0x008) s = read ((k.tallocmap.extractLsb' 64 16).zeroExtend 64) ∧
     exec (.csrr d 0x009) s = read k.frptr ∧
     exec (.csrr d 0x00A) s = read k.twin ∧
     ∀ i < 16, exec (.csrr d (BitVec.ofNat 12 (0x010 + i))) s = read (get k.detc 0 i)) ∧
  (∀ (d a : BitVec 5) (c : BitVec 8) (s : State),
     let clock : Out := .next ((s.scalarResult 1 d (BitVec.ofNat 64 s.gcyc)).issue 0 (.detc 0x0B))
     exec (.rdcyc d) s = .next (s.scalarResult 1 d (BitVec.ofNat 64 s.dc)) ∧
     exec (.rdgcy d) s = clock ∧ exec (.rdwhl d) s = clock ∧
     exec (.detn d c) s = .next (s.scalarResult 1 d (BitVec.ofNat 64 (((List.range 16).filter fun i =>
       c = 0 || (get s.me.detc 0 i).extractLsb' 0 8 = c).map fun i => ((get s.me.detc 0 i).extractLsb' 8 24).toNat).sum)) ∧
     exec (.dgst d) s = .next ((s.scalarResult 1 d s.me.dgst).issue 0 (.dgst true 0)) ∧
     exec (.dgstFold a) s = .next (s.issue 0 (.dgst false (s.me.reg a.toNat)))) ∧
  (∀ (d a : BitVec 5) (s : State) (c : BitVec 12) (old : Word) (eff : Word → Eff) (rw : Nat → Bool),
     (c = 0x002 ∧ old = s.me.lc ∧ eff = .lc ∧ rw = (fun i => i ≤ 38)) ∨
     (c = 0x009 ∧ old = s.me.frptr ∧ eff = .frptr ∧ rw = (fun i => 7 ≤ i && i ≤ 56)) ∨
     (c = 0x00A ∧ old = s.me.twin ∧ eff = .twin ∧ rw = (fun i => i ≤ 1 || (16 ≤ i && i ≤ 31))) →
     let A := s.me.reg a.toNat
     ∀ j v, (j, v) ∈ [(Instr.csrw d a c, A), (.csrs d a c, old ||| A), (.csrc d a c, old &&& ~~~A)] →
       ∃ new : Word, exec j s = .next ((s.scalarResult 1 d old).issue 0 (eff new)) ∧
         ∀ i < 64, new.getLsbD i = if rw i then v.getLsbD i else old.getLsbD i)

/-- 04 R87, R88, R89: the fences take their place in the core's queue, FENCEC and an SCFENCE at sys scope with a destination.
Completes: fence, fencec, scfence. -/
def Obligations.FencesQueue : Prop :=
  ∀ (d : BitVec 5) (c : BitVec 2) (s : State) (i : Instr) (kind : QKind) (dest : Nat),
    (i, kind, dest) ∈ [(Instr.fence c, QKind.fence, 0), (.fencec d c, .fencec, d.toNat),
      (.scfence d c, .scfence, if c = 3 then d.toNat else 0)] →
    ∃ t q, exec i s = .next t ∧ s.queuesOne t q ∧ q.kind = kind ∧ q.scope = c.toNat ∧ q.dest = dest ∧
      q.task = s.cur.task ∧ q.core = s.cur.core ∧ q.pc = s.me.pc ∧ q.slot = s.cur.slot ∧ s.gcyc + 16 ≤ q.due

/-! ### Class ROW and ROWX -/

/-- 06 R120, 01 R10: what the sources that pop nothing deliver, the zero row, a broadcast, Q and p0 to p11, and a cursor's row, with the
cursor's step owed to the commit; a row in a tile that is not allocated is tile trap 0x1 (06 R112).  That a broadcast without an
extension byte is of s0 is the model's choice (log 94). -/
def Obligations.RowSourcesDeliver : Prop :=
  ∀ (x : Ext) (f : Nat) (s : State),
    s.delivers 0x20 x f Row.zero s ∧
    s.delivers 0x21 x f (List.replicate 128 ((s.me.reg ((x.getD 0).toNat % 32)).setWidth 32)) s ∧
    s.delivers 0x22 x f s.me.seq.q s ∧
    (∀ k < 12, ∀ one, (f, one) ∈ [(0, (1 : Lane)), (1, 1), (2, 1), (3, 1), (10, 1), (9, 1), (4, 0x38), (5, 0x3C), (6, 0x3F80),
        (7, 0x3C00), (8, 0x3F800000)] →
      ∃ r, s.delivers (BitVec.ofNat 6 (0x30 + k)) x f r s ∧ r.length = 128 ∧
        ∀ l < 128, r.getD l 0 = if (s.me.pred k).getLsbD l then one else 0) ∧
    (∀ n < 8, s.me.tallocmap.getLsbD (s.me.cursor n).tile.toNat = true →
      (0, 16 * (s.me.cursor n).tile.toNat + (s.me.cursor n).row.toNat) ∉ s.me.sram →
      s.delivers (BitVec.ofNat 6 (0x18 + n)) x f (s.me.tileRow (s.me.cursor n).tile.toNat (s.me.cursor n).row.toNat)
        (s.issue 0 (.step n))) ∧
    (∀ n < 8, s.me.tallocmap.getLsbD (s.me.cursor n).tile.toNat = false →
      ∃ g : Trap → Trap, (s.readRow (BitVec.ofNat 6 (0x18 + n)) x f).2 = s.trap 9 1 g)

/-- 06 R120, 08 R157: an open read or update head that no MTX command engages delivers grain elements from its position in its
direction, extended to lanes, a lost trit as poison, and zero past the tape, and a read moves the position on by the grain; 09 R177 to
R179: a raw walker
delivers the bytes at base + Σ index × stride, which its core may read, as lanes, and counts up. -/
def Obligations.HeadsAndWalkersDeliver : Prop :=
  (∀ (n : Nat) (x : Ext) (f : Nat) (s : State), n < 16 → s.me.engages true n = false →
     let h := s.me.head n
     let e := s.tape s.myTask.ctx (h.handle.toNat % 2 ^ 16)
     let len : Int := e.length.toNat
     let place (l : Nat) : Int := h.pos.toInt + (if h.back then -(l : Int) else l)
     let elem (i : Int) := s.windowElem s.cur.task s.cur.core n e.base.toNat h.fmt i.toNat
     h.status = .opened → h.mode ≠ .append → 0 ≤ h.pos.toInt → h.pos.toInt < len →
     (∀ l < h.grain, 0 ≤ place l → place l < len → (h.fmt ≠ 9 → (elem (place l)).2 = false) ∧
       (4, 2 ^ 51 * n + (place l).toNat * elemBits h.fmt / 8 / 64) ∉ s.me.sram) →
     ∃ r, s.delivers (BitVec.ofNat 6 n) x f r (s.issue 0 (.head n (if h.mode = .read then
         { h with pos := BitVec.ofInt 64 (h.pos.toInt + if h.back then -(h.grain : Int) else h.grain) } else h))) ∧
       ∀ l < 128, r.getD l 0 = if l < h.grain ∧ 0 ≤ place l ∧ place l < len then
         (if (elem (place l)).2 = true then 2 else extend h.fmt (elem (place l)).1) else 0) ∧
  (∀ (n : Nat) (x : Ext) (f : Nat) (s u : State) (l : List Byte), n < 8 → s.me.engages false n = false →
     let w := s.me.walker n
     let a := (s.me.base (w.cfg.toNat % 8) + w.l0.index * w.l0.stride + w.l1.index * w.l1.stride +
       w.l2.index * w.l2.stride + w.l3.index * w.l3.stride).toNat
     w.loaded = true → w.leaf = false → a % min (widthBytes w.width) 64 = 0 →
     s.readTimed s.cur.task s.cur.core a (widthBytes w.width) 1 0 s.me.pc = .ok (l, u) →
     s.delivers (BitVec.ofNat 6 (0x10 + n)) x f (rowOfBytes w.width l) (u.issue 0 (.walker n w.advance)))

/-- 06 R121: a cursor destination takes the row at the slot's latency in the lanes of the mask and steps at the commit; a raw
walker takes the row's bytes at max(latency, 2), an append head its elements at max(latency, 3), with zero in the lanes left
out. -/
def Obligations.RowDestinationsTake : Prop :=
  ∀ (lat : Nat) (mask : Pred) (row : Row) (s : State),
    (∀ n < 8, s.me.tallocmap.getLsbD (s.me.cursor n).tile.toNat = true →
      s.writeRow (BitVec.ofNat 6 (0x18 + n)) lat mask row =
        (s.issue 0 (.step n)).issue lat (.tileRow (s.me.cursor n).tile.toNat (s.me.cursor n).row.toNat mask row)) ∧
    (∀ n < 8, s.me.engages false n = false →
      let w := s.me.walker n
      let a := s.me.walkerAddr w
      w.loaded = true → w.leaf = false → a % min (widthBytes w.width) 64 = 0 →
      s.myTask.spadFault s.cur.core a (widthBytes w.width) 1 = none →
      s.writeRow (BitVec.ofNat 6 (0x10 + n)) lat mask row =
        (s.issue 0 (.walker n w.advance)).issue (max lat 2) (.spad a (bytesOfRow w.width (blend mask Row.zero row)) 1)) ∧
    (∀ n < 16, s.me.engages true n = false →
      let h := s.me.head n
      let e := s.tape s.myTask.ctx (h.handle.toNat % 2 ^ 16)
      h.status = .opened → h.mode = .append → 0 ≤ h.pos.toInt → h.pos.toInt + h.grain ≤ e.capacity.toNat →
      ∃ elems, s.writeRow (BitVec.ofNat 6 n) lat mask row =
          (s.issue 0 (.head n { h with pos := BitVec.ofInt 64 (h.pos.toInt + h.grain) })).issue (max lat 3)
            (.headWrite h.oid h.handle h.fmt elems false n h.pos) ∧
        elems = (List.range h.grain).map fun (l : Nat) =>
          (h.pos.toInt.toNat + l, if l < 128 ∧ mask.getLsbD l then row.getD l 0 else 0))

/-- 06 R121 to R124, R128, 05 R91, R105: a ROW operation on two sources or on one computes each lane from the elements and owes the
row to its destination; VMOV moves the lanes and VNEG negates trits, integers and floating values. Completes: vadd, vsub, vmul,
vadds, vsubs, vmin, vmax, vand, vor, vxor, vshl, vshr, vsra, vmullo, vmulhi, vabs, vneg, vmov, vpopc, vclz, vrint, vrcp, vrsq,
vexp2, vlog2. -/
def Obligations.RowOperationResults : Prop :=
  (∀ r ∈ rowRows, ∀ (d a b : BitVec 6) (p : BitVec 4) (x : Ext) (s t : State) (ra rb : Row), s.elem ∈ r.formats →
     s.delivers2 a b x s.elem ra rb t → ∃ row : Row, row.length = 128 ∧
       exec (r.op d a b p x) s = .next (t.writeRow d (r.latency s.elem) (s.me.pred p.toNat) row) ∧
       ∀ l < 128, row.getD l 0 = r.lane s.modes s.elem (ra.getD l 0) (rb.getD l 0)) ∧
  (∀ (d a : BitVec 6) (p : BitVec 4) (x : Ext) (s t : State) (ra : Row), s.delivers a x s.elem ra t →
     let gives (i : Instr) (lat : Nat) (f : Lane → Lane) : Prop := ∃ row : Row, row.length = 128 ∧
       exec i s = .next (t.writeRow d lat (s.me.pred p.toNat) row) ∧ ∀ l < 128, row.getD l 0 = f (ra.getD l 0)
     (∀ r ∈ rowRows1, s.elem ∈ r.formats → gives (r.op d a p x) r.latency (r.lane s.modes s.elem)) ∧
     gives (.vmov d a p x) 2 (fun l => l) ∧
     (s.elem = 9 → noPoison (s.me.pred p.toNat) ra → gives (.vneg d a p x) 2 fun l => ((-(elemBV 2 l)).setWidth 32)) ∧
     (s.elem ∈ lettersI → gives (.vneg d a p x) 2 fun l => laneBV (isSignedFmt s.elem) (-(elemBV (elemBits s.elem) l))) ∧
     (s.elem ∈ lettersF → gives (.vneg d a p x) 2 (negLane s.modes s.elem)))

/-- 06 R126, R127, R125: comparisons write the lanes of a predicate two dc later, VSEL all 128 lanes, VMAC adds its product to the
row that its destination cursor points to, where that row holds no SRAM error. Completes: vpeq, vpne, vplt, vple, vsel, vmac. -/
def Obligations.RowComparesSelectsAndAccumulates : Prop :=
  ∀ (d a b : BitVec 6) (p : BitVec 4) (x : Ext) (s t : State) (ra rb : Row), s.delivers2 a b x s.elem ra rb t →
    let mask := s.me.pred p.toNat
    (∀ r ∈ rowTests, s.elem ∈ r.formats → (s.elem = 9 → noPoison mask ra ∧ noPoison mask rb) → ∃ v : Pred,
      exec (r.op d a b p x) s = .next (t.issue 2 (.pred (d.toNat - 0x30) mask v)) ∧
      ∀ l < 128, v.getLsbD l = r.holds s.modes s.elem (ra.getD l 0) (rb.getD l 0)) ∧
    (∃ row : Row, row.length = 128 ∧ exec (.vsel d a b p x) s = .next (t.writeRow d 2 (BitVec.allOnes 128) row) ∧
      ∀ l < 128, row.getD l 0 = if mask.getLsbD l then ra.getD l 0 else rb.getD l 0) ∧
    (s.elem ∈ lettersI ++ lettersF →
      let cu := s.me.cursor (d.toNat - 0x18)
      (s.me.tallocmap.getLsbD cu.tile.toNat = true → (0, 16 * cu.tile.toNat + cu.row.toNat) ∉ s.me.sram) →
      ∃ row : Row, row.length = 128 ∧ exec (.vmac d a b p x) s = .next (t.writeRow d 5 mask row) ∧
      ∀ l < 128,
        let A := ra.getD l 0
        let B := rb.getD l 0
        let C := (s.me.tileRow cu.tile.toNat cu.row.toNat).getD l 0
        row.getD l 0 =
          if s.elem ∈ lettersF then
            let m := s.modes
            m.res s.elem (fmaNum (m.forFmt s.elem) (m.val s.elem A) (m.val s.elem B) (m.val s.elem C))
          else laneBV (isSignedFmt s.elem) (elemBV (elemBits s.elem) A * elemBV _ B + elemBV _ C))

/-- 06 R129 in I formats: every lane takes the exact sum of the lanes that the predicate selects, modulo 2^32, or the greatest
or the least of them, and zero where none is selected; in F formats the root N(7, 0) of the tree of 05 R111 over the lanes after
Flush(), each node rounded to ELEM and flushed, an absent child leaving the other, and zero where every lane is absent.  A destination
takes the row by RowDestinationsTake.  Completes: vrsum, vrmax, vrmin. -/
def Obligations.RowReductions : Prop :=
  ∀ (d a : BitVec 6) (p : BitVec 4) (x : Ext) (s t : State) (ra : Row), s.delivers a x s.elem ra t →
    let on (l : Nat) : Bool := (s.me.pred p.toNat).getLsbD l
    let v (l : Nat) : Int := intBV (isSignedFmt s.elem) (elemBV (elemBits s.elem) (ra.getD l 0))
    let gives (i : Instr) (r : Lane) : Prop :=
      exec i s = .next (t.writeRow d 8 (BitVec.allOnes 128) (List.replicate 128 r))
    let best (i : Instr) (le : Int → Int → Prop) : Prop :=
      ((∀ l < 128, on l = false) → gives i 0) ∧
      ∀ k < 128, on k = true → (∀ l < 128, on l = true → le (v l) (v k)) →
        gives i (laneBV (isSignedFmt s.elem) (BitVec.ofInt (elemBits s.elem) (v k)))
    (s.elem ∈ lettersI →
      gives (.vrsum d a p x) (BitVec.ofInt 32 (((List.range 128).map fun l => if on l then v l else 0).sum)) ∧
      best (.vrmax d a p x) (fun u w => u ≤ w) ∧ best (.vrmin d a p x) (fun u w => w ≤ u)) ∧
    (s.elem ∈ lettersF → ∀ (i : Instr) (op : Machine.Num → Machine.Num → Machine.Num),
      (i, op) ∈ [(Instr.vrsum d a p x, addNum (s.modes.forFmt s.elem)), (.vrmax d a p x, maxNum), (.vrmin d a p x, minNum)] →
      let m := s.modes
      let leaf (l : Nat) : Option Machine.Num := if on l then some (m.val s.elem (ra.getD l 0)) else none
      let rounded (u w : Machine.Num) : Machine.Num := floatValue s.elem m.flush (toFloat m s.elem false (op u w))
      (treeNode leaf rounded 7 0 = none → gives i 0) ∧
      ∀ root, treeNode leaf rounded 7 0 = some root → gives i (m.res s.elem root))

/-- 06 R124, R132, 05 R91: the operations that move lanes, in every format but TRIT; each element is extended in its lane.
Completes: vperm, vlsh, vbcst, vextr, vinsr. -/
def Obligations.RowMoves : Prop :=
  ∀ (d a b : BitVec 6) (p : BitVec 4) (x : Ext) (s t : State) (ra rb : Row), s.elem ≠ 9 →
    let gives (i : Instr) (mask : Pred) (f : Nat → Lane) : Prop := ∃ row : Row, row.length = 128 ∧
      exec i s = .next (t.writeRow d 3 mask row) ∧ ∀ l < 128, row.getD l 0 = f l
    let mask := s.me.pred p.toNat
    let from' (k : Nat) : Lane := laneBV (isSignedFmt s.elem) (elemBV (elemBits s.elem) (ra.getD k 0))
    (s.delivers2 a b x s.elem ra rb t →
      gives (.vperm d a b p x) mask (fun l => from' ((rb.getD l 0).toNat % 128)) ∧
      gives (.vlsh d a b p x) mask (fun l =>
        let k : Int := l - ((rb.getD 0 0).setWidth 8).toInt
        if 0 ≤ k ∧ k ≤ 127 then from' k.toNat else 0) ∧
      gives (.vbcst d a b p x) mask (fun _ => from' ((rb.getD 0 0).toNat % 128))) ∧
    (s.delivers a x s.elem ra t → ∀ (i : BitVec 6),
      let k := (unsignedImm (if a = 0x21 then none else x) i).toNat
      gives (.vextr d a i p x) mask (fun l => if l = 0 then from' k else 0) ∧
      ∃ m : Pred, exec (.vinsr d a i p x) s = .next (t.writeRow d 3 m (List.replicate 128 (from' 0))) ∧
        ∀ l < 128, m.getLsbD l = (decide (l = k) && mask.getLsbD l))

/-- 06 R130, R131, 05 R104, R107: the ROWX operations with an immediate, VSPLATS, VCVT and VTRIT; the digits that VTRIT gives sum up to
the clamped element. That VSPLATS without an extension byte reads s0 is the model's choice (log 94), and so is that VCVT and VTRIT admit
a broadcast, whose register number is then the extension byte (log 95). Completes: vsplat, viota, vsplats, vaddi, vshli, vshri, vtrit,
vcvt. -/
def Obligations.RowImmediatesAndConversions : Prop :=
  ∀ (d a i : BitVec 6) (p : BitVec 4) (x : Ext) (s t : State) (ra : Row),
    let mask := s.me.pred p.toNat
    let e := s.elem
    let gives (j : Instr) (from' : State) (lat : Nat) (f : Nat → Lane) : Prop := ∃ row : Row, row.length = 128 ∧
      exec j s = .next (from'.writeRow d lat mask row) ∧ ∀ l < 128, row.getD l 0 = f l
    let narrow : Ext := if a = 0x21 then none else x
    (e ∈ lettersI →
      gives (.vsplat d i p x) s 2 (fun _ => laneBV (isSignedFmt e) (BitVec.ofInt (elemBits e) (signedImm x i).toInt)) ∧
      gives (.viota d i p x) s 2 (fun l => laneBV (isSignedFmt e) (BitVec.ofInt (elemBits e) ((signedImm x i).toInt + l)))) ∧
    (e ∈ lettersF →
      gives (.vsplat d i p x) s 2 (fun _ => extend e (toFloat s.modes e true (ofInteger (signedImm x i).toInt))) ∧
      gives (.viota d i p x) s 2 (fun l => extend e (toFloat s.modes e true (ofInteger ((signedImm x i).toInt + l))))) ∧
    (e ∈ lettersI ++ lettersF → ∀ sat u : BitVec 1,
      let w := s.me.reg ((x.getD 0).toNat % 32)
      gives (.vsplats d sat u p x) s 4 (fun _ => extend e (convert s.modes e (sat = 0)
        (ofInteger (if u = 1 then (w.toNat : Int) else w.toInt))))) ∧
    (e ∈ lettersI → s.delivers a x e ra t →
      gives (.vaddi d a i p x) t 2 (fun l => laneBV (isSignedFmt e)
        (elemBV (elemBits e) (ra.getD l 0) + BitVec.ofInt _ (signedImm narrow i).toInt)) ∧
      gives (.vshli d a i p x) t 2 (fun l => laneBV (isSignedFmt e)
        (elemBV (elemBits e) (ra.getD l 0) <<< (unsignedImm narrow i).toNat)) ∧
      gives (.vshri d a i p x) t 2 (fun l => laneBV (isSignedFmt e)
        (elemBV (elemBits e) (ra.getD l 0) >>> (unsignedImm narrow i).toNat)) ∧
      gives (.vtrit d a i p x) t 2 (fun l => BitVec.ofNat 32 (tritDigit
        (max (-364) (min 364 (intBV (isSignedFmt e) (elemBV (elemBits e) (ra.getD l 0))))) i.toNat))) ∧
    (∀ (f : BitVec 4) (sat : BitVec 1), s.delivers a x f.toNat ra t → (f = 9 → noPoison mask ra) →
      gives (.vcvt d a f sat p x) t 4 (fun l => extend e (convert s.modes e (sat = 0)
        (valueOf f.toNat s.modes.flush (elemOf f.toNat (ra.getD l 0)))))) ∧
    (∀ v : Int, -364 ≤ v → v ≤ 364 → ((List.range 6).map fun k => tritInt (tritDigit v k) * 3 ^ k).sum = v)

/-- 05 R93, R92, 06 R122, R130: a ROW or ROWX operation in a format that its rule does not list is the format trap 0x1 and owes
nothing; a comparison, VNEG or VCVT that consumes a poison trit is the poisoned-element trap.  That the format trap stands alone,
whatever the operands of such a slot would raise, is the model's choice (log 111). -/
def Obligations.RowFormatTraps : Prop :=
  ∀ (d a b : BitVec 6) (p : BitVec 4) (x : Ext) (s : State), ∃ f : Trap → Trap,
    (∀ r ∈ rowRows, s.elem < 11 → s.elem ∉ r.formats → exec (r.op d a b p x) s = .next (s.trap 7 1 f)) ∧
    (∀ r ∈ rowRows1, s.elem < 11 → s.elem ∉ r.formats → exec (r.op d a p x) s = .next (s.trap 7 1 f)) ∧
    (∀ r ∈ rowTests, s.elem < 11 → s.elem ∉ r.formats → exec (r.op d a b p x) s = .next (s.trap 7 1 f)) ∧
    (s.elem = 9 → ∀ j ∈ [Instr.vmac d a b p x, .vrsum d a p x, .vrmax d a p x, .vrmin d a p x, .vperm d a b p x,
      .vlsh d a b p x, .vbcst d a b p x, .vextr d a b p x, .vinsr d a b p x, .vsplat d b p x, .viota d b p x,
      .vsplats d 0 0 p x, .vaddi d a b p x, .vshli d a b p x, .vshri d a b p x, .vtrit d a b p x],
      exec j s = .next (s.trap 7 1 f)) ∧
    (s.elem ∈ lettersF → ∀ j ∈ [Instr.vaddi d a b p x, .vshli d a b p x, .vshri d a b p x, .vtrit d a b p x],
      exec j s = .next (s.trap 7 1 f)) ∧
    (∀ (ra : Row) (t : State), s.delivers a x 9 ra t → ¬noPoison (s.me.pred p.toNat) ra →
      (s.elem = 9 → ∃ g, exec (.vneg d a p x) s = .next (s.trap 8 0 g)) ∧
      ∀ sat : BitVec 1, ∃ g, exec (.vcvt d a 9 sat p x) s = .next (s.trap 8 0 g)) ∧
    (∀ (ra rb : Row) (t : State), s.elem = 9 → s.delivers2 a b x 9 ra rb t →
      ¬(noPoison (s.me.pred p.toNat) ra ∧ noPoison (s.me.pred p.toNat) rb) →
      ∀ r ∈ rowTests, 9 ∈ r.formats → ∃ g, exec (r.op d a b p x) s = .next (s.trap 8 0 g))

/-- 06 R113 to R119: cursors are set, TALLOC grows the allocated set, TREL and TZERO act on an allocated tile; a tile above 79, a
shrink and a tile that is not allocated trap; a shrink is stated where tile k itself is allocated.  That VCURS without an extension
byte reads s0 is the model's choice (log 94). Completes: vcur, vcurs, talloc, trel, tzero. -/
def Obligations.CursorsAndTiles : Prop :=
  ∀ (c : BitVec 3) (t : BitVec 7) (r : BitVec 4) (sc : BitVec 2) (d n : BitVec 6) (x : Ext) (s : State),
    let v := s.me.reg ((x.getD 0).toNat % 32)
    let k := (unsignedImm x n).toNat
    exec (.vcur c t r sc) s = .next (s.issue 0 (.cursor c.toNat ⟨t, r, sc⟩)) ∧
    (v.toNat % 128 ≤ 79 → exec (.vcurs d x) s = .next (s.issue 0 (.cursor (d.toNat % 8)
      ⟨v.extractLsb' 0 7, v.extractLsb' 8 4, v.extractLsb' 12 2⟩))) ∧
    (79 < v.toNat % 128 → ∃ f : Trap → Trap, exec (.vcurs d x) s = .next (s.trap 9 4 f)) ∧
    ((∀ i < 80, k ≤ i → s.me.tallocmap.getLsbD i = false) → exec (.talloc n x) s = .next (s.issue 0 (.talloc k))) ∧
    (k < 80 → s.me.tallocmap.getLsbD k = true →
      (∃ f : Trap → Trap, exec (.talloc (BitVec.ofNat 6 k) (some (BitVec.ofNat 8 (k / 64)))) s = .next (s.trap 9 2 f)) ∧
      exec (.trel n x) s = .next (s.issue 0 (.trel k)) ∧
      exec (.tzero n x) s = .next (s.issueAll ((List.range 16).map fun r => (2, .tileRow k r (BitVec.allOnes 128) Row.zero)))) ∧
    (s.me.tallocmap.getLsbD k = false → ∃ f : Trap → Trap,
      exec (.trel n x) s = .next (s.trap 9 1 f) ∧ exec (.tzero n x) s = .next (s.trap 9 1 f))

/-! ### Class MTX -/

/-- 07 R141, R143, R142, R144: WBFILL, MLDW, MBMAP, MMA and MMAZ queue their command with the mc of its start and owe nothing else;
a fifth waiting command is the timing fault 0x2. Completes: wbfill, mldw, mbmap, mma, mmaz. -/
def Obligations.MatrixCommandsQueue : Prop :=
  ∀ (sc : BitVec 6) (w : BitVec 4) (k : BitVec 3) (p : BitVec 1) (n : BitVec 3) (z : BitVec 5) (x : Ext) (s t : State)
    (src : RowSource) (uses : List (Nat × Nat)) (engaged : List Engaged),
    let m := s.me.mtx
    let sets (i : Instr) (u : State) (f : Matrix → Prop) : Prop :=
      ∃ m' : Matrix, exec i s = .next (u.issue 0 (.matrix m')) ∧ m.sameContents m' ∧ f m'
    (s.queueFull = false →
      let start := max (s.mc + 1) (max m.fillFree (m.readsEnd w.toNat))
      s.supplies sc x ((List.range (2 ^ n.toNat)).map (start + ·)) src uses engaged t →
      sets (.wbfill sc w n x) t fun m' =>
        m'.fills = m.fills ++ [⟨s.nextId, s.me.pc, s.cur.slot, w.toNat, 2 ^ n.toNat, src, start, []⟩] ∧
        m'.fillFree = start + 2 ^ n.toNat ∧ m'.busySlot = m.busySlot ++ [(w.toNat, start + 2 ^ n.toNat)] ∧
        m'.mmas = m.mmas ∧ m'.awrs = m.awrs ∧ m'.writes = m.writes ∧ m'.engaged = m.engaged ++ engaged) ∧
    (s.queueFull = false → ∀ pl width poison, s.me.segmentPlane w.toNat k.toNat = .ok (pl, width, poison) →
      let start := max (s.mc + 1) (max m.loadFree m.swapAt)
      let loaded := { pl with id := s.nextId, validAt := start + 32 }
      sets (.mldw w k) s fun m' => m' = { m with
        loads := m.loads ++ [⟨loaded, start, false⟩], loadFree := start + 32, nextShadow := loaded }) ∧
    (∀ row, s.pops sc x row t → sets (.mbmap sc w x) t fun m' =>
      ∃ b : BitVec 512, m'.writes = m.writes ++ [⟨s.nextId, s.me.pc, s.cur.slot, w.toNat, s.mc + 1, .bitmap b⟩] ∧
        (∀ i < 512, b.getLsbD i = (row.getD (i / 32) 0).getLsbD (i % 32)) ∧
        m'.mmas = m.mmas ∧ m'.fills = m.fills ∧ m'.awrs = m.awrs) ∧
    (s.queueFull = false → ∀ pl m1 swap width poison, s.planeFor w.toNat k.toNat = .ok (pl, m1, swap, width, poison) →
      let step := if fmtAct s.myFmt ∈ [2, 6, 7] then 2 else 1
      let each := if pl.sp then 2 else 1
      let start := max (s.mc + 1) (max pl.validAt m.inputFree)
      let trapped (cause sub : Nat) : Prop := ∀ i ∈ [Instr.mma z sc w k p n x, .mmaz z sc w k p n x],
        exec i s = .next (s.trap cause sub)
      (23 < z.toNat + width → trapped 0x0A 5) ∧
      (z.toNat + width ≤ 23 → pl.sp ≠ decide (p = 1) → trapped 0x0A 6) ∧
      (z.toNat + width ≤ 23 → pl.sp = decide (p = 1) → poison = true → trapped 8 0) ∧
      (z.toNat + width ≤ 23 → pl.sp = decide (p = 1) → poison = false →
        s.supplies sc x ((List.range (2 ^ n.toNat * each)).map fun i => start + step * (i / each)) src uses engaged t →
        ∀ i zero, (i, zero) ∈ [(Instr.mma z sc w k p n x, false), (.mmaz z sc w k p n x, true)] → sets i t fun m' =>
          m'.mmas = m.mmas ++ [⟨s.nextId, s.me.pc, s.cur.slot, zero, z.toNat, width, pl, swap, 2 ^ n.toNat, step, src,
            s.myFmt, start, [], [], []⟩] ∧
          m'.inputFree = start + step * (2 ^ n.toNat - 1) + 1 ∧ m'.fills = m.fills ∧ m'.awrs = m.awrs ∧
          m'.writes = m.writes ∧ m'.engaged = m.engaged ++ engaged)) ∧
    (s.queueFull = true → ∀ i ∈ [Instr.wbfill sc w n x, .mldw w k, .mma z sc w k p n x, .mmaz z sc w k p n x],
      exec i s = .next (s.trap 5 2))

/-- 07 R146 to R148: ANORM, AEXP in its write form and AZERO owe a write at issue + 2 mc; AWR pops its rows from the next mc; ANORM
traps where a row exponent would pass 127; the lanes that ARD, AEXP, AGRD and MSTAT store to their destination rows; each where the
accumulator or slot that it reads holds no double-bit error (17 R303). Completes:
azero, aexpWrite, anorm, awr, ard, aexpRead, agrd, mstat. -/
def Obligations.AccumulatorsAreWrittenAndRead : Prop :=
  (∀ (sc : BitVec 6) (z : BitVec 5) (y g : BitVec 1) (r : BitVec 7) (n : BitVec 3) (x : Ext) (s t : State) (row : Row)
     (src : RowSource) (uses : List (Nat × Nat)) (engaged : List Engaged),
     let m := s.me.mtx
     let owes (u : State) (op : AccOp) : State := u.issue 0 (.matrix { m with
       writes := m.writes ++ [⟨s.nextId, s.me.pc, s.cur.slot, z.toNat, s.mc + 2, op⟩]
       busyTile := m.busyTile ++ [(z.toNat, s.mc + 3, false)] })
     exec (.azero z) s = .next (owes s .clear) ∧
     (s.pops sc x row t → exec (.aexpWrite z sc y x) s = .next (owes t (.writeExps (y = 1) row))) ∧
     (s.pops sc x row t → (1, z.toNat) ∈ s.me.sram → ∃ f : Trap → Trap, exec (.anorm z sc x) s = .next (s.trap 0x1B 0 f)) ∧
     (s.pops sc x row t → (1, z.toNat) ∉ s.me.sram →
       (∀ j < 64, (get m.rowExp 0 (64 * z.toNat + j)).toInt + ((row.getD j 0).toNat % 64 : Nat) ≤ 127) →
       exec (.anorm z sc x) s = .next (owes t (.norm ((List.range 64).map fun j => (row.getD j 0).toNat % 64)))) ∧
     (s.pops sc x row t → (1, z.toNat) ∉ s.me.sram →
        (∃ j < 64, 127 < (get m.rowExp 0 (64 * z.toNat + j)).toInt + ((row.getD j 0).toNat % 64 : Nat)) →
       exec (.anorm z sc x) s = .next (s.trap 0x0A 4)) ∧
     (s.supplies sc x ((List.range (2 ^ n.toNat)).map (s.mc + 1 + ·)) src uses engaged t →
       exec (.awr z sc r g n x) s = .next (t.issue 0 (.matrix { m with
         awrs := m.awrs ++ [⟨s.nextId, s.me.pc, s.cur.slot, z.toNat, r.toNat, 2 ^ n.toNat, g = 1, src, s.mc + 1⟩]
         busyTile := m.busyTile ++ [(z.toNat, s.mc + 2 ^ n.toNat + 2, false)]
         engaged := m.engaged ++ engaged
         uses := m.uses ++ uses })))) ∧
  (∀ (d : BitVec 6) (z : BitVec 5) (w : BitVec 4) (y c : BitVec 1) (r : BitVec 7) (n : BitVec 3) (s : State),
     let m := s.me.mtx
     let out := fmtOut s.myFmt
     let elem (r l : Nat) : BitVec 40 := get (get m.acc [] (64 * z.toNat + r)) 0 l
     let slot := get m.slots WbSlot.start w.toNat
     let one (i : Instr) (f : Row → Prop) : Prop := ∃ row : Row, row.length = 128 ∧ exec i s = .next (s.mtxStore d 2 [row]) ∧ f row
     (1, z.toNat) ∉ s.me.sram →
     (∃ rows : List Row, rows.length = 2 ^ n.toNat ∧ exec (.ard z d r y n) s = .next (s.mtxStore d 4 rows) ∧
       ∀ j < 2 ^ n.toNat, ∀ l < 128,
         let e := (elem (r.toNat + j) l).toInt
         let v := convert s.modes out (decide (y = 0)) (.fin (decide (e < 0)) e.natAbs
           ((get m.rowExp 0 (64 * z.toNat + (r.toNat + j))).toInt + (get m.laneExp 0 (128 * z.toNat + l)).toInt))
         (rows.getD j []).getD l 0 =
           extend out (if y = 1 ∧ out = 4 ∧ s.me.cmpat.getLsbD 32 = true ∧ v % 128 = 0x7F then (if e < 0 then 0xFE else 0x7E) else v)) ∧
     one (.aexpRead z d 1) (fun row => ∀ l < 128, row.getD l 0 = (get m.laneExp 0 (128 * z.toNat + l)).signExtend 32) ∧
     one (.aexpRead z d 0) (fun row => ∀ l < 128,
       row.getD l 0 = if l < 64 then (get m.rowExp 0 (64 * z.toNat + l)).signExtend 32 else 0) ∧
     one (.agrd z d r 0) (fun row => ∀ l < 128, row.getD l 0 = (elem r.toNat l).setWidth 32) ∧
     one (.agrd z d r 1) (fun row => ∀ l < 128, row.getD l 0 = ((elem r.toNat l).extractLsb' 32 8).signExtend 32) ∧
     ((2, w.toNat) ∉ s.me.sram → ∃ row : Row, row.length = 128 ∧
       exec (.mstat z d w c) s = .next (s.mtxStore d 2 [row] fun m' => if c = 1 then
         { m' with writes := m'.writes ++ [⟨s.nextId, s.me.pc, s.cur.slot, z.toNat, s.mc + 1, .clearOvf⟩] } else m') ∧
       row.getD 0 0 = (if m.ovf.getLsbD z.toNat then 1 else 0) ∧
       (∀ l plane, (l, plane) ∈ [(1, m.active), (2, m.shadow)] → row.getD l 0 = BitVec.ofNat 32 (plane.wb + plane.k * 2 ^ 4 +
         (if plane.ok = true ∧ plane.validAt ≤ s.mc then 2 ^ 7 else 0) + (if plane.sp then 2 ^ 8 else 0) +
         if l = 2 ∧ (s.mc < plane.validAt ∨ ∃ c, plane.claim = some c ∧ s.mc < c) then 2 ^ 9 else 0)) ∧
       (slot.valid = true → row.getD 4 0 = BitVec.ofNat 32 (segLive slot.header + segWidth slot.header * 2 ^ 8 +
         segPlanes slot.header * 2 ^ 10 + (if segSp slot.header then 2 ^ 16 else 0) + 2 ^ 17)) ∧
       (row.getD 3 0).toNat = ((List.range 512).filter fun i => slot.bitmap.getLsbD i).length ∧
       (slot.valid = false → row.getD 4 0 = 0) ∧ ∀ l, 5 ≤ l → l < 128 → row.getD l 0 = 0))

/-- 07 R137, 06 R117: a cursor that an MTX command pops or stores through moves row by row from its place, and its steps are owed
to the commit; a row in a tile that is not allocated is tile trap 0x1, and a head or walker that is engaged is matrix trap 0x7. -/
def Obligations.MatrixRowPlaces : Prop :=
  ∀ (n lat : Nat) (x : Ext) (whens : List Nat) (rows : List Row) (s : State), n < 8 →
    let code := BitVec.ofNat 6 (0x18 + n)
    let at' (j : Nat) : Cursor := (s.me.cursor n).after (s.me.twin.getLsbD 0) j
    let allocated (count : Nat) : Prop := ∀ j < count, s.me.tallocmap.getLsbD (at' j).tile.toNat = true
    (allocated whens.length → ∃ uses, s.supplies code x whens
      (.tileRows ((List.range whens.length).map fun j => 16 * (at' j).tile.toNat + (at' j).row.toNat)) uses []
      (s.issue 0 (.mtxSteps n whens.length))) ∧
    (allocated 1 → (0, 16 * (at' 0).tile.toNat + (at' 0).row.toNat) ∉ s.me.sram →
      s.pops code x (s.me.tileRow (at' 0).tile.toNat (at' 0).row.toNat) (s.issue 0 (.mtxSteps n 1))) ∧
    (allocated rows.length → ∃ uses, s.mtxStore code lat rows =
      ((s.issueAll ((0, .mtxSteps n rows.length) :: (List.range rows.length).map fun j =>
        (lat + j, .mtxRow (at' j).tile.toNat (at' j).row.toNat (rows.getD j [])))).issue 0
          (.matrix { s.me.mtx with uses := uses }))) ∧
    ((∃ j < rows.length, s.me.tallocmap.getLsbD (at' j).tile.toNat = false) →
      ∃ f : Trap → Trap, s.mtxStore code lat rows = s.trap 9 1 f) ∧
    (s.me.engages false n = true → ∃ f : Trap → Trap,
      s.mtxStore (BitVec.ofNat 6 (0x10 + n)) lat rows = s.trap 0x0A 7 f) ∧
    (s.me.engages true n = true → ∃ f : Trap → Trap, s.mtxStore (BitVec.ofNat 6 n) lat rows = s.trap 0x0A 7 f)

/-! ### Class HEAD -/

/-- 08 R155, R160: HOPEN, HNEW and HLEASE take a closed head to opening and perform their table operation at n + 320, HFREE performs its
own then, and on a head that is not closed they trap with 0x2; HCLOSE and HSEAL close the head at once and owe its table write to n +
320, HSEAL on append heads only. That a tape slot the task has no tape for is handle 0xFFFFFFFF is the model's choice (log 21), and so
is that a handle taken by broadcast without an extension byte is in s0 (log 94). Completes: hopen, hnew, hlease, hfree, hclose, hseal.
-/
def Obligations.HeadsOpenAndClose : Prop :=
  (∀ (h : BitVec 4) (t : BitVec 6) (b a : BitVec 1) (w : BitVec 3) (x : Ext) (s : State),
     let handle : BitVec 32 := if t = 0x21 then (s.me.reg ((x.getD 0).toNat % 32)).setWidth 32
       else s.myTask.tapes.getD (x.getD 0).toNat 0xFFFFFFFF
     let back : Bool := b = 1
     let g := 2 ^ w.toNat
     let rows := [(Instr.hopen h t b a w x, if a = 1 then HeadMode.append else .read, back, TableOp.open_ (a = 1) back g),
       (.hnew h t w x, .append, false, .new_ g), (.hlease h t b w x, .update, back, .lease back g)]
     (s.me.engages true h.toNat = false → (s.me.head h.toNat).status = .closed → ∀ i mode dir op, (i, mode, dir, op) ∈ rows →
       exec i s = .next (s.issueAll [(0, .head h.toNat { Head.start with
         status := .opening, oid := s.nextId, handle := handle, mode := mode, back := dir, grain := g }),
         (320, .table h.toNat handle s.nextId op 0 s.gcyc false)])) ∧
     (s.me.engages true h.toNat = false → (s.me.head h.toNat).status ≠ .closed → ∃ f : Trap → Trap,
       ∀ r ∈ rows, exec r.1 s = .next (s.trap 0x0B 2 f)) ∧
     exec (.hfree t x) s = .next (s.issue 320 (.table 0 handle s.nextId .free_ 0 s.gcyc false))) ∧
  (∀ (h : BitVec 4) (d : BitVec 5) (s : State),
     let hd := s.me.head h.toNat
     let closes (op : TableOp) : Out := .next (s.issueAll [(0, .head h.toNat Head.start),
       (320, .table h.toNat hd.handle hd.oid op d.toNat s.gcyc false)])
     (s.mayUse h.toNat [.read] → exec (.hclose h d) s = closes .closeRead) ∧
     (s.mayUse h.toNat [.append, .update] → exec (.hclose h d) s = closes (.closeWrite hd.mode false hd.pos)) ∧
     (s.mayUse h.toNat [.append] → exec (.hseal h d) s = closes (.closeWrite .append true hd.pos)) ∧
     (s.mayUse h.toNat [.read, .update] → ∃ f : Trap → Trap, exec (.hseal h d) s = .next (s.trap 0x0B 3 f)))

/-- 08 R160: the instructions that move a head or its marks, HPOS, and HWAIT, whose zero comes at n + 1 for a read head and
otherwise no sooner than every write through the head that the core owes.  That HSKIP without an extension byte reads s0 is the model's
choice (log 94). Completes: hstep, hskip, hrev, hmark, hrwd, hdrop, hpos,
hwait. -/
def Obligations.HeadsMove : Prop :=
  ∀ (h : BitVec 4) (i : BitVec 8) (x : Ext) (y : BitVec 1) (d : BitVec 5) (s : State),
    let n := h.toNat
    let hd := s.me.head n
    let v := s.me.reg ((x.getD 0).toNat % 32)
    let becomes (hd' : Head) : Out := .next (s.issue 0 (.head n hd'))
    (s.mayUse n [.read, .update] →
      exec (.hstep h i x) s = becomes { hd with
        pos := hd.pos + BitVec.ofInt 64 (if hd.back then -(signedImm x i).toInt else (signedImm x i).toInt) } ∧
      exec (.hskip h x) s = becomes { hd with pos := if hd.back then hd.pos - v else hd.pos + v } ∧
      exec (.hrev h) s = becomes { hd with back := !hd.back } ∧
      (hd.marks.length < 4 → exec (.hmark h) s = becomes { hd with
        marks := hd.marks ++ [hd.pos], markBack := if hd.marks = [] then hd.back else hd.markBack }) ∧
      (∀ rest top, hd.marks = rest ++ [top] →
        exec (.hrwd h y) s = becomes { hd with pos := top, marks := if y = 1 then rest else hd.marks } ∧
        exec (.hdrop h) s = becomes { hd with marks := rest }) ∧
      (hd.marks = [] → ∃ f : Trap → Trap, exec (.hrwd h y) s = .next (s.trap 0x0B 5 f) ∧
        exec (.hdrop h) s = .next (s.trap 0x0B 5 f)) ∧
      (4 ≤ hd.marks.length → ∃ f : Trap → Trap, exec (.hmark h) s = .next (s.trap 0x0B 5 f))) ∧
    (s.mayUse n [.read, .append, .update] → exec (.hpos h d) s = .next (s.scalarResult 1 d hd.pos)) ∧
    (s.mayUse n [.read] → exec (.hwait h d) s = .next (s.scalarResult 1 d 0)) ∧
    (s.mayUse n [.append, .update] → ∃ k, 1 ≤ k ∧ exec (.hwait h d) s = .next (s.issue k (.hwait hd.oid d.toNat)) ∧
      ∀ o ∈ s.myTask.owed ++ s.issued, ∀ a b e u m p, o.eff = .headWrite hd.oid a b e u m p → o.dc ≤ s.dc + k)

/-- 08 R157, R158, R160: HRD gives the delivered row to its destination at n + 3; HWR and HUPD owe the elements of the source's
lanes, zero where the predicate is clear, to n + 3; each of them moves the head; 05 R92: on a TRIT head each is the poisoned-element
trap where a selected lane holds the poison trit. Completes: hrd, hwr, hupd. -/
def Obligations.HeadRowsPass : Prop :=
  ∀ (h : BitVec 4) (o : BitVec 6) (p : BitVec 4) (x : Ext) (s t : State) (row : Row) (hd : Head),
    let n := h.toNat
    let clean := (s.me.head n).fmt = 9 → noPoison (s.me.pred p.toNat) row
    let poisoned (j : Instr) : Prop := ∃ f : Trap → Trap, exec j s = .next (s.trap 8 0 f)
    (s.mayUse n [.read, .update] → s.deliver s.cur.task s.cur.core n = .ok (row, hd) →
      (clean → exec (.hrd h o p) s = .next ((s.issue 0 (.head n hd)).writeRow o 3 (s.me.pred p.toNat) row)) ∧
      (¬clean → poisoned (.hrd h o p))) ∧
    (s.delivers o x (s.me.head n).fmt row t → ¬clean →
      (s.mayUse n [.append] → poisoned (.hwr h o p x)) ∧ (s.mayUse n [.update] → poisoned (.hupd h o p x))) ∧
    (s.delivers o x (s.me.head n).fmt row t → clean → ∀ eff,
      s.headStore s.cur.task s.cur.core n (blend (s.me.pred p.toNat) Row.zero row) = .ok (eff, hd) →
      (s.mayUse n [.append] → exec (.hwr h o p x) s = .next ((t.issue 0 (.head n hd)).issue 3 eff)) ∧
      (s.mayUse n [.update] → exec (.hupd h o p x) s = .next ((t.issue 0 (.head n hd)).issue 3 eff)))

/-- 08 R160, R161: an instruction on a head that is not open is head trap 0x1, in a mode it does not admit head trap 0x3, and on a
head that an MTX command engages matrix trap 0x7. -/
def Obligations.HeadTraps : Prop :=
  ∀ (h : BitVec 4) (o : BitVec 6) (d : BitVec 5) (i : BitVec 8) (p : BitVec 4) (x : Ext) (y : BitVec 1) (s : State),
    let hd := s.me.head h.toNat
    let ru := [Instr.hrd h o p, .hstep h i x, .hskip h x, .hmark h, .hrwd h y, .hdrop h, .hrev h]
    let all := ru ++ [.hclose h d, .hseal h d, .hwr h o p x, .hupd h o p x, .hpos h d, .hwait h d]
    ∃ f : Trap → Trap,
      (s.me.engages true h.toNat = true → ∀ j ∈ all, ∃ g : Trap → Trap, exec j s = .next (s.trap 0x0A 7 g)) ∧
      (s.me.engages true h.toNat = false → hd.status ≠ .opened → ∀ j ∈ all, exec j s = .next (s.trap 0x0B 1 f)) ∧
      (s.mayUse h.toNat [.append] → ∀ j ∈ ru ++ [.hupd h o p x], exec j s = .next (s.trap 0x0B 3 f)) ∧
      (s.mayUse h.toNat [.read] → ∀ j ∈ [Instr.hwr h o p x, .hupd h o p x, .hseal h d], exec j s = .next (s.trap 0x0B 3 f)) ∧
      (s.mayUse h.toNat [.update] → ∀ j ∈ [Instr.hwr h o p x, .hseal h d], exec j s = .next (s.trap 0x0B 3 f))

/-! ### Class COPY -/

/-- 09 R180: WSET, WLOOP and WRST set a walker for the next bundle, and where they trap. Completes: wset, wloop, wrst. -/
def Obligations.WalkersAreSet : Prop :=
  ∀ (w a b v : BitVec 5) (s : State), s.me.engages false w.toNat = false →
    let cfg := s.me.reg a.toNat
    let old := s.me.walker w.toNat
    let low (r : BitVec 5) : BitVec 32 := (s.me.reg r.toNat).setWidth 32
    let zeroed (l : Level) : Level := { l with index := 0 }
    let new : Walker := { Walker.start with loaded := true, cfg := cfg }
    (cfg.toNat < 128 → exec (.wset w a b) s = .next (s.issueAll ((0, .walker w.toNat new) ::
      if cfg.getLsbD 3 then [(0, .base (cfg.toNat % 8) (low b))] else []))) ∧
    (128 ≤ cfg.toNat → ∃ f : Trap → Trap, exec (.wset w a b) s = .next (s.trap 0x0E 2 f)) ∧
    (old.loaded = false → ∃ f : Trap → Trap,
      exec (.wloop w a b v) s = .next (s.trap 0x0E 1 f) ∧ exec (.wrst w) s = .next (s.trap 0x0E 1 f)) ∧
    (old.loaded = true → low a = 0 → ∃ f : Trap → Trap, exec (.wloop w a b v) s = .next (s.trap 0x0E 3 f)) ∧
    (old.loaded = true → low a ≠ 0 → v.toNat < 4 →
      let set (k : Nat) (l : Level) : Level := if v.toNat = k then ⟨low a, low b, 0⟩ else zeroed l
      exec (.wloop w a b v) s = .next (s.issue 0 (.walker w.toNat
        ⟨true, old.cfg, set 0 old.l0, set 1 old.l1, set 2 old.l2, set 3 old.l3, old.lastLeaf⟩))) ∧
    (old.loaded = true → exec (.wrst w) s = .next (s.issue 0 (.walker w.toNat
      ⟨true, old.cfg, zeroed old.l0, zeroed old.l1, zeroed old.l2, zeroed old.l3, none⟩)))

/-- 09 R187, 03 R64: P of a copy of B bytes is S plus 8 + ⌈B/512⌉ within a slice, 14 + ⌈B/256⌉ within a quire, 20 + 2 hops + ⌈B/128⌉ and 40
more between dies across quires, and T + ⌈B/128⌉ where one end is main memory; 03 R51: a command whose S is not after its issue, that
finds four waiting, or whose S is below the P or not above the S of an earlier command of its engine is the timing fault 0x1, 0x2 or 0x3. -/
def Obligations.CommandTimes : Prop :=
  (∀ (s : State) (k : KernelImage) (i j c b : Nat), s.kernel s.cur.task = some k →
     let up (n : Nat) := (b + n - 1) / n
     let far (m n : Nat) : Nat := ((m : Int) - n).natAbs
     s.copyOffset (.slice i) (.slice i) b = 8 + up 512 ∧
     (i ≠ j → i / 8 = j / 8 → s.copyOffset (.slice i) (.slice j) b = 14 + up 256) ∧
     (i / 8 ≠ j / 8 → i < 128 → j < 128 → s.copyOffset (.slice i) (.slice j) b =
       20 + 2 * (far (i / 8 % 4) (j / 8 % 4) + far (i / 32) (j / 32)) + up 128 + if k.dieOne then 0 else 40) ∧
     (∀ t, (c, t) ∈ [(1, 300), (2, 900), (3, 2400)] →
       s.copyOffset (.memory c) (.slice j) b = t + up 128 ∧ s.copyOffset (.slice i) (.memory c) b = t + up 128)) ∧
  (∀ (s : State) (e start : Nat), ∃ f : Nat → Fail, (∀ sub, (f sub).cause = 5 ∧ (f sub).sub = sub) ∧
     (start ≤ s.dc → s.timingFail e start = some (f 1)) ∧
     (s.dc < start → 4 ≤ ((s.engineCmds e).filter fun c => s.dc < c.start).length → s.timingFail e start = some (f 2)) ∧
     (s.dc < start → ((s.engineCmds e).filter fun c => s.dc < c.start).length < 4 →
       (∃ c ∈ s.engineCmds e, start < c.perform ∨ start ≤ c.start) → s.timingFail e start = some (f 3)) ∧
     (s.dc < start → ((s.engineCmds e).filter fun c => s.dc < c.start).length < 4 →
       (∀ c ∈ s.engineCmds e, c.perform ≤ start ∧ c.start < start) → s.timingFail e start = none))

/-- 09 R189 to R191, 03 R51: a copy whose operands and endpoints are allowed and whose engine takes it is queued with its S and P,
and nothing else happens; T of a gather or scatter is that of the highest class among the pages that its records touch, as its list
names them at issue, which is the model's choice (log 98); operands that the rules forbid are copy trap 0x1 or 0x3, and a
contiguous side of a gather or scatter in main memory is copy trap 0x2. Completes: kcopy, kcopyr, kfill, kgath, kscat. -/
def Obligations.CopiesQueue : Prop :=
  ∀ (sc d l t : BitVec 5) (e : BitVec 2) (s : State) (src dst : Endpoint),
    let r (n : BitVec 5) : Nat := (s.me.reg n.toNat).toNat
    let b := r l
    let bad (i : Instr) (sub : Nat) : Prop := ∃ f : Trap → Trap, exec i s = .next (s.trap 0x0F sub f)
    let queues (i : Instr) (src dst : Endpoint) (len : Nat) (op : CmdOp) : Prop :=
      s.takesCommand e.toNat (r t) (meshPair src dst) → exec i s = .next (s.issue 0 (.command e.toNat
        ⟨s.nextId, s.me.pc, s.cur.slot, s.dc, s.gcyc, r t, r t + s.copyOffset src dst len, op⟩))
    let words := b % 4 = 0 ∧ 4 ≤ b ∧ b ≤ 0x280000
    let w := elemBits s.elem / 8
    let elems := s.elem ≠ 9 ∧ b % w = 0 ∧ b ≤ 65536 ∧ r sc % w = 0 ∧ r d % w = 0 ∧ inWindow (r d) = true
    (words → r sc % 4 = 0 → r d % 4 = 0 → s.endpoints (r sc) b (r d) b src dst →
      queues (.kcopy sc d l t e) src dst b (.copy (r sc) (r d) b)) ∧
    (¬(words ∧ r sc % 4 = 0 ∧ r d % 4 = 0) → bad (.kcopy sc d l t e) 1) ∧
    (elems → s.endpoints (r sc) (max b 1) (r d) b src dst →
      queues (.kcopyr sc d l t e) src dst b (.reduce (r sc) (r d) b s.myFmt)) ∧
    (¬elems → bad (.kcopyr sc d l t e) 3) ∧
    (words → r d % 4 = 0 → s.endpoint (r d) b true = .ok dst →
      queues (.kfill sc d l t e) (.slice s.cur.core) dst b (.fill (r d) b ((s.me.reg sc.toNat).setWidth 32))) ∧
    (¬(words ∧ r d % 4 = 0) → bad (.kfill sc d l t e) 1) ∧
    (∀ list k z, s.descriptor (s.me.reg l.toNat) = some (list, k, z) →
      (s.endpoints (r sc) 1 (r d) (k * 2 ^ z) src dst → dst.isMemory = true → bad (.kgath sc d l t e) 2) ∧
      (s.endpoints (r sc) (k * 2 ^ z) (r d) 1 src dst → src.isMemory = true → bad (.kscat sc d l t e) 2) ∧
      (s.endpoints (r sc) 1 (r d) (k * 2 ^ z) src dst → dst.isMemory = false →
        queues (.kgath sc d l t e) (s.recordSide (r sc) list k z false src) dst (k * 2 ^ z) (.gather (r sc) (r d) list k z)) ∧
      (s.endpoints (r sc) (k * 2 ^ z) (r d) 1 src dst → src.isMemory = false →
        queues (.kscat sc d l t e) src (s.recordSide (r d) list k z true dst) (k * 2 ^ z) (.scatter (r sc) (r d) list k z))) ∧
    (s.descriptor (s.me.reg l.toNat) = none → bad (.kgath sc d l t e) 1 ∧ bad (.kscat sc d l t e) 1)

/-- 09 R184, R185, R194, R197: the leaf table, the checker, scalar access to the scratchpad, and KSTAT. Completes: ktag, ltset,
kchk, sld, sst, kstat. -/
def Obligations.LeafTableScratchpadAndStatus : Prop :=
  ∀ (a b d : BitVec 5) (z e : BitVec 2) (s t : State) (l : List Byte),
    let A := s.me.reg a.toNat
    let B := s.me.reg b.toNat
    let n := A.toNat % 1024
    let size := 2 ^ z.toNat
    let g := s.me.engine e.toNat
    ((s.me.leafEntry n).valid = true →
      exec (.ktag a b) s = .next (s.issue 0 (.leafExpect s.cur.core n (B.setWidth 16)))) ∧
    ((s.me.leafEntry n).valid = false → ∃ f : Trap → Trap, exec (.ktag a b) s = .next (s.trap 0x0D 4 f)) ∧
    (let off := B.toNat % 65536
     let cap := B.toNat / 65536 % 128
     let legal := B.getLsbD 23 = false ∨ 0 < cap ∧ cap ≤ 65 ∧ off + cap ≤ 40960 ∧ B.toNat < 2 ^ 24
     (legal → exec (.ltset a b) s = .next (s.issue 0 (.leafEntry s.cur.core n { LeafEntry.start with
       offset := BitVec.ofNat 16 off, cap := BitVec.ofNat 7 cap, valid := B.getLsbD 23 }))) ∧
     (¬legal → ∃ f : Trap → Trap, exec (.ltset a b) s = .next (s.trap 0x0D 3 f))) ∧
    exec (.kchk a b) s = .next (s.issue 0 (.checker
      (if B.toNat % 2 ^ 32 = 0 then none else some (A.toNat % 2 ^ 32, B.toNat % 2 ^ 32)))) ∧
    (s.readTimed s.cur.task s.cur.core (A.toNat % 2 ^ 32) size size 2 s.me.pc = .ok (l, t) →
      exec (.sld a d z) s = .next (t.scalarResult 3 d (BitVec.ofNat 64 (leNat l)))) ∧
    (s.myTask.spadFault s.cur.core (A.toNat % 2 ^ 32) size size = none →
      exec (.sst a b z) s = .next (s.issue 2 (.spad (A.toNat % 2 ^ 32) (leBytes size B.toNat) 3))) ∧
    exec (.kstat d e) s = .next (s.scalarResult 1 d (BitVec.ofNat 64
      (g.pending.length % 8 + (if g.running = none then 0 else 8) + g.lastP % 2 ^ 32 * 2 ^ 32)))

/-- 09 R174, R175: a timed read of scratchpad gives the bytes of its slice and takes their banks where the checker is disarmed, no
bank is taken and no word fails; outside the task, in another quire's slice, and out of a slice or misaligned it is trap 0x1, 0x2
or 0x3. -/
def Obligations.ScratchpadReads : Prop :=
  ∀ (s : State) (core a n al kind pc : Nat),
    let k := s.myTask
    let c := a / 2 ^ 22 % 512
    let off := a % 2 ^ 22
    let exists' := a < 2 ^ 31 ∧ c < 8 * k.quires.length
    let lines := spadLines a n
    let read := s.readTimed s.cur.task core a n al kind pc
    (¬exists' → read = .error { cause := 0x0D, sub := 1, addr := a, kind := 1 }) ∧
    (exists' → c / 8 ≠ core / 8 → read = .error { cause := 0x0D, sub := 2, addr := a, kind := 1 }) ∧
    (exists' → c / 8 = core / 8 → ¬(off + n ≤ 0x280000 ∧ a % al = 0) →
      read = .error { cause := 0x0D, sub := 3, addr := a, kind := 1 }) ∧
    (exists' → c / 8 = core / 8 → off + n ≤ 0x280000 → a % al = 0 → (k.core core).checker = none →
      (∀ b ∈ s.banks, b.task = s.cur.task → ∀ ln ∈ lines, ¬(b.slice = ln / 2 ^ 16 ∧ b.bank = ln % 32)) →
      (∀ ln ∈ spadLines off n, (3, ln) ∉ (k.core c).sram) →
      ∃ t, read = .ok (Memory.bytes (k.core c).slice off n, t) ∧ t.traps = s.traps ∧
        t = { s with banks := s.banks ++ lines.map fun ln => ⟨s.cur.task, ln / 2 ^ 16, ln % 32, core, kind, pc⟩ })

/-! ### Class QMEM -/

/-- 13 R243, R248, R249, R254, R258, R264: loads, stores, atomics and barrier accesses with an aligned effective address below 2^57
and a free entry take their place in the core's queue, with what they carry, and do nothing else at issue. Completes: ld, lda, st,
stl, amoadd, amoand, amoor, amoxor, amomin, amomax, amoswp, amocas, barriv, barwait, barinit. -/
def Obligations.AccessesQueue : Prop :=
  ∀ (d b : BitVec 5) (i : BitVec 6) (z c : BitVec 2) (z1 sc : BitVec 1) (x : Ext) (s : State) (tgt : Target),
    let ea (u : Nat) : Nat := (s.me.reg b.toNat + BitVec.ofInt 64 ((signedImm x i).toInt * u)).toNat
    let D := s.me.reg d.toNat
    let n := 2 ^ z.toNat
    let m := if z1 = 1 then 8 else 4
    let wheel := if sc = 1 then some (s.gcyc + s.cur.core) else none
    let queues (j : Instr) (f : QAcc → Prop) : Prop := ∃ t q, exec j s = .next t ∧ s.queuesOne t q ∧
      q.task = s.cur.task ∧ q.core = s.cur.core ∧ q.pc = s.me.pc ∧ q.slot = s.cur.slot ∧ q.scope = c.toNat ∧
      s.gcyc + 16 ≤ q.due ∧ f q
    (s.mayQueue (ea n) n n 1 tgt → ∀ j kind, (j, kind) ∈ [(Instr.ld d b i z c sc x, QKind.load), (.lda d b i z c sc x, .acquire)] →
      queues j fun q => q.kind = kind ∧ q.va = ea n ∧ q.size = n ∧ q.dest = d.toNat ∧ q.target = tgt ∧ q.wheel = wheel) ∧
    (s.mayQueue (ea n) n n 2 tgt → ∀ j kind, (j, kind) ∈ [(Instr.st d b i z c sc x, QKind.store), (.stl d b i z c sc x, .release)] →
      queues j fun q => q.kind = kind ∧ q.va = ea n ∧ q.size = n ∧ q.dest = 0 ∧ q.data = leBytes n D.toNat ∧
        q.target = tgt ∧ q.wheel = wheel) ∧
    (s.mayQueue (ea m) m m 3 tgt → ∀ j op, (j, op) ∈ [(Instr.amoadd d b i z1 c sc x, 0), (.amoand d b i z1 c sc x, 1),
        (.amoor d b i z1 c sc x, 2), (.amoxor d b i z1 c sc x, 3), (.amomin d b i z1 c sc x, 4), (.amomax d b i z1 c sc x, 5),
        (.amoswp d b i z1 c sc x, 6), (.amocas d b i z1 c sc x, 7)] →
      queues j fun q => q.kind = .amo op ∧ q.va = ea m ∧ q.size = m ∧ q.dest = d.toNat ∧ q.v = D ∧
        q.v2 = s.me.reg ((d.toNat + 1) % 32) ∧ q.target = tgt ∧ q.wheel = wheel) ∧
    (ea 8 < 2 ^ 57 → ea 8 % 8 = 0 → s.entriesHeld s.cur.task s.cur.core < 2048 →
      ∀ j kind dest, (j, kind, dest) ∈ [(Instr.barriv d b i c x, QKind.barriv, d.toNat), (.barwait d b i c x, .barwait, d.toNat),
        (.barinit d b i c x, .barinit, 0)] →
      queues j fun q => q.kind = kind ∧ q.va = ea 8 ∧ q.size = 8 ∧ q.dest = dest ∧ q.v = (D.setWidth 16).setWidth 64)

/-- 13 R250, R256: LDV and STV queue a row of 64 × 2^size bytes, STV with the bytes that its row holds at issue; a VAMO queues one
access for each active lane of its block, at EA + 4x with the lane's value. Completes: ldv, stv, vamoor, vamoadd. -/
def Obligations.RowAccessesQueue : Prop :=
  ∀ (d b : BitVec 5) (i : BitVec 6) (z c : BitVec 2) (x : Ext) (s t : State) (tgt : Target) (bytes : List Byte),
    let ea (u : Nat) : Nat := (s.me.reg b.toNat + BitVec.ofInt 64 ((signedImm x i).toInt * u)).toNat
    let spad := (s.me.reg d.toNat).toNat % 2 ^ 32
    let n := 64 * 2 ^ z.toNat
    (s.mayQueue (ea n) n n 1 tgt → s.myTask.spadFault s.cur.core spad n n = none →
      ∃ u q, exec (.ldv d b i z x) s = .next u ∧ s.queuesOne u q ∧ q.kind = .loadRow ∧ q.va = ea n ∧ q.size = n ∧
        q.spad = spad ∧ q.target = tgt) ∧
    (s.readTimed s.cur.task s.cur.core spad n n 6 s.me.pc = .ok (bytes, t) → t.mayQueue (ea n) n n 2 tgt →
      ∃ u q, exec (.stv d b i z x) s = .next u ∧ t.queuesOne u q ∧ q.kind = .storeRow ∧ q.va = ea n ∧ q.size = n ∧
        q.data = bytes ∧ q.target = tgt) ∧
    (s.readTimed s.cur.task s.cur.core spad 1024 64 6 s.me.pc = .ok (bytes, t) → ea 4 < 2 ^ 57 → ea 4 % 4 = 0 →
      let index (l : Nat) : Nat := leNat ((bytes.drop (4 * l)).take 4)
      let value (l : Nat) : Nat := leNat ((bytes.drop (512 + 4 * l)).take 4)
      let active := (List.range 128).filter fun l => index l ≠ 0xFFFFFFFF
      let place (l : Nat) : Nat := (ea 4 + 4 * index l) % 2 ^ 64
      (∀ l ∈ active, place l < 2 ^ 57 ∧ t.windowTarget (place l) 4 3 = .ok .untranslated) →
      t.entriesHeld s.cur.task s.cur.core + active.length ≤ 2048 →
      ∀ j add, (j, add) ∈ [(Instr.vamoor d b i c x, false), (.vamoadd d b i c x, true)] →
        ∃ u new, exec j s = .next u ∧ SlotFrame t u ∧ u.issued = t.issued ∧ u.traps = t.traps ∧ u.newQueue = t.newQueue ++ new ∧
          new.map (fun q => (q.va, q.v.toNat)) = active.map (fun l => (place l, value l)) ∧
          ∀ q ∈ new, q.kind = .vamo add ∧ q.size = 4 ∧ q.scope = c.toNat ∧ q.group = t.nextId)

/-- 13 R243, R248, R250: an effective address of 2^57 or more, one that is not aligned, and a core whose 2,048 entries are held raise
the address trap 0x1, 0x2 or 0x3 at issue, and nothing is queued. -/
def Obligations.QueuedAddressTraps : Prop :=
  ∀ (d b : BitVec 5) (i : BitVec 6) (z c : BitVec 2) (z1 sc : BitVec 1) (x : Ext) (s : State),
    let ea (u : Nat) : Nat := (s.me.reg b.toNat + BitVec.ofInt 64 ((signedImm x i).toInt * u)).toNat
    let n := 2 ^ z.toNat
    let m := if z1 = 1 then 8 else 4
    let forms := [(Instr.ld d b i z c sc x, n), (.lda d b i z c sc x, n), (.st d b i z c sc x, n), (.stl d b i z c sc x, n),
      (.amoadd d b i z1 c sc x, m), (.amoand d b i z1 c sc x, m), (.amoor d b i z1 c sc x, m), (.amoxor d b i z1 c sc x, m),
      (.amomin d b i z1 c sc x, m), (.amomax d b i z1 c sc x, m), (.amoswp d b i z1 c sc x, m), (.amocas d b i z1 c sc x, m),
      (.barriv d b i c x, 8), (.barwait d b i c x, 8), (.barinit d b i c x, 8)]
    let traps (j : Instr) (sub : Nat) : Prop := ∃ f : Trap → Trap, exec j s = .next (s.trap 0x12 sub f)
    ∀ j u, (j, u) ∈ forms →
      (2 ^ 57 ≤ ea u → traps j 1) ∧ (ea u < 2 ^ 57 → ea u % u ≠ 0 → traps j 2) ∧
      (ea u < 2 ^ 57 → ea u % u = 0 → inWindow (ea u) = false → 2048 ≤ s.entriesHeld s.cur.task s.cur.core → traps j 3)

/-! ### Class FAB: the stream fabric and the sequence unit -/

/-- 11 R222, R224, R227 to R229: SFBIND reads its record and performs at n + 320, SFGO queues a run on the fabric engine, SFSTAT
reads the stream, SFREL performs at n + 320, SFMASH sets the bill of the runs after it; an id that names no bound stream is stream
trap 0x6.  That SFGO takes FMT.SUB of its own bundle is the model's choice (log 52), and so is that its fabric trap comes before
its timing fault (log 131). Completes: sfbind, sfgo, sfstat, sfrel, sfmash. -/
def Obligations.StreamInstructions : Prop :=
  ∀ (d a b : BitVec 5) (y : BitVec 1) (sel : BitVec 3) (s t : State) (bytes : List Byte) (n : Nat),
    let id := s.me.reg a.toNat
    let st := s.stream n
    let start := (s.me.reg b.toNat).toNat
    let runs := (s.streamRuns s.cur.task n).length
    let record := (List.range 12).map fun i => BitVec.ofNat 64 (leNat ((bytes.drop (8 * i)).take 8))
    (s.readTimed s.cur.task s.cur.core (id.toNat % 2 ^ 32) 96 32 5 s.me.pc = .ok (bytes, t) →
      (recReserved record = true → exec (.sfbind d a y) s = .next (s.trap 0x10 1)) ∧
      (recReserved record = false → recIllegal record = true → exec (.sfbind d a y) s = .next (s.trap 0x10 2)) ∧
      (recReserved record = false → recIllegal record = false →
        exec (.sfbind d a y) s = .next (t.issue 320 (.sfbind d.toNat record (y = 1) s.gcyc)))) ∧
    (s.streamOf id = none → (∀ j ∈ [Instr.sfgo a b y, .sfstat d a sel, .sfrel a, .sfmash a b], exec j s = .next (s.trap 0x10 6))) ∧
    (s.streamOf id = some n →
      (∀ v, (sel.toNat, v) ∈ [(0, 1 + (if st.isSealed then 2 else 0) + (if s.owedRuns s.cur.task n = [] then 0 else 4) + st.runs % 256 * 256),
          (1, st.crc.toNat), (2, st.clamps), (3, st.sats), (4, st.poisons), (5, st.lastP),
          (6, ((s.bill s.cur.task st.bill).map (·.depth)).getD 0)] →
        exec (.sfstat d a sel) s = .next (s.scalarResult 1 d (BitVec.ofNat 64 v))) ∧
      (let slot := start % 256
       let tape := s.tape s.myTask.ctx (st.handle.toNat % 2 ^ 16)
       (slot < 8 ∨ slot = 0xFF → s.billFits s.cur.task st tape.format.toNat slot = true →
         exec (.sfmash a b) s = .next (s.issue 0 (.sfmash n slot))) ∧
       (¬((slot < 8 ∨ slot = 0xFF) ∧ s.billFits s.cur.task st tape.format.toNat slot = true) → exec (.sfmash a b) s = .next (s.trap 0x10 8)))) ∧
    (s.streamLive (s.streamOf id) = some n →
      (runs = 0 → exec (.sfrel a) s = .next (s.issue 320 (.sfrel n st.gen s.gcyc))) ∧
      (runs ≠ 0 → exec (.sfrel a) s = .next (s.trap 0x10 6)) ∧
      (s.runBad n (st.runs + runs) st = true → exec (.sfgo a b y) s = .next (s.trap 0x10 6)) ∧
      (s.runBad n (st.runs + runs) st = false → s.timingFail 5 start = none →
        let moved := s.runLines s.myTask.ctx st.record (originOf st.record (st.runs + runs))
        let latency := if moved.1 = [] then 0 else if moved.2 = 1 then 300 else if moved.2 = 2 then 900 else 2400
        let depth := ((s.bill s.cur.task st.bill).map (·.depth)).getD 0
        exec (.sfgo a b y) s = .next (s.issue 0 (.command 5 ⟨s.nextId, s.me.pc, s.cur.slot, s.dc, s.gcyc, start,
          start + latency + 8 * depth + (64 * moved.1.length + 127) / 128,
          .run n st.bill (st.runs + runs) (y = 1) (s.myFmt.getLsbD 14)⟩))))

/-- 12 R233, R235 to R237, R239: the sequence unit's registers, tables and draws; QSAVE and QLOAD of c dimensions queue a command on
the sequence engine with P = S + 8 + ⌈320c/512⌉, a count or range that the rule forbids is sequence trap 0x1 and an image that is
not aligned 0x2.  An index of 0 gives the digital shift alone; with an identity scramble (every L row zero below its diagonal) the
point is the exclusive or of the direction numbers that the index selects, and the shift.  The words that a draw reads are log
113's. Completes: qdim, qidx, qstr, qdir, qscr, qscrShift, qgen, qgenv, qsave, qload. -/
def Obligations.SequenceInstructions : Prop :=
  (∀ (a b j : BitVec 5) (i : BitVec 7) (y h f : BitVec 1) (s : State),
     let u := s.me.seq
     let low (r : BitVec 5) : Lane := (s.me.reg r.toNat).setWidth 32
     let sets (u' : SeqUnit) : Out := .next (s.issue 0 (.seqUnit u'))
     exec (.qdim a i) s = sets { u with dim := BitVec.ofNat 8 ((s.me.reg a.toNat).toNat + i.toNat) } ∧
     exec (.qidx a b y) s = sets { u with idx := low a, off := if y = 1 then low b else u.off } ∧
     exec (.qstr a) s = sets { u with str := low a } ∧
     exec (.qdir a j) s = .next (s.issue 1 (.seqV (32 * u.dim.toNat + j.toNat) (low a))) ∧
     exec (.qscr a j) s = .next (s.issue 1 (.seqL (32 * u.dim.toNat + j.toNat) (low a))) ∧
     exec (.qscrShift a) s = .next (s.issue 1 (.seqE u.dim.toNat (low a))) ∧
     (∀ q (dim index : Nat → Nat) (step : Lane),
       (q = Instr.qgen h f ∧ dim = (fun _ => u.dim.toNat) ∧ step = 128 * u.str ∧
         index = (fun l => (u.off.toNat + u.idx.toNat + l * u.str.toNat) % 2 ^ 32)) ∨
       (q = .qgenv h f ∧ dim = (fun l => (u.dim.toNat + l) % 256) ∧ step = u.str ∧
         index = (fun _ => (u.off.toNat + u.idx.toNat) % 2 ^ 32)) →
       ((∃ l < 128, u.badPoint (dim l) (index l) = true) → exec q s = .next (s.trap 8 3)) ∧
       ((∀ l < 128, u.badPoint (dim l) (index l) = false) → ∃ row : Row, row.length = 128 ∧
         (∀ l < 128, row.getD l 0 = if f = 1 then unitFloat (u.point (dim l) (index l)) else u.point (dim l) (index l)) ∧
         exec q s = .next (s.issueAll ((4, .seqRow row) :: if h = 1 then [] else [(0, .seqUnit { u with idx := u.idx + step })]))))) ∧
  (∀ (d a b : BitVec 5) (s : State),
     let image := (s.me.reg a.toNat).toNat % 2 ^ 32
     let v := (s.me.reg b.toNat).toNat
     let f := v % 256
     let c := v / 256 % 512
     let start := (s.me.reg d.toNat).toNat
     let legal := 0 < c ∧ f + c ≤ 256 ∧ v < 2 ^ 17
     ∀ j op, (j, op) ∈ [(Instr.qsave d a b, CmdOp.qsave image f c), (.qload d a b, .qload image f c)] →
       (¬legal → exec j s = .next (s.trap 0x11 1)) ∧
       (legal → image % 64 ≠ 0 → ∃ g : Trap → Trap, exec j s = .next (s.trap 0x11 2 g)) ∧
       (legal → image % 64 = 0 → s.myTask.spadFault s.cur.core image (320 * c) 1 = none → s.timingFail 6 start = none →
         exec j s = .next (s.issue 0 (.command 6 ⟨s.nextId, s.me.pc, s.cur.slot, s.dc, s.gcyc, start,
           start + 8 + (320 * c + 511) / 512, op⟩)))) ∧
  (∀ (u : SeqUnit) (dim k : Nat),
     u.point dim 0 = get u.e 0 dim ∧
     ((∀ i < 32, scrambleRow (get u.l 0 (32 * dim + i)) i = 2 ^ (31 - i)) →
       u.point dim k = (List.range 32).foldl (fun x j => if k.testBit j then x ^^^ get u.v 0 (32 * dim + j) else x) 0 ^^^
         get u.e 0 dim))

/-! ### Class GRAPH -/

/-- 16 R295 to R299: launches take their place in the launch list once each, at most sixteen; a record address that is not a
multiple of 64 below 2^57 is launch trap 0x1 and a seventeenth entry 0x2; signals, QSYNC, launch priority and arguments. Completes:
klaunch, klaunchc, gsig, qsync, gprio, garg. -/
def Obligations.GraphInstructions : Prop :=
  ∀ (d a b : BitVec 5) (y : BitVec 1) (i : BitVec 7) (s : State),
    let A := s.me.reg a.toNat
    let B := s.me.reg b.toNat
    let k := s.myTask
    let list := s.launchList s.cur.task
    let legal := A.toNat < 2 ^ 57 ∧ A.toNat % 64 = 0
    (∀ j ∈ [Instr.klaunch a y] ++ (if B = 0 then [] else [.klaunchc a b y]),
      (legal → A.toNat ∉ list → list.length < 16 → exec j s = .next (s.issue 0 (.launch A.toNat (y = 1)))) ∧
      (legal → A.toNat ∈ list → exec j s = .next s) ∧
      (¬legal → ∃ f : Trap → Trap, exec j s = .next (s.trap 0x13 1 f)) ∧
      (legal → A.toNat ∉ list → 16 ≤ list.length → ∃ f : Trap → Trap, exec j s = .next (s.trap 0x13 2 f))) ∧
    (B = 0 → exec (.klaunchc a b y) s = .next s) ∧
    exec (.gsig a b) s = .next (s.issue 0 (.signal (A.setWidth 16) B)) ∧
    exec (.qsync d) s = .next (s.issue 0 (.qsync d.toNat)) ∧
    exec (.gprio a) s = .next (s.issue 0 (.prio (if A.getLsbD 2 then some (min (A.toNat % 4) k.prio) else none))) ∧
    (∀ v, (i.toNat, v) ∈ [(0x40, k.node), (0x41, k.steps), (0x42, k.launches)] →
      exec (.garg d i) s = .next (s.scalarResult 1 d (BitVec.ofNat 64 v))) ∧
    (i.toNat < 0x40 → exec (.garg d i) s = .next (s.scalarResult 1 d (if k.argsValid then k.args.getD i.toNat 0 else 0)))

/-! ### Events of tape tables, heads, streams and launches -/

/-- 08 R152 to R156, R158 to R160, R163, R166, 11 R222, R223, 16 R284, R295 to R297: table operations change the one entry they
name, open the head or answer their register, or are a tape trap; a close of a writing head waits for its last write; head writes
stand in the window and are owed to memory; a refill holds the lines asked for; a stream binds and is released; QSYNC answers the
step count; a now launch arrives. Completes: tableOperationPerform, headCloseTableWrite, headWritePerform, hwaitComplete,
headRefillFetch, sfbindPerform, sfrelPerform, qsyncComplete, nowLaunchArrival.  The model's choices: HLEASE on the task's own lease
is refused with 0x3 (log 60), an append head that has closed but not reached the table still appends (log 61), and a scatter's bind
and release leave RCORE and RMULTI as a reader's opening and close do (log 63). -/
def Obligations.TapesHeadsStreamsAndLaunches : Prop :=
  ∀ (s : State) (t id : Nat),
    let k := s.task t
    let v := s.dropOwed t id
    (∀ o, s.dueOwed t id = some o →
      let left := k.owed.filter fun p => p.id ≠ id
      let me := k.physCore o.core
      (∀ h handle oid op reg issue implicit, o.eff = .table h handle oid op reg issue implicit →
        let i := handle.toNat % 2 ^ 16
        let e := s.tape k.ctx i
        let hd := (s.core t o.core).head h
        let ev : Instr := if o.eff.isCloseWrite then .headCloseTableWrite t id else .tableOperationPerform t id
        let runs (e' : TapeEntry) (opens : Option Word) (answer : Word) : Prop :=
          ∃ u, exec ev s = .next u ∧ u.mem = s.mem ∧ s.oneTape u k.ctx i e' ∧ (u.task t).owed = left ∧ (u.task t).raised = k.raised ∧
            (∀ n, (u.core t o.core).head n = match opens with
              | some pos => if n = h ∧ hd.oid = oid then { hd with status := .opened, fmt := e.format.toNat, pos := pos }
                else (s.core t o.core).head n
              | none => (s.core t o.core).head n) ∧
            (opens = none → op ≠ .free_ → s.resultStands t o.core id reg → (u.core t o.core).reg reg = answer)
        let traps (sub : Nat) : Prop :=
          ∃ u tr, exec ev s = .next u ∧ u.mem = s.mem ∧ (∀ c j, u.tape c j = s.tape c j) ∧ (u.task t).owed = left ∧
            (u.task t).raised = k.raised ++ [tr] ∧ tr.cause = 0x0C ∧ tr.sub = sub ∧ tr.core = o.core ∧ tr.pc = o.pc
        (o.eff.isClose = true → s.closeReady t o = true) →
        (implicit = false → s.boundTape t handle = false → traps 1) ∧
        (implicit = true ∨ s.boundTape t handle = true →
          (∀ g, op = .new_ g → (e.state ≠ 0 → traps 2) ∧ (e.state = 0 → runs { e with state := 1, length := 0 } (some 0) 0)) ∧
          (∀ b g, op = .open_ true b g → (e.state ≠ 1 → traps 2) ∧
            (e.state = 1 → (v.appending k.ctx i || v.streamAppends k.ctx i) = true → traps 3) ∧
            (e.state = 1 → (v.appending k.ctx i || v.streamAppends k.ctx i) = false →
              runs e (some (e.length.zeroExtend 64)) 0)) ∧
          (∀ b g, op = .open_ false b g → (¬(e.state = 2 ∨ e.state = 3 ∧ e.lessee.toNat = me) → traps 2) ∧
            (e.state = 2 ∨ e.state = 3 ∧ e.lessee.toNat = me →
              runs (e.read me) (some (if b then e.length.zeroExtend 64 - 1 else 0)) 0)) ∧
          (∀ b g, op = .lease b g → (e.state = 0 ∨ e.state = 1 → traps 2) ∧ (e.state = 3 → traps (if e.lessee.toNat = me then 3 else 2)) ∧
            (e.state = 2 → e.readers ≠ 0 ∧ (e.rmulti = true ∨ e.rcore.toNat ≠ me) → traps 3) ∧
            (e.state = 2 → ¬(e.readers ≠ 0 ∧ (e.rmulti = true ∨ e.rcore.toNat ≠ me)) →
              runs { e with state := 3, lessee := BitVec.ofNat 10 me, leased := true }
                (some (if b then e.length.zeroExtend 64 - 1 else 0)) 0)) ∧
          (op = .free_ → (e.state ≠ 2 → traps 2) ∧ (e.state = 2 → e.readers ≠ 0 → traps 3) ∧
            (e.state = 2 → e.readers = 0 → runs { e with state := 0, length := 0, stale := false } none 0)) ∧
          (op = .closeRead → runs { e with readers := e.readers - 1, rmulti := e.readers ≠ 1 && e.rmulti } none 0) ∧
          (∀ last pos, op = .closeWrite .append last pos → runs { e with length := pos.truncate 40, state := if last then 2 else e.state }
            none (if last then (pos.truncate 40 : BitVec 40).zeroExtend 64 else 0)) ∧
          (∀ last pos, op = .closeWrite .update last pos → runs { e with state := 2, leased := false, stale := e.stale || e.mirror } none 0))) ∧
      (∀ oid reg, o.eff = .hwait oid reg → s.headSettled t o.core oid id = true →
        ∃ u, exec (.hwaitComplete t id) s = .next u ∧ s.onlyTask u t ∧ (u.task t).owed = left ∧
          (s.resultStands t o.core id reg → (u.core t o.core).reg reg = 0)) ∧
      (∀ oid handle f elems update h pos, o.eff = .headWrite oid handle f elems update h pos →
        let base := (s.tape k.ctx (handle.toNat % 2 ^ 16)).base.toNat
        ∃ u, exec (.headWritePerform t id) s = .next u ∧ u.mem = s.mem ∧ (u.task t).owed = left ∧ (∀ j, j ≠ t → u.task j = s.task j) ∧
          (∀ l ∈ elemLines f (elems.map (·.1)), ∃ b ∈ (u.core t o.core).behind, b.oid = oid ∧ b.line = l) ∧
          ∀ e w, elems = [(e, w)] → f ≠ 9 → ∀ j ≤ (elemBytes f e).2 - (elemBytes f e).1,
            find? (u.core t o.core).winMem (base + (elemBytes f e).1 + j) = some (BitVec.ofNat 8 (w.toNat / 256 ^ j))) ∧
      (∀ reg r scatter issue, o.eff = .sfbind reg r scatter issue →
        let i := (recTape r).toNat % 2 ^ 16
        let e := s.tape k.ctx i
        (v.recordInstance t r scatter = none → ∃ u tr, exec (.sfbindPerform t id) s = .next u ∧ u.mem = s.mem ∧ u.streams = s.streams ∧
          (u.task t).raised = k.raised ++ [tr] ∧ tr.cause = 0x10 ∧ tr.sub = 3 ∧ tr.core = o.core) ∧
        ∀ inst n old, v.recordInstance t r scatter = some inst → s.boundTape t (recTape r) = true →
          e.state = (if scatter then 2 else 0) →
          (match s.bill t (recBill r) with
            | none => recBill r = 0xFF ∧ e.format.toNat = recFormat r
            | some b => if scatter then b.packFmt = recFormat r else b.packFmt = e.format.toNat ∧ b.leaf = false) →
          s.streams.find? (fun x => x.1 / 16 = inst && x.2.owner = some t && !x.2.bound) = some (n, old) →
          ∃ u, exec (.sfbindPerform t id) s = .next u ∧ u.mem = s.mem ∧ (u.task t).owed = left ∧ (u.task t).raised = k.raised ∧
            u.stream n = ⟨old.owner, o.core, true, (old.gen + 1) % 256, scatter, r, originOf r 0, recBill r, recTape r, false, 0, 0, 0, 0, 0, 0, 0⟩ ∧
            s.oneTape u k.ctx i (if scatter then e.read me else { e with state := 1, length := 0 }) ∧
            (s.resultStands t o.core id reg → (u.core t o.core).reg reg = BitVec.ofNat 64 ((old.gen + 1) % 256 * 256 + n))) ∧
      (∀ n gen issue, o.eff = .sfrel n gen issue →
        let st := s.stream n
        let i := st.handle.toNat % 2 ^ 16
        let e := s.tape k.ctx i
        ∃ u, exec (.sfrelPerform t id) s = .next u ∧ u.mem = s.mem ∧ (u.task t).owed = left ∧
          (st.bound = true → st.gen = gen → st.owner = some t → (u.stream n).bound = false ∧
            s.oneTape u k.ctx i (if st.scatter then { e with readers := e.readers - 1, rmulti := e.readers ≠ 1 && e.rmulti }
              else if e.state = 1 then { e with state := 2 } else e)) ∧
          (¬(st.bound = true ∧ st.gen = gen ∧ st.owner = some t) → u.streams = s.streams ∧ ∀ c j, u.tape c j = s.tape c j))) ∧
    (∀ due lines, k.refill = some (due, lines) → due ≤ s.gcyc →
      ∃ u, exec (.headRefillFetch t) s = .next u ∧ (u.task t).refill = none ∧ (∀ j, j ≠ t → u.task j = s.task j) ∧
        ∀ x ∈ lines, x.2.2 ∈ ((u.core t x.1).head x.2.1).held) ∧
    (s.alive = true →
      (∀ core x reg, k.qsyncs.find? (fun q => q.2.1 = id) = some (core, x, reg) →
        (k.posts.any fun p => p.core = core && p.now && !p.applied && p.id < id) = false →
        ∃ u, exec (.qsyncComplete t id) s = .next u ∧ s.onlyTask u t ∧ (u.task t).qsyncs = k.qsyncs.filter (fun q => q.2.1 ≠ id) ∧
          (s.resultStands t core id reg → (u.core t core).reg reg = BitVec.ofNat 64 (get s.ctxs Context.start k.ctx).steps)) ∧
      ∀ p, s.post t id = some p → s.postReady t p = true →
        ∃ u, exec (.nowLaunchArrival t id) s = .next u ∧
          (u.task t).posts = k.posts.map (fun q => if q.id = id then { q with applied := true } else q) ∧
          (∀ w, p.isSignal = false → s.becomesReady k.ctx p.addr w →
            u.ready = s.ready ++ [s.readyAt k.ctx p.addr w (p.prio.getD (recPrio w))]) ∧
          ∀ q, p.isSignal = true → (get s.ctxs Context.start k.ctx).cq = some q → q.held = [] → q.producer < q.consumed + q.size →
            u.mem = s.mem ∧ (get u.ctxs Context.start k.ctx).cq = some { q with producer := q.producer + 1, ovf := false })

/-! ### Events of the engines -/

/-- 03 R51, 09 R187 to R192, R195, 10 R204, 11 R218, R223, R224, 12 R237: an engine command starts in its start cycle, or traps
where a record is out of range; at its perform dc it is done and its bytes, records or elements stand where it sends them; a source
line that cannot be read suspends a copy, which goes on once Floor's answer has come; a run whose lines have not moved by its last
dc is the timing fault 0x6; a write to an executable page is the permission fault (02 R33), and a reduction onto words that hold a
double-bit error the SRAM error (17 R303). Completes: engineCommandStart, copyPerform, copySuspend, copyReplayCaughtUp,
sequenceEnginePerform, streamRunPerform, streamDeadlineFault.  The model's choices: a copy moves 512 bytes of main memory a dc and its
cursor counts 4 KiB chunks (log 100), and whether a fault arose inside a fabric graph, so that the copy is replayed whole, is a free
choice (log 137). -/
def Obligations.EnginesStartAndPerform : Prop :=
  ∀ (s : State) (t c e : Nat),
    let k := s.task t
    let q := s.core t c
    (∀ cmd, (q.engine e).pending.find? (·.start = k.dc) = some cmd →
      (∀ f, s.badRecord t cmd.op = some f → ∃ u tr, exec (.engineCommandStart t c e) s = .next u ∧ s.raisesOne u t tr ∧
        (tr.cause = 0x0F ∧ tr.sub = 4 ∨ tr.cause = 0x16 ∧ tr.sub = 0) ∧ tr.core = c ∧ tr.engine = e ∧ tr.pc = cmd.pc) ∧
      (s.badRecord t cmd.op = none → ∃ u, exec (.engineCommandStart t c e) s = .next u ∧ u.mem = s.mem ∧
        (∀ j, j ≠ t → u.task j = s.task j) ∧ (∀ d, (s.core t d).sameRegisters (u.core t d)) ∧
        ((u.core t c).engine e).pending = (q.engine e).pending.filter (·.id ≠ cmd.id) ∧
        ∃ r, ((u.core t c).engine e).running = some r ∧ r.cmd = cmd)) ∧
    (∀ r, s.performing t c e = some r → ∃ u, exec (.copyPerform t c e) s = .next u ∧ ((u.core t c).engine e).running = none ∧
      (∀ j, j ≠ t → s.sameTask u j) ∧ (∀ d, (s.core t d).sameRegisters (u.core t d)) ∧
      (∀ f, s.reduceFail t r.cmd.op = some f → u.mem = s.mem ∧
        ∃ tr, (u.task t).raised = k.raised ++ [tr] ∧ tr.cause = 0x1B ∧ tr.sub = 0 ∧ tr.core = c ∧ tr.engine = e ∧ tr.pc = r.cmd.pc) ∧
      ∀ d l, s.reduceFail t r.cmd.op = none → s.cmdWrites t c r = [(d, l)] →
        (inWindow d = true → k.captured = [] → (∀ x, Memory.wf (s.core t x).slice) →
          let a := d % 2 ^ 32
          u.mem = s.mem ∧
          (∀ x y, Memory.byte (u.core t x).slice y =
            if x = spadCore a ∧ spadOff a ≤ y ∧ y < spadOff a + l.length then l.getD (y - spadOff a) 0
            else Memory.byte (s.core t x).slice y) ∧
          ∀ x n, let le := (s.core t x).leafEntry n
            (u.core t x).leafEntry n = if x = spadCore a ∧ n ∈ (s.core t x).leavesIn (spadOff a) l.length then
              { le with tag := le.tag + 1, lines := 64, len := le.cap, next := 4096 } else le) ∧
        (∀ f, inWindow d = false → s.executableFail t [(d, l.length)] = some f → u.mem = s.mem ∧
          ∃ tr, (u.task t).raised = k.raised ++ [tr] ∧ tr.cause = 0x16 ∧ tr.sub = 0 ∧ tr.core = c ∧ tr.engine = e ∧ tr.pc = r.cmd.pc) ∧
        (∀ p, inWindow d = false → s.executableFail t [(d, l.length)] = none → Memory.wf s.mem → s.mapsTo k.ctx d l.length p →
          (∀ x, (u.core t x).slice = (s.core t x).slice) ∧
          ∀ a, Memory.byte u.mem a = if p ≤ a ∧ a < p + l.length then l.getD (a - p) 0 else Memory.byte s.mem a)) ∧
    (∀ r m line, (q.engine e).running = some r → r.suspended = some (m, line) →
      ∃ u tr, exec (.copySuspend t c e) s = .next u ∧ u.mem = s.mem ∧ (∀ j, j ≠ t → u.task j = s.task j) ∧
        u.task t = { k with raised := k.raised ++ [tr] } ∧ tr.cause = 0x1A ∧ tr.sub = 0 ∧ tr.core = c ∧ tr.engine = e ∧
        tr.pc = r.cmd.pc ∧ tr.d7 = BitVec.ofNat 64 (64 * line) ∧ tr.d10 = BitVec.ofNat 64 m) ∧
    (∀ r v due m line, (q.engine e).running = some r → k.service = some v → v.kind = .replay due → r.suspended = some (m, line) →
      due ≤ s.gcyc → ∃ u w, exec (.copyReplayCaughtUp t c e) s = .next u ∧ ((u.core t c).engine e).running = some w ∧ w.cmd = r.cmd ∧
        ∃ first, (first = m ∨ first = 0) ∧
        ((∀ p ≤ k.dc - r.cmd.start, 8 * first ≤ p → s.pieceFail t r p = none) → w.suspended = none ∧
          (let src := r.cmd.op.memorySource (if r.cmd.op.gathers then r.indices else k.indicesOf r.cmd.op r.indices)
           w.bytes = if src = [] then r.bytes
             else r.bytes.take (4096 * first) ++ (s.readMemory t s.mem src).drop (4096 * first)) ∧
          ((u.task t).suspends = false → (u.task t).service = none ∧
            (u.task t).status = if v.draining then .frozen else .running))) ∧
    (∀ r, s.performing t c 6 = some r → ∃ u, exec (.sequenceEnginePerform t c) s = .next u ∧ u.mem = s.mem ∧
      ((u.core t c).engine 6).running = none ∧ (∀ j, j ≠ t → s.sameTask u j) ∧
      (∀ a f n, r.cmd.op = .qload a f n → ∀ i < n,
        let w (x : Nat) : Lane := BitVec.ofNat 32 (leNat ((r.bytes.drop (320 * i + 4 * x)).take 4))
        get (u.core t c).seq.e 0 (f + i) = w 64 ∧
        ∀ j < 32, get (u.core t c).seq.v 0 (32 * (f + i) + j) = w j ∧ get (u.core t c).seq.l 0 (32 * (f + i) + j) = w (32 + j)) ∧
      (∀ a f n, r.cmd.op = .qsave a f n → k.captured = [] → Memory.wf (s.core t (spadCore a)).slice →
        Memory.bytes (u.core t (spadCore a)).slice (spadOff a) r.bytes.length = r.bytes)) ∧
    (∀ r n slot i last sub, s.performing t c 5 = some r → r.cmd.op = .run n slot i last sub →
      let st := s.stream n
      let count := recCount st.record
      let tape := st.handle.toNat % 2 ^ 16
      ∃ u, exec (.streamRunPerform t c) s = .next u ∧ ((u.core t c).engine 5).running = none ∧
        ((∃ tr, (u.task t).raised = k.raised ++ [tr] ∧ (tr.cause = 0x10 ∧ tr.sub = 7 ∨ tr.cause = 0x16 ∧ tr.sub = 0) ∧ tr.core = c ∧
            tr.engine = 5 ∧ u.mem = s.mem) ∨
          (u.stream n).runs = st.runs + 1 ∧ (u.stream n).total = st.total + count ∧ (u.stream n).lastP = r.cmd.perform ∧
          (st.scatter = false → (u.stream n).isSealed = (st.isSealed || last) ∧
            (u.tape k.ctx tape).length = BitVec.ofNat 40 (st.total + count) ∧
            (u.tape k.ctx tape).state = if last then 2 else (s.tape k.ctx tape).state)) ∧
        (s.bill t slot = none → (∀ pa, s.attributed pa 64 [2] = false) → (u.stream n).runs = st.runs + 1)) ∧
    (∀ d, k.debts.find? (fun d => d.core = c && d.engine = e && d.deadline ≤ k.dc && !d.lines.isEmpty) = some d →
      ∃ u tr, exec (.streamDeadlineFault t c e) s = .next u ∧ s.raisesOne u t tr ∧ tr.cause = 5 ∧ tr.sub = 6 ∧ tr.core = c ∧
        tr.engine = e ∧ tr.pc = d.pc ∧ tr.d7 = BitVec.ofNat 64 d.start)

/-- 07 R135, R139, R141, R143, R144, R146, R148: a WBFILL fills its slot once its rows are popped, or traps on a bad header; a plane
load ends; an MMA swaps the shadow in at its input start; a row that is due adds each live column's exact sum to the tile, saturated
to 40 bits; accumulator writes take place in their mc; a read of a tile that holds a double-bit error is the SRAM error (17 R303).
Completes: wbfillComplete, planeLoadComplete, mmaInputStart, mmaRowPerform,
accumulatorWritePerform. -/
def Obligations.MatrixEventsPerform : Prop :=
  ∀ (s : State) (t c id : Nat),
    let k := s.task t
    let m := (s.core t c).mtx
    (∀ f, m.fills.find? (·.id = id) = some f → f.start + f.rows ≤ k.mc →
      ∃ u, exec (.wbfillComplete t c id) s = .next u ∧ (u.core t c).mtx.fills = m.fills.filter (·.id ≠ id) ∧
        (segOk (f.bytes.take 16384) = true → s.onlyCore u t c ∧ (s.core t c).sameRegisters (u.core t c) ∧
          ∀ w, get (u.core t c).mtx.slots WbSlot.start w = if w = f.wb then
            { get m.slots WbSlot.start w with bytes := f.bytes.take 16384, valid := true } else get m.slots WbSlot.start w) ∧
        (segOk (f.bytes.take 16384) = false → m.sameContents (u.core t c).mtx ∧
          ∃ tr, (u.task t).raised = k.raised ++ [tr] ∧ tr.cause = 0x0A ∧ tr.sub = 1 ∧ tr.core = c ∧ tr.pc = f.pc)) ∧
    (∀ l, m.loads.find? (fun l => l.plane.id = id && l.plane.validAt ≤ k.mc) = some l →
      ∃ u, exec (.planeLoadComplete t c id) s = .next u ∧ s.onlyCore u t c ∧ (s.core t c).sameRegisters (u.core t c) ∧
        m.sameContents (u.core t c).mtx ∧ (u.core t c).mtx.loads = m.loads.filter (·.plane.id ≠ id)) ∧
    (∀ a, m.mmas.find? (fun a => a.id = id && a.start = k.mc && a.swap) = some a →
      ∃ u, exec (.mmaInputStart t c id) s = .next u ∧ s.onlyCore u t c ∧ (s.core t c).sameRegisters (u.core t c) ∧
        m.sameContents (u.core t c).mtx ∧ (u.core t c).mtx.shadow = m.active ∧
        (u.core t c).mtx.active = { a.plane with
          ok := m.shadow.ok && m.shadow.id = a.plane.id, claim := if m.shadow.id = a.plane.id then m.shadow.claim else some a.start }) ∧
    (∀ a, m.mmas.find? (·.id = id) = some a → a.inFlight.filter (·.mc ≤ k.mc) ≠ [] → (∃ z ∈ a.reads, (1, z) ∈ (s.core t c).sram) →
      ∃ u tr, exec (.mmaRowPerform t c id) s = .next u ∧ s.raisesOne u t tr ∧ tr.cause = 0x1B ∧ tr.core = c ∧ tr.engine = 4 ∧ tr.pc = a.pc) ∧
    (∀ a, m.mmas.find? (·.id = id) = some a → (∀ z ∈ a.reads, (1, z) ∉ (s.core t c).sram) →
      ∃ u, exec (.mmaRowPerform t c id) s = .next u ∧ s.onlyCore u t c ∧ (s.core t c).sameRegisters (u.core t c) ∧
        (u.core t c).mtx.slots = m.slots ∧
        ∀ row, a.inFlight.filter (·.mc ≤ k.mc) = [row] → row.row < 64 → a.zero = false → (a.plane.cols.map (·.1)).Nodup →
          (∀ col ∈ a.plane.cols, m.rowExpOf (a.z + col.1 / 128) row.row = row.scale ∧
            m.laneExpOf (a.z + col.1 / 128) (col.1 % 128) = col.2.1) →
          (u.core t c).mtx.rowExp = m.rowExp ∧ (u.core t c).mtx.laneExp = m.laneExp ∧
          (∀ col ∈ a.plane.cols, (u.core t c).mtx.elem (a.z + col.1 / 128) row.row (col.1 % 128) =
            max (-2 ^ 39) (min (2 ^ 39 - 1) (m.elem (a.z + col.1 / 128) row.row (col.1 % 128) +
              columnSum a.plane.k (fmtAcc a.fmt = 1) row.q col.2.2))) ∧
          ∀ z r l, r < 64 → l < 128 → (r ≠ row.row ∨ ∀ col ∈ a.plane.cols, (z, l) ≠ (a.z + col.1 / 128, col.1 % 128)) →
            (u.core t c).mtx.elem z r l = m.elem z r l) ∧
    ((∃ w ∈ m.writes, w.id = id ∧ w.mc ≤ k.mc ∧ w.op.reads = true ∧ (1, w.tile) ∈ (s.core t c).sram) →
      ∃ u tr, exec (.accumulatorWritePerform t c id) s = .next u ∧ s.raisesOne u t tr ∧ tr.cause = 0x1B ∧ tr.core = c ∧ tr.engine = 4) ∧
    ((∀ w ∈ m.writes, w.id = id → w.mc ≤ k.mc → w.op.reads = true → (1, w.tile) ∉ (s.core t c).sram) →
      ∃ u, exec (.accumulatorWritePerform t c id) s = .next u ∧ s.onlyCore u t c ∧ (s.core t c).sameRegisters (u.core t c) ∧
      (u.core t c).mtx.writes = m.writes.filter (fun w => !(w.id = id && w.mc ≤ k.mc)) ∧
      ∀ w, m.writes.filter (fun w => w.id = id && w.mc ≤ k.mc) = [w] →
        let n := (u.core t c).mtx
        ((∀ r g v, w.op = .writeRow r g v → r < 64) → ∀ z, z ≠ w.tile → ∀ r l, r < 64 → l < 128 → n.elem z r l = m.elem z r l) ∧
        (∀ r v, w.op = .writeRow r false v → ∀ l < 128, n.elem w.tile r l = (v.getD l 0).toInt) ∧
        (w.op = .clear → ∀ r l, r < 64 → l < 128 → n.elem w.tile r l = 0 ∧ n.rowExpOf w.tile r = 0 ∧ n.laneExpOf w.tile l = 0) ∧
        (∀ v, w.op = .writeExps false v → ∀ r < 64, n.rowExpOf w.tile r = ((v.getD r 0).truncate 8 : BitVec 8).toInt) ∧
        (∀ v, w.op = .writeExps true v → ∀ l < 128, n.laneExpOf w.tile l = ((v.getD l 0).truncate 8 : BitVec 8).toInt) ∧
        (∀ v, w.op = .norm v → ∀ r l, r < 64 → l < 128 → n.elem w.tile r l =
          if 40 ≤ v.getD r 0 then 0 else roundInt 0 (m.elem w.tile r l < 0) (m.elem w.tile r l).natAbs (-(v.getD r 0 : Int))) ∧
        (w.op = .clearOvf → n.ovf = m.ovf &&& ~~~BitVec.ofNat 24 (2 ^ w.tile)))

/-! ### Events of the queued path -/

/-- 04 R88, 10 R199, 13 R249 to R259, 14 R268, 15 R276, R278, R281, 23 R344, R347: an access that may perform reads or writes
exactly the bytes at its place and leaves the queue: loads answer them, stores and atomics write them, barrier operations count; a
line that is lost is a trap, and so is a write of scratchpad that a read recorded at a freeze forbids (03 R61); an access to a peer
frame is sent.  A fence completes once what is before it has, and takes the fault of a store that a peer refused.  A walk translates
its access or takes the walk's fault.  What a write leaves is stated of a memory in its canonical form, which every step keeps
(MemoryStaysCanonical).  That an atomic at a narrower scope than chip may write some time after its read is the model's choice
(log 107), and so is that a request may meet a far end that discards a flit of it (log 140). Completes: queuedLoadPerform,
queuedWritePerform, atomicPerform, barrierPerform, fencecComplete, scfenceComplete, translationWalk. -/
def Obligations.QueuedAccessesPerform : Prop :=
  ∀ (s : State) (id : Nat) (a : QAcc), s.acc id = some a →
    let k := s.task a.task
    let afresh (q : QAcc) : QAcc := { q with old := none, lost := none }
    let gone (u : State) : Prop := u.queue.map afresh = (s.queue.filter (·.id ≠ id)).map afresh ∧
      ∀ t, t ≠ a.task → (u.task t).raised = (s.task t).raised
    let answers (u : State) (v : Word) : Prop :=
      s.resultStands a.task a.core id a.dest → (u.core a.task a.core).reg a.dest = v
    let writes (u : State) (pa : Nat) (l : List Byte) : Prop :=
      gone u ∧ (u.task a.task).raised = k.raised ∧
        (Memory.wf s.mem → s.sameOutside u pa l.length ∧ Memory.bytes u.mem pa l.length = l)
    let traps (i : Instr) (cause sub : Nat) : Prop := k.status ≠ .failed → ∃ u tr, exec i s = .next u ∧ u.mem = s.mem ∧ gone u ∧
      (u.task a.task).raised = k.raised ++ [tr] ∧ tr.cause = cause ∧ tr.sub = sub ∧ tr.core = a.core ∧ tr.pc = a.pc ∧ tr.addr = a.va
    (∀ ev, a.performsAs ev → s.mayPerform a = true →
      (∀ pa b, a.target = .memory pa b →
        (a.kind.isLoad = true → s.lost pa a.size = false → (a.kind = .loadRow → k.captureFail (spadLines a.spad a.size) = none) →
          ∃ u, exec ev s = .next u ∧ gone u ∧ u.mem = s.mem ∧
          (a.kind ≠ .loadRow → answers u (BitVec.ofNat 64 (leNat (Memory.bytes s.mem pa a.size)))) ∧
          (a.kind = .loadRow → Memory.wf (s.core a.task (spadCore a.spad)).slice →
            Memory.bytes (u.core a.task (spadCore a.spad)).slice (spadOff a.spad) a.size = Memory.bytes s.mem pa a.size)) ∧
        (∀ f, a.kind = .loadRow → s.lost pa a.size = false → k.captureFail (spadLines a.spad a.size) = some f → traps ev 6 3) ∧
        (a.kind.isLoad = true → s.lost pa a.size = true → traps ev 0x1A 0) ∧
        (a.kind.isStore = true → ∃ u, exec ev s = .next u ∧ writes u pa a.data ∧
          ∀ t c, (s.core t c).sameRegisters (u.core t c)) ∧
        (a.kind.isAtomic = true → ∀ r ∈ atomicRows, a.kind.aop = r.1 → ∀ old : BitVec (8 * a.size),
          let new := leBytes a.size (r.2 _ old (a.v.setWidth _) (a.v2.setWidth _)).toNat
          let done : Prop := ∃ u, exec ev s = .next u ∧ writes u pa new ∧ answers u (old.setWidth 64)
          (∀ w g, a.old = some (w, g) → w = old.setWidth 64 → a.size ≤ 8 → done) ∧
          (a.old = none → s.lost pa a.size = true → traps ev 0x1A 0) ∧
          (a.old = none → s.lost pa a.size = false → leNat (Memory.bytes s.mem pa a.size) = old.toNat →
            (2 ≤ a.scope → done) ∧
            (a.scope < 2 → done ∨ ∃ u n, exec ev s = .next u ∧ u.mem = s.mem ∧
              u.acc id = some { a with old := some (old.setWidth 64, s.gcyc + n) }))) ∧
        (a.kind.isBarrier = true → s.lost pa a.size = false → ∀ gen target count,
          leNat (Memory.bytes s.mem pa a.size) = gen * 2 ^ 48 + target * 2 ^ 32 + count → gen < 2 ^ 16 → target < 2 ^ 16 → count < 2 ^ 32 →
          let held := get s.info.barScope 0 pa
          let word (g t c : Nat) : List Byte := leBytes 8 (g * 2 ^ 48 + t * 2 ^ 32 + c)
          let done (l : List Byte) (v : Nat) : Prop :=
            ∃ u, exec ev s = .next u ∧ writes u pa l ∧ answers u (BitVec.ofNat 64 v) ∧
              get u.info.barScope 0 pa = if a.kind = .barinit then a.scope else held
          (a.kind = .barriv → a.scope ≠ held ∨ target = 0 → traps ev 0x12 4) ∧
          (a.kind = .barriv → a.scope = held → target ≠ 0 → a.size = 8 →
            ((count + 1) % 2 ^ 32 = target → done (word ((gen + 1) % 2 ^ 16) target 0) gen) ∧
            ((count + 1) % 2 ^ 32 ≠ target → done (word gen target ((count + 1) % 2 ^ 32)) gen)) ∧
          (a.kind = .barwait → a.scope ≠ held ∨ target = 0 → traps ev 0x12 4) ∧
          (a.kind = .barwait → a.scope = held → target ≠ 0 → ∃ u, exec ev s = .next u ∧ u.mem = s.mem ∧ gone u ∧
            answers u (BitVec.ofNat 64 (if gen = a.v.toNat % 2 ^ 16 then gen else gen + 2 ^ 16))) ∧
          (a.kind = .barinit → a.v.toNat % 2 ^ 16 = 0 ∨ count ≠ 0 → traps ev 0x12 4) ∧
          (a.kind = .barinit → a.v.toNat % 2 ^ 16 ≠ 0 → count = 0 → a.size = 8 → done (word gen (a.v.toNat % 2 ^ 16) 0) gen))) ∧
      (∀ c o, a.target = .slice c o → c < 512 → o < 2 ^ 22 → (∀ l ∈ spadLines o a.size, (s.core a.task c).sramFail 3 l = none) →
        let m := (s.core a.task c).slice
        (a.kind = .load ∨ a.kind = .acquire → ∃ u, exec ev s = .next u ∧ gone u ∧ u.mem = s.mem ∧
          (u.core a.task c).slice = m ∧ answers u (BitVec.ofNat 64 (leNat (Memory.bytes m o a.size)))) ∧
        (∀ f, a.kind.isStore = true → k.captureFail (spadLines (c * 2 ^ 22 + o) a.size) = some f → traps ev 6 3) ∧
        (a.kind.isStore = true → k.captureFail (spadLines (c * 2 ^ 22 + o) a.size) = none →
          ∃ u, exec ev s = .next u ∧ gone u ∧ u.mem = s.mem ∧
          (Memory.wf m → ∀ b, Memory.byte (u.core a.task c).slice b =
            if o ≤ b ∧ b < o + a.data.length then a.data.getD (b - o) 0 else Memory.byte m b))) ∧
      (∀ chip addr p, a.target = .peer chip addr → a.kind.isFence = false → s.portFor a chip addr = some p →
        ∃ u again, exec ev s = .next u ∧ u.mem = s.mem ∧ u.tasks = s.tasks ∧
          u.acc id = some { a with remote := some p, retried := a.retried || again } ∧
          (u.port p).requests.map (·.access) = (s.port p).requests.map (·.access) ++ [id])) ∧
    (∀ kind, kind = .fencec ∨ kind = .scfence → a.kind = kind → s.fenceDone a = true →
      let i : Instr := if kind = .fencec then .fencecComplete id else .scfenceComplete id
      let owed := if kind = .fencec ∨ a.scope = 3 then k.nackBefore a.core id else none
      (owed = none → ∃ u, exec i s = .next u ∧ u.mem = s.mem ∧ gone u ∧ (u.task a.task).raised = k.raised ∧ answers u 0) ∧
      ∀ r, owed = some r → traps i (if r = 1 then 0x19 else 0x16) 0) ∧
    (a.target = .untranslated → a.kind.isFence = false → s.walking a = true → inWindow a.va = false →
      let faults (cause level : Nat) (e : Word) : Prop := k.status ≠ .failed → (cause = 0x15 → k.status ≠ .service) →
        ∃ u tr, exec (.translationWalk id) s = .next u ∧
        u.mem = s.mem ∧ (u.task a.task).raised = k.raised ++ [tr] ∧ tr.cause = cause ∧ tr.sub = 0 ∧ tr.core = a.core ∧ tr.pc = a.pc ∧
        tr.addr = a.va ∧ tr.d7 = BitVec.ofNat 64 level ∧ tr.d8 = e ∧ u.acc id = some { a with walkAt := s.gcyc + 1 }
      (∀ level e, s.walk k.ctx a.va = .page level e → faults 0x15 level e) ∧
      (∀ level e, s.walk k.ctx a.va = .entry level e → faults 0x17 level e) ∧
      ∀ pa leaf size target, s.walk k.ctx a.va = .ok pa leaf size →
        s.placeOf a leaf (log2 size) (levelOf (2 ^ log2 size)) = .ok target →
        ∃ u, exec (.translationWalk id) s = .next u ∧ u.mem = s.mem ∧ u.tasks = s.tasks ∧ u.acc id = some { a with target := target } ∧
          (⟨k.ctx, a.va / size, log2 size, leaf⟩ : TlbEntry) ∈ get u.tlbCore [] a.pcore ∧
          (⟨k.ctx, a.va / size, log2 size, leaf⟩ : TlbEntry) ∈ get u.tlbQuire [] (a.pcore / 8))

/-! ### Events of main memory and its tiers -/

/-- 10 R203, R205 to R209: a window that breaks a rule of the table is the timing fault 0x6; any other opens its rows, reserves its
bank and brings its data commands; a refresh window and an inserted refresh take the oldest row group of each bank; the
doubled-refresh range puts a task into guarded mode; a long stall precharges; a scrub moves a row's score; the eviction engine takes
its victim, and a page that has moved is mapped where it is.  How long an inserted refresh stalls beyond tRFCpb, the frame a page
moves to and how long it moves are left open (log 2), as is the order of the checks (log 33).  That a DRAM of the capacity tier is a
controller group, and that only the tasks that own a channel of it when it warms are guarded, are the model's choices (log 129).
Completes: timelineFill,
timelineStream, timelineRefpb, timelineRefab, forcedRefresh, guardedRefresh, guardedModeEntry, longStallPrecharge, patrolScrub,
tierEviction, pageMoveComplete, allocationHintChange. -/
def Obligations.MemoryIsKept : Prop :=
  ∀ (s : State),
    (∀ (t ch rel : Nat) (w : Window) (r : TimelineRun), (s.task t).timeline ch = some (rel, r) →
      find? (s.task t).timelines rel = some r →
      let k := s.task t
      let d := k.dc
      let j := jedec ch
      let line (x : Nat) : Prop := w.cmd = 1 ∧ x = d + j.rcd ∨ w.cmd = 2 ∧ ∃ i < w.lines, x = d + j.rcd + i * j.bl
      let bank (b : Nat) : Prop := if w.cmd = 4 then b < 16 else b = w.bank
      let broken : Prop :=
        (w.cmd = 1 ∨ w.cmd = 2) ∧
          ((∃ p, find? r.pre w.bank = some p ∧ p ≤ d ∧ d < p + j.rp) ∨ (∃ p, find? r.act w.bank = some p ∧ d < p + j.rc) ∨
            ∃ e ∈ r.act, e.1 ≠ w.bank ∧ d < e.2 + j.rrd) ∨
        (∃ x, line x ∧ ∃ y ∈ r.lines, x < y + j.bl ∧ y < x + j.bl) ∨
        (∃ b, bank b ∧ (d < get r.refUntil 0 b ∨ d < get r.busyUntil 0 b)) ∨ d < r.refAll
      let pre := if w.cmd = 2 then max (d + j.ras) (d + j.rcd + w.lines * j.bl + 12) else d + j.ras
      let reserves (u : State) (busy : Nat) : Prop :=
        u.mem = s.mem ∧ (∀ i, i ≠ t → u.task i = s.task i) ∧ (u.task t).raised = k.raised ∧
        let q := get (u.task t).timelines TimelineRun.start rel
        (∀ b, bank b → get q.busyUntil 0 b = max busy (get r.busyUntil 0 b)) ∧ (∀ x, line x → (∃ row, ⟨x, w, d, row⟩ ∈ q.moves) ∧ x ∈ q.lines) ∧
        (w.cmd = 1 ∨ w.cmd = 2 → find? q.act w.bank = some d ∧ find? q.pre w.bank = some pre)
      let oldest (b g : Nat) : Prop := ∀ h < s.groups ch, s.stampOf r b g ≤ s.stampOf r b h
      (broken → ∀ i, i = .timelineFill t ch w ∨ i = .timelineStream t ch w ∨ i = .timelineRefpb t ch w ∨ i = .timelineRefab t ch w →
        ∃ u tr, exec i s = .next u ∧ s.raisesOne u t tr ∧ tr.cause = 5 ∧ tr.sub = 6 ∧ tr.engine = 7) ∧
      (¬broken →
        (∀ i busy, w.cmd = 1 ∧ i = .timelineFill t ch w ∧ busy = d + j.rc ∨ w.cmd = 2 ∧ i = .timelineStream t ch w ∧ busy = pre + j.rp →
          ∃ u g, exec i s = .next u ∧ reserves u busy ∧
            u.dram = { s.dram with stamps := put s.dram.stamps (stampKey ch w.bank g) (s.gcyc / 2400) }) ∧
        (w.cmd = 3 → ∃ u g, exec (.timelineRefpb t ch w) s = .next u ∧ reserves u (d + j.rfcPb) ∧ oldest w.bank g ∧
          get u.dram.stamps 0 (stampKey ch w.bank g) = s.gcyc / 2400) ∧
        (w.cmd = 4 → s.groups ch ≤ 2 ^ 20 → ∃ u, exec (.timelineRefab t ch w) s = .next u ∧ reserves u (d + j.rfcAb) ∧
          ∀ b < 16, ∃ g, oldest b g ∧ get u.dram.stamps 0 (stampKey ch b g) = s.gcyc / 2400)) ∧
      (∀ b, let inserts (i : Instr) (code : Nat) : Prop := ∃ u n g, exec i s = .next u ∧ u.mem = s.mem ∧ oldest b g ∧
          (∀ x, x ≠ t → u.task x = s.task x) ∧ (u.task t).dc = d ∧
          (u.task t).stalls = (k.stalls.filter fun e => s.gcyc < e.2) ++ [(code, s.gcyc + j.rfcPb + n)] ∧
          get u.dram.stamps 0 (stampKey ch b g) = s.gcyc / 2400 ∧
          ∀ key, key ≠ stampKey ch b g → (∀ row, (b, row) ∈ r.rows → key ≠ stampKey ch b (row / 16)) →
            get u.dram.stamps 0 key = get s.dram.stamps 0 key
        (find? s.tasks t = some k → find? s.chanOwner ch = some t →
          let window := if s.dram.hotRange.contains (stackOf ch) then 16000 else 32000
          let age (g : Nat) : Nat := s.gcyc / 2400 - s.stampOf r b g
          let must : Prop := (∃ g < s.groups ch, window ≤ age g + 256) ∨
            8 ≤ ((List.range (s.groups ch)).filter fun g => window * 10 < age g * 10 + 624).length
          (must → inserts (.forcedRefresh ch b) 6) ∧ (¬must → exec (.forcedRefresh ch b) s = .next s)) ∧
        (r.guarded = true → r.guardGc ≤ s.gcyc → inserts (.guardedRefresh t ch b) 7))) ∧
    (∀ t, (s.task t).stallLen ≤ 2400 → exec (.longStallPrecharge t) s = .next s) ∧
    (∀ t, 2400 < (s.task t).stallLen → ∃ u, exec (.longStallPrecharge t) s = .next u ∧ s.onlyTask u t ∧
      ∀ rel x, find? (s.task t).timelines rel = some x → find? (u.task t).timelines rel = some { x with precharged := true }) ∧
    (s.alive = true →
      (∀ dram, ∃ u, exec (.guardedModeEntry dram) s = .next u ∧ u.mem = s.mem ∧ dram ∈ u.dram.hotRange ∧
        ∀ t rel x, find? (s.task t).timelines rel = some x → find? (u.task t).timelines rel = some
          (if stackOf x.phys = dram ∧ find? s.chanOwner x.phys = some t ∧ x.guarded = false then
            { x with guarded := true, guardGc := s.gcyc + 9360 } else x)) ∧
      (∀ ch bank row found, let key := rowKey ch bank row
        let was := get s.dram.scores 0 key
        let now := min 255 (match found with
          | .clean => was - 1
          | .corrected => was + 16
          | .uncorrectable => was + 64)
        let spares := get s.dram.sparesUsed 0 (16 * ch + bank)
        ∃ u, exec (.patrolScrub ch bank row found) s = .next u ∧ u.mem = s.mem ∧ u.tasks = s.tasks ∧ get u.dram.scores 0 key = now ∧
          (found = .corrected → (stackOf ch, key) ∈ u.dram.hot) ∧
          (found ≠ .clean → 128 ≤ now → (find? s.dram.copying key).isNone = true →
            (spares < 32 → (find? u.dram.copying key).isSome = true ∧ get u.dram.sparesUsed 0 (16 * ch + bank) = spares + 1) ∧
            (32 ≤ spares → ch ∈ u.dram.retireChannels)) ∧
          (now < 128 → u.dram.copying = s.dram.copying ∧ u.dram.retireChannels = s.dram.retireChannels)) ∧
      (s.belowWatermark = false → exec .tierEviction s = .next s) ∧
      (∀ a f p e, s.belowWatermark = true → s.victim = some a → (s.freeFrame false).1 = some f → s.leafAt a.ctx a.va = some (p, 3, e) →
        ∃ u n, exec .tierEviction s = .next u ∧ u.tier.moving = s.tier.moving ++ [⟨a.ctx, a.va, f, false, s.gcyc + 1 + n⟩] ∧
          a ∈ s.tier.allocs ∧ leafPinned e = false ∧ s.pinned a.ctx a.va = false ∧
          (Memory.wf s.mem → s.sameOutside u p 8 ∧ Memory.word u.mem p = withBit e 55 true) ∧
          ∀ b ∈ s.tier.allocs, b.evicted = false → s.movable b true = true → ∀ x, a.next = some x → ∃ y, b.next = some y ∧ y ≤ x) ∧
      (∀ ctx va m p e, s.tier.moving.find? (fun m => m.ctx = ctx && m.va = va) = some m → s.leafAt ctx va = some (p, 3, e) →
        let old := leafFrame e
        let inUse : Prop := ∃ a ∈ s.queue, ∃ q x, a.target = .memory q x ∧ q < old + 2 ^ 21 ∧ old < q + a.size
        (s.gcyc < m.due ∨ inUse → exec (.pageMoveComplete ctx va) s = .next s) ∧
        (m.due ≤ s.gcyc → ¬inUse → Memory.wf s.mem → m.frame % 4096 = 0 → m.frame < 2 ^ 52 → p + 8 ≤ m.frame ∨ m.frame + 2 ^ 21 ≤ p →
          (∀ x : Memory, (∀ b, b < m.frame ∨ m.frame + 2 ^ 21 ≤ b → Memory.byte x b = Memory.byte s.mem b) →
            State.leafAt { s with mem := x } ctx va = some (p, 3, e)) →
          ∃ u, exec (.pageMoveComplete ctx va) s = .next u ∧ u.tier.moving = s.tier.moving.filter (· ≠ m) ∧
            (∀ i < 2 ^ 21, Memory.byte u.mem (m.frame + i) = Memory.byte s.mem (old + i)) ∧
            (∀ b, (b < m.frame ∨ m.frame + 2 ^ 21 ≤ b) → (b < p ∨ p + 8 ≤ b) → Memory.byte u.mem b = Memory.byte s.mem b) ∧
            let now := Memory.word u.mem p
            leafFrame now = m.frame ∧ leafMigr now = false ∧ leafHome now = if m.toFast then 0 else 1)) ∧
      ∀ ctx va prio next,
        (prio ≤ 7 → exec (.allocationHintChange ctx va prio next) s = .next { s with tier := { s.tier with
          allocs := s.tier.allocs.map fun a =>
            if a.ctx = ctx ∧ a.va = va / 2 ^ 21 * 2 ^ 21 then { a with prio := prio, next := next } else a } }) ∧
        (7 < prio → exec (.allocationHintChange ctx va prio next) s = .next s.refuse))

/-! ### Events of tasks and nodes -/

/-- 03 R49, R50, R54, R57 to R61, 14 R264, 16 R284, R286, R288, R290 to R293, 17 R309, R310, R318, R321: the scheduler binds a ready
instance to its cores or binds a frozen one again; instances age; nodes of the command processor end; a domain freezes and is saved;
a task's end closes its heads, and its node completes, runs again or fails; Floor's answer or the lack of one ends fault service.
Completes: schedulerDecision, priorityAging, condNodeComplete, copyNodeComplete, preemptFreeze, preemptSave, taskEndCloses, taskEnd,
kernelNodeComplete, wheelGroupIssue, powerGateExit, faultServiceResume, serviceTimeout.  The model's choices: what the shadow result
buffer counts, and so when a freeze is declined (log 104); the pages from which the command processor may read (log 56); that a
completion clears a failure's code (log 55); and how a COND compares a 32-bit word (log 80). -/
def Obligations.TasksRunAndEnd : Prop :=
  ∀ (s : State) (t id : Nat),
    let k := s.task t
    (s.alive = true →
      (s.gcyc % 24 ≠ 0 → exec .schedulerDecision s = .next s) ∧
      (s.gcyc % 24 = 0 → s.ready = [] → exec .schedulerDecision s = .next (s.setPreempts [])) ∧
      (∀ r p, s.gcyc % 24 = 0 → s.ready = [r] → r.frozen = none → (s.readNode r.ctx r.node).map recType = some 1 →
        s.planOf r = .ok p → ∃ u, exec .schedulerDecision s = .next u ∧ u.ready = [] ∧
          let n := u.task s.nextId
          n.status = .starting ∧ n.ctx = r.ctx ∧ n.node = r.node ∧ n.quires = p.quires ∧ n.tapes = p.tapes ∧ n.channels = p.channels ∧
          n.dc = 0 ∧ s.gcyc < n.startGc ∧ n.startGc ≤ s.gcyc + launchLimit p.rangePages ∧
          (∀ q ∈ p.quires, find? u.quireOwner q = some s.nextId) ∧
          ∀ c, c < 8 * p.quires.length → (n.core c).pc = 0 ∧ (n.core c).halted = false ∧ (n.core c).reg 2 = BitVec.ofNat 64 (8 * p.quires.length) ∧
            (c ≠ 0 → (n.core c).reg 1 = BitVec.ofNat 64 c)) ∧
      (∀ r l, s.gcyc % 24 = 0 → s.ready = [r] → r.frozen = some t → s.resumePlan t = .ok l → ∃ u, exec .schedulerDecision s = .next u ∧
        u.ready = [] ∧ (u.task t).status = .resuming ∧ (u.task t).quires = l ∧ (u.task t).dc = k.dc ∧ (u.task t).prio = r.prio ∧
        u.mem = s.mem ∧
        ∀ c, (s.core t c).sameRegisters (u.core t c)) ∧
      exec .priorityAging s = .next { s with ready := s.ready.map fun r =>
        if r.agedGc + 9830400 ≤ s.gcyc then { r with agedGc := r.agedGc + 9830400, prio := min 3 (r.prio + 1) } else r } ∧
      (∀ r w, s.running.find? (·.id = id) = some r → r.due ≤ s.gcyc → s.readNode r.ctx r.node = some w →
        let v : State := { s with running := s.running.filter (·.id ≠ id) }
        (recType w = 2 ∨ recType w = 3 ∧ (nodeWord w 5).getLsbD 4 = true →
          (∀ b, s.compareWord r.ctx w = some b →
            exec (.condNodeComplete id) s =
              .next ((State.stampVirt { v with freeCount := v.freeCount + 8 } r.ctx (nodeBits w 3 0 57) 8).completeNode r.ctx r.node
                (nextOf w (if b then 0 else 1)))) ∧
          (s.compareWord r.ctx w = none → exec (.condNodeComplete id) s = .next (v.failNode r.ctx r.node 3 0x28))) ∧
        (∀ l, let n := (nodeWord w 5).toNat
          recType w = 5 → s.readVirt r.ctx (nodeBits w 3 0 57) n = some l → exec (.copyNodeComplete id) s = .next
            (((State.stampVirt { v with freeCount := v.freeCount + n } r.ctx (nodeBits w 3 0 57) n).writeVirt r.ctx
              (nodeBits w 4 0 57) l).completeNode r.ctx r.node
              (nextOf w 0 ++ nextOf w 1)))) ∧
      (k.closed = true → (∀ a ∈ s.queue, a.task ≠ t) → (∀ a ∈ s.recordWrites, a.task ≠ t) →
        (k.status = .ended → k.nacked = [] → (∀ p ∈ k.posts, p.now = true → p.applied = true) →
          ∃ u, exec (.kernelNodeComplete t) s = .next u ∧ find? u.tasks t = none ∧ (∀ q, find? u.quireOwner q ≠ some t) ∧
            (get u.ctxs Context.start k.ctx).steps = (get s.ctxs Context.start k.ctx).steps + 1 ∧
            (get u.ctxs Context.start k.ctx).digest = (get s.ctxs Context.start k.ctx).digest + k.digest) ∧
        (∀ f w, k.status = .failed → k.failure = some f → s.readNode k.ctx k.node = some w →
          ∃ u, exec (.kernelNodeComplete t) s = .next u ∧ find? u.tasks t = none ∧ (∀ q, find? u.quireOwner q ≠ some t) ∧
            (recRepl w = true → f.cause ∈ [0x08, 0x14, 0x1A, 0x1B] → k.attempt < 2 →
              u.ready = s.ready ++ [⟨k.ctx, k.node, recQueue w, k.prio, k.readyGc, s.gcyc, k.attempt + 1, none⟩]) ∧
            (¬(recRepl w = true ∧ f.cause ∈ [0x08, 0x14, 0x1A, 0x1B] ∧ k.attempt < 2) →
              (get u.ctxs Context.start k.ctx).steps = (get s.ctxs Context.start k.ctx).steps + 1))) ∧
      ∀ v, k.service = some v →
        (∀ tr rest resume, v.traps = tr :: rest →
          (v.kind = .brk ∨ v.kind = .pageFault) ∧ resume = false ∨ v.kind = .copyError ∧ s.stillFails t = true →
          ∃ u, exec (.faultServiceResume t resume) s = .next u ∧ (u.task t).status = .failed ∧
            (u.task t).failure = some tr ∧ (u.task t).owed = [] ∧ (u.task t).service = none) ∧
        (v.kind = .brk ∨ v.kind = .pageFault → ∃ u, exec (.faultServiceResume t true) s = .next u ∧
          u.task t = { k with
            status := if v.draining then .frozen else .running, service := none, loadMarks := (u.task t).loadMarks } ∧
          ∀ j, j ≠ t → s.sameTask u j) ∧
        (∀ resume, v.kind = .copyError → s.stillFails t = false → ∃ u n, exec (.faultServiceResume t resume) s = .next u ∧
          u.mem = s.mem ∧ u.task t = { k with service := some { v with kind := .replay (s.gcyc + 1 + n) } })) ∧
    (∀ v tr rest, k.service = some v → v.traps = tr :: rest → (∀ due, v.kind ≠ .replay due) → v.deadline ≤ s.gcyc →
      ∃ u, exec (.serviceTimeout t) s = .next u ∧ (u.task t).status = .failed ∧ (u.task t).failure = some tr ∧ (u.task t).owed = []) ∧
    (s.freezes t = true →
      let v := (State.recordCause { s with freeCount := s.freeCount + 1 } t 0x0A).drain t
      ((∃ c ∈ (v.task t).cores, shadowLimit < v.owedBytes t c.1) →
        exec (.preemptFreeze t) s = .next (v.setTask t fun k => { k with freezeDc := k.dc + 1 })) ∧
      ((∀ c ∈ (v.task t).cores, v.owedBytes t c.1 ≤ shadowLimit) → ∃ u, exec (.preemptFreeze t) s = .next u ∧ u.mem = v.mem ∧
        (u.task t).status = .frozen ∧ s.gcyc < (u.task t).saveGc ∧ (u.task t).dc = k.dc ∧ (u.task t).owed = (v.task t).owed ∧
        (u.task t).cores = (v.task t).cores ∧ u.agenda = (v.suspendEvents t).map .auto ++ v.agenda ∧
        ∀ c, (s.core t c).sameRegisters (u.core t c))) ∧
    (let v := s.drain t
     k.status = .frozen → k.saveGc ≤ s.gcyc → k.raised = [] → (v.task t).suspends = false → (∀ a ∈ s.queue, a.task ≠ t) →
      ∃ u, exec (.preemptSave t) s = .next u ∧ u.mem = v.mem ∧ (u.task t).status = .saved ∧ (u.task t).preempt = false ∧
        (u.task t).cores = (v.task t).cores ∧ (u.task t).owed = (v.task t).owed ∧ (∀ q, find? u.quireOwner q ≠ some t) ∧
        (∀ c, find? u.chanOwner c ≠ some t) ∧ u.ready = s.ready ++
          [⟨k.ctx, k.node, ((v.readWord k.ctx k.node).map fun w => bits w 6 4).getD 0, k.prio, k.readyGc, s.gcyc, k.attempt, some t⟩]) ∧
    ((∀ c ∈ k.cores, c.2.halted = true) → ∃ u, exec (.taskEndCloses t) s = .next u ∧ u.mem = s.mem ∧ (∀ j, j ≠ t → u.task j = s.task j) ∧
      ∀ c q h hd, (c, q) ∈ k.cores → (h, hd) ∈ q.h → hd.status = .opened → (u.core t c).head h = Head.start ∧
        ∃ o ∈ (u.task t).owed, o.core = c ∧ o.dc = k.dc + 320 ∧ o.eff = .table h hd.handle hd.oid
          (if hd.mode = .read then .closeRead else .closeWrite hd.mode false hd.pos) 0 s.gcyc true) ∧
    (k.status = .failed → k.closed = false → ∃ u, exec (.taskEnd t) s = .next u ∧ (u.task t).closed = true ∧
      (u.task t).status = .failed ∧ ∀ c n, (u.core t c).head n = Head.start) ∧
    (s.taskDone t = true → exec (.taskEnd t) s = .next (s.setTask t fun k => { k with status := .ended, closed := true })) ∧
    (∃ u, exec (.wheelGroupIssue t) s = .next u ∧ s.onlyTask u t ∧ (∀ c, (s.core t c).sameRegisters (u.core t c)) ∧
      ∀ c b, s.issuing t = [(c, some b)] → Bundle.isWheel b = true → u.core t c = (s.core t c).record 9 (s.core t c).pc) ∧
    (∀ g, k.gated = some g → g ≤ s.gcyc → exec (.powerGateExit t) s = .next (s.setTask t fun k => { k with gated := none }))

/-! ### Events of firmware -/

/-- 02 R33, R37, R40, 08 R151, 15 R270, R276, 16 R302, 17 R311, R318, R322, R325, 24 R350 to R353: the boot sequence ends booted,
halted or failed; images are taken or refused; the mailbox holds 64 requests; a page is scanned, a folio loaded; translations are
dropped; the digest is reported; a fatal error stops the device, whose dump Floor exports; Floor restarts. The model's choices, which
no rule states: that a bad settings image halts boot at step 5 (log 77), that a decode table that is not accepted is refused (log 78),
that a page whose scan fails keeps W removed (log 91), the key that an image carries and its fused hash (log 132), what a reason code
says (log 133), that the reset line is no event of a step (log 121), which settings are those of a bare package (log 134). Completes: boot,
imageFetch, decodeTableReload, floorRequest, codeScan, folioLoad, tlbInvalidation, contextDigestReport, completionQueueSetup,
deviceFatal, dumpExport, floorRestart. -/
def Obligations.FirmwareActs : Prop :=
  ∀ (s : State),
    (∀ b : BootInput,
      let ok := fun kind img => if kind = 1 then s.kilnOk img = true else s.imageOk (Config.imageKey b.kiln) kind img = true
      (s.fw.boot ≠ .off → exec (.boot b) s = .next s) ∧
      (s.fw.boot = .off →
        let halts (n : Nat) (why : HaltReason) : Prop :=
          ∃ u, exec (.boot b) s = .next u ∧ u.fw.boot = .halted n why ∧ u.mem = s.mem ∧ u.ports = s.ports
        (b.fittedGiB < 64 → halts 3 .tooSmall) ∧
        (64 ≤ b.fittedGiB → ¬ok 1 b.kiln → halts 4 .kilnImage) ∧
        (64 ≤ b.fittedGiB → ok 1 b.kiln → ¬ok 4 b.settings → halts 5 .settingsImage) ∧
        (64 ≤ b.fittedGiB → ok 1 b.kiln → ok 4 b.settings → ¬ok 2 b.decodeTable → halts 5 .decodeTableImage) ∧
        (64 ≤ b.fittedGiB → ok 1 b.kiln → ok 4 b.settings → ok 2 b.decodeTable → ¬ok 3 b.floor → halts 6 .floorImage) ∧
        (64 ≤ b.fittedGiB → ok 1 b.kiln → ok 4 b.settings → ok 2 b.decodeTable → ok 3 b.floor →
          ∃ u, exec (.boot b) s = .next u ∧ (b.diesAgree = false → u.fw.boot = .failed .gcyc) ∧
            (b.diesAgree = true → u.fw.boot = .booted ∧ u.gcyc = 0 ∧ u.mem = s.mem ∧ u.fw.fittedGiB = b.fittedGiB ∧
              u.fw.hostReport = some (b.fittedGiB * 2 ^ 30, u.subChannel) ∧
              u.fw.kilnVersion = imgVersion b.kiln ∧ u.fw.settingsVersion = imgVersion b.settings ∧
              u.fw.decodeVersion = imgVersion b.decodeTable ∧ u.fw.floorVersion = imgVersion b.floor ∧
              u.fw.rootKey = Config.imageKey b.kiln ∧
              u.power.limit = (if Config.settingsPackage b.settings then 1450 else 1600) ∧
              (∀ c ∈ b.badCores, c < 512 → c ∈ u.fw.retired) ∧
              ∀ n < 12, (u.port n).up = !b.badPorts.contains n)))) ∧
    (∀ c, ∃ u, exec (.deviceFatal c) s = .next u ∧ u.tasks = s.tasks ∧ u.queue = s.queue ∧
      ((∀ d, s.fw.boot ≠ .failed d) → u.fw.boot = .failed c ∧ u.agenda = [] ∧ u.issued = [] ∧ u.newQueue = []) ∧
      (∀ d, s.fw.boot = .failed d → u.fw.boot = .failed d ∧ u.mem = s.mem ∧ u.fw.dumpDue = none)) ∧
    (s.fw.dumpComplete = true → exec .dumpExport s = .next { s with fw := { s.fw with dumpExported := true } }) ∧
    (s.resetDevice.fw.boot = .off ∧ ∀ c, s.fw.boot = .failed c → s.fw.dumpExported = false → ∀ a, s.dumpBase ≤ a →
      a < s.dumpBase + 2 ^ 32 → Memory.byte s.resetDevice.mem a = Memory.byte s.mem a) ∧
    (s.alive = true →
      let refused : Out := .next s.refuse
      (s.refuse.fw.refused = s.fw.refused + 1 ∧ s.refuse.mem = s.mem ∧ s.refuse.tasks = s.tasks) ∧
      (∃ u, exec .floorRestart s = .next u ∧ u.fw.mailbox = [] ∧ u.fw.floorRestarts = s.fw.floorRestarts + 1 ∧
        (∀ t v tr rest, (s.task t).service = some v → (∀ due, v.kind ≠ .replay due) → v.traps = tr :: rest →
          (u.task t).status = .failed) ∧
        ((∀ e ∈ s.tasks, e.2.service = none) → u.tasks = s.tasks)) ∧
      (∀ kind img, let takes : Prop := 1 ≤ kind.toNat ∧ kind.toNat ≤ 4 ∧ s.accepts kind.toNat img = true ∧ (kind = 2 → s.quireOwner = [])
        (takes →
          ∃ u, exec (.imageFetch kind img) s = .next u ∧ u.mem = s.mem ∧ u.tasks = s.tasks ∧ u.fw.refused = s.fw.refused ∧
            ([u.fw.kilnVersion, u.fw.decodeVersion, u.fw.floorVersion, u.fw.settingsVersion] =
              [s.fw.kilnVersion, s.fw.decodeVersion, s.fw.floorVersion, s.fw.settingsVersion].set (kind.toNat - 1) (imgVersion img))) ∧
        (¬takes → exec (.imageFetch kind img) s = refused)) ∧
      (∀ die img, (s.dieLive die = true ∨ s.accepts 2 img = false → exec (.decodeTableReload die img) s = refused) ∧
        (s.dieLive die = false → s.accepts 2 img = true →
          exec (.decodeTableReload die img) s = .next { s with fw := { s.fw with decodeVersion := imgVersion img } })) ∧
      (∀ r, floorsOwn r = false → (s.fw.mailbox.length < 64 →
          exec (.floorRequest (some r)) s = .next { s with fw := { s.fw with mailbox := s.fw.mailbox ++ [r] } }) ∧
        (64 ≤ s.fw.mailbox.length → exec (.floorRequest (some r)) s = .next s)) ∧
      (∀ r rest, s.fw.mailbox = r :: rest →
        exec (.floorRequest none) s = .next (State.applyRequest { s with fw := { s.fw with mailbox := rest } } r)) ∧
      (∀ w, exec (.floorRequest (some (.powerCap w))) s =
        if w ≤ s.power.limit then .next { s with power := { s.power with cap := w } } else refused) ∧
      (∀ ctx i cap fmt tier base mirror mash, exec (.floorRequest (some (.createTape ctx i cap fmt tier base mirror mash))) s =
        if 65536 ≤ i ∨ (s.tape ctx i).valid = true ∨ 10 < fmt ∨
          s.reserved ctx ((cap * elemBits fmt + 7) / 8) tier base mirror = false then refused
        else .next (s.setTape ctx i ⟨0, BitVec.ofNat 40 cap, BitVec.ofNat 4 fmt, 0, true, tier, mirror.isSome, false, BitVec.ofNat 57 base,
          BitVec.ofNat 57 (mirror.getD 0), BitVec.ofNat 8 (mash.getD 0), mash.isSome, 0, false, 0, 0, false⟩)) ∧
      (∀ fn, exec (.floorRequest (some (.reportDropped fn))) s = .next (s.setFn fn fun h => { h with reported := h.dropped })) ∧
      (∀ ctx fn root area rest, ctx < 64 → fn < 9 → s.fw.mailbox = .bindContext ctx fn root area :: rest →
        ∃ u, exec (.floorRequest none) s = .next u ∧ u.fw.mailbox = rest ∧
        (u.fn fn).ctx = some ctx ∧ (get u.ctxs Context.start ctx).root = root ∧ (get u.ctxs Context.start ctx).faultArea = area ∧
        u.mem = s.mem) ∧
      (∀ ctx va, let v := s.writeProtect ctx va
        (v.writesPending ctx va = true → ∃ u, exec (.codeScan ctx va) s = .next u ∧ u.mem = v.mem ∧ u.fw = v.fw ∧
          (s.gcyc + 1, .codeScan ctx va) ∈ u.env) ∧
        (v.writesPending ctx va = false →
          (v.scanFor ctx va ≠ [] ∨ v.canExecute ctx va = false →
            ∃ u, exec (.codeScan ctx va) s = .next u ∧ u.mem = v.mem ∧ u.fw = { v.fw with scanReport := (v.scanFor ctx va).take 16 }) ∧
          (v.scanFor ctx va = [] → v.canExecute ctx va = true →
            let x := v.stampPages ctx [va]
            exec (.codeScan ctx va) s = .next (State.makeExecutable { x with fw := { x.fw with scanReport := [] } } ctx va)))) ∧
      (∀ f code, s.declCode f = some code →
        exec (.folioLoad f) s = .next { s with fw := { s.fw with loadCode := some code, scanReport := [] } }) ∧
      (∀ f, let v := (s.folioPages f).foldl (fun (x : State) va => x.writeProtect f.ctx va) s
        s.declCode f = none → (∀ va ∈ s.folioPages f, v.writesPending f.ctx va = false) →
        (∀ code, v.folioCode f = some code → ∃ u, exec (.folioLoad f) s = .next u ∧ u.fw.loadCode = some code ∧ u.folios = v.folios ∧
          u.mem = v.mem) ∧
        (v.folioCode f = none → ∃ u, exec (.folioLoad f) s = .next u ∧ u.fw.loadCode = none ∧ ∃ x, find? u.folios f.id = some x ∧
          x.img = f ∧ x.cmpat = compatWord f)) ∧
      (∀ ctx va len, let pinned : Prop := ∃ p ∈ s.pins, p.ctx = ctx ∧ rangesMeet p.va p.size va len = true ∧ s.heldPin p = true
        (pinned → exec (.tlbInvalidation ctx va len) s = refused) ∧
        (¬pinned → ∃ u waits, exec (.tlbInvalidation ctx va len) s = .next u ∧ u.mem = s.mem ∧ u.tasks = s.tasks ∧ u.queue = s.queue ∧
          u.invals = s.invals ++ [⟨ctx, va, len, waits, none⟩] ∧
          ∀ n, get u.tlbCore [] n = (get s.tlbCore [] n).filter (fun e => !s.drops ctx va len e) ∧
            get u.tlbQuire [] n = (get s.tlbQuire [] n).filter (fun e => !s.drops ctx va len e))) ∧
      (∀ ctx, let c := get s.ctxs Context.start ctx
        exec (.contextDigestReport ctx) s = .next { s with ctxs := put s.ctxs ctx { c with reported := c.digest, digest := 0 } }) ∧
      (∀ ctx base size, (base % 4096 = 0 ∧ ringSize size = true → ∃ u, exec (.completionQueueSetup ctx base size) s = .next u ∧
          (get u.ctxs Context.start ctx).cq = some ⟨base, size, 0, 0, [], false⟩ ∧
          (u.fn (get s.ctxs Context.start ctx).fn).cqhead = 0 ∧ u.mem = s.mem) ∧
        (¬(base % 4096 = 0 ∧ ringSize size = true) → exec (.completionQueueSetup ctx base size) s = refused)))

/-! ### Events of the host -/

/-- 16 R301, R302, 23 R338 to R340: a doorbell hands over the ring's entries up to the tail; CQHEAD frees entries and what is held
posts; a BAR0 register keeps what is written, and one masks MSI-X vectors; BAR2 reaches, within its window, the pages that the host may,
and any other byte is dropped or reads as ones. The model's choices, which no rule states: that the ring's base is a virtual address of
the context (log 79), and which register masks the vectors (log 135). Completes: doorbellWrite, cqheadWrite, registerWrite,
hostBar2Write, hostBar2Read. -/
def Obligations.TheHostReachesTheDevice : Prop :=
  ∀ (s : State) (fn : Nat), s.alive = true →
    let h := s.fn fn
    (∀ tail, h.ctx = none → exec (.doorbellWrite fn tail) s = .next (s.setFn fn fun h => { h with tail := tail })) ∧
    (∀ tail ctx, h.ctx = some ctx → 0 < h.ringSize → h.ringSize ≤ 65536 → ∃ u, exec (.doorbellWrite fn tail) s = .next u ∧
      (u.fn fn).tail = tail ∧ (u.fn fn).consumed.toNat % h.ringSize = tail.toNat % h.ringSize ∧ (∀ t, s.sameTask u t) ∧
      ∀ l w, 1 < h.ringSize → h.consumed.toNat < h.ringSize → tail.toNat = (h.consumed.toNat + 1) % h.ringSize →
        s.readVirt ctx (h.ringBase + 64 * h.consumed.toNat) 64 = some l → leNat (l.take 8) = 1 →
        s.becomesReady ctx (leNat ((l.drop 8).take 8)) w →
        u.ready = s.ready ++ [s.readyAt ctx (leNat ((l.drop 8).take 8)) w (recPrio w)]) ∧
    (∀ head ctx q, h.ctx = some ctx → (get s.ctxs Context.start ctx).cq = some q → (get s.ctxs Context.start ctx).fn = fn →
      ∃ u, exec (.cqheadWrite fn head) s = .next u ∧ (u.fn fn).cqhead = head ∧ u.mem = s.mem ∧ u.tasks = s.tasks ∧
      let consumed := min q.producer (q.consumed + (head.toNat + q.size - q.consumed % q.size) % q.size)
      (q.held = [] → (get u.ctxs Context.start ctx).cq = some { q with consumed := consumed }) ∧
      ∀ e, q.held = [e] → q.producer < consumed + q.size →
        (get u.ctxs Context.start ctx).cq = some { q with consumed := consumed, held := [], producer := q.producer + 1, ovf := false }) ∧
    (∀ off val, off < 65536 → off / 8 * 8 ≠ 0x1000 → off / 8 * 8 ≠ 0x1008 →
      exec (.registerWrite fn off val) s = .next (s.setFn fn fun h =>
        { h with regs := put h.regs off val, masked := if off = Config.vectorMaskAt then val.setWidth 4 else h.masked })) ∧
    (∀ va data, bar2Size fn < va + data.length → exec (.hostBar2Write fn va data) s = .next s) ∧
    (∀ va data, va + data.length ≤ bar2Size fn → h.ctx = none →
      exec (.hostBar2Write fn va data) s = .next (s.setFn fn fun h => { h with dropped := h.dropped + 1 })) ∧
    (∀ ctx va data, va + data.length ≤ bar2Size fn → h.ctx = some ctx → ∃ u, exec (.hostBar2Write fn va data) s = .next u ∧
      ((∀ i < data.length, s.hostBarred ctx (va + i) true = true) → u.mem = s.mem ∧
        (data ≠ [] → (u.fn fn).dropped = h.dropped + 1)) ∧
      ∀ p, (∀ i < data.length, s.hostBarred ctx (va + i) true = false) → s.mapsTo ctx va data.length p → Memory.wf s.mem →
        s.sameOutside u p data.length ∧ Memory.bytes u.mem p data.length = data ∧ u.fns = s.fns) ∧
    (∀ ctx va len l, va + len ≤ bar2Size fn → h.ctx = some ctx → (∀ i < len, s.hostBarred ctx (va + i) false = false) →
      s.readVirt ctx va len = some l → exec (.hostBar2Read fn va len) s = .next ((s.stampVirt ctx va len).setFn fn fun h =>
        { h with reply := l, unsupported := false })) ∧
    (∀ va len, h.ctx = none ∨ bar2Size fn < va + len ∨ (∃ ctx, h.ctx = some ctx ∧ ∃ i < len, s.hostBarred ctx (va + i) false = true) →
      exec (.hostBar2Read fn va len) s = .next (s.setFn fn fun h => { h with reply := List.replicate len 0xFF, unsupported := true }))

/-! ### Events of peer links -/

/-- 23 R341 to R345: a flit is taken in order, kept for its message, or left to come again; a peer's read, write, atomic or barrier
operation under a grant is done at the local frame and answered, and any other is refused with reason 1 or 2; a grant is entered.
What an atomic or barrier operation asks of its page's attributes is read by inference (log 37); the CRC's bit order is presumed
(log 30). The model's choices, which no rule states: that answers are sent uncoded always (log 31), that a barrier operation which
misuses its word is refused with reason 2 (log 106), that the place of a flit whose CRC fails is taken from its SEQ (log 141), and what
becomes of a message that has begun on another port (log 86: the clauses on data flits are for a channel that waits for none).
Completes: flitReceive, readRequest, writeRequest, atomicRequest, grant. -/
def Obligations.PeersAreServed : Prop :=
  ∀ (s : State) (port chan : Nat) (m : Message), s.alive = true →
    let p := s.port port
    let n := 2 ^ m.size
    let serving (len : Nat) (e : Nat × Grant) : Bool :=
      (decide (e.2.state = .granted) || decide (e.2.state = .recalling) && decide (s.gcyc ≤ e.2.recallGc)) &&
        (decide (e.2.chip = p.chip) && (decide (e.2.first * 4096 ≤ m.addr) && decide (m.addr + len ≤ (e.2.first + e.2.count) * 4096)))
    let marked (pa len kind : Nat) : Prop := ∃ f ∈ s.fw.attrFrames, f.2.2 ≤ kind ∧ f.1 < pa + len ∧ pa < f.1 + f.2.1
    let sends (op : Nat) (data : List Byte) : Port := p.sendBytes chan
      (messageBytes { m with op := op, aop := 0, coded := false, fp32 := false, length := data.length, data := data })
    let nacks (i : Instr) (reason : Nat) : Prop := ∃ u, exec i s = .next u ∧ u.mem = s.mem ∧ u.tasks = s.tasks ∧
      u.port port = p.sendFlit 0 5 (leBytes 4 (m.tag + chan * 2 ^ 16 + reason * 2 ^ 20))
    let writes (i : Instr) (pa : Nat) (l data : List Byte) (op : Nat) : Prop := ∃ u, exec i s = .next u ∧ s.sameOutside u pa l.length ∧
      Memory.bytes u.mem pa l.length = l ∧ u.port port = sends op data
    (s.grants.find? (serving m.length) = none → nacks (.readRequest port chan m) 1) ∧
    (s.grants.find? (serving m.data.length) = none → nacks (.writeRequest port chan m) 1) ∧
    (s.grants.find? (serving n) = none → nacks (.atomicRequest port chan m) 1) ∧
    (∀ k g, s.grants.find? (serving m.length) = some (k, g) →
      (g.r = false → nacks (.readRequest port chan m) 2) ∧
      (g.r = true → exec (.readRequest port chan m) s =
        .next ((s.activate (spadLines (g.pa + (m.addr - g.first * 4096)) m.length)).setPort port fun _ =>
          sends 4 (Memory.bytes s.mem (g.pa + (m.addr - g.first * 4096)) m.length)))) ∧
    (∀ k g, s.grants.find? (serving m.data.length) = some (k, g) →
      let pa := g.pa + (m.addr - g.first * 4096)
      (g.w = false ∨ marked pa m.data.length 2 → nacks (.writeRequest port chan m) 2) ∧
      (g.w = true → ¬marked pa m.data.length 2 → Memory.wf s.mem → writes (.writeRequest port chan m) pa m.data [] 5)) ∧
    (∀ k g, s.grants.find? (serving n) = some (k, g) →
      let pa := g.pa + (m.addr - g.first * 4096)
      let i : Instr := .atomicRequest port chan m
      (g.r = false ∨ g.w = false ∧ m.aop ≠ 9 → nacks i 2) ∧
      (g.r = true → g.w = true ∨ m.aop = 9 →
        (m.aop ≤ 7 → marked pa n 2 → nacks i 2) ∧
        (m.aop ≤ 7 → ¬marked pa n 2 → Memory.wf s.mem → ∀ r ∈ atomicRows, m.aop = r.1 → ∀ old v x : BitVec (8 * n),
          Memory.bytes s.mem pa n = leBytes n old.toNat → leNat (m.data.take n) = v.toNat → leNat ((m.data.drop n).take n) = x.toNat →
          writes i pa (leBytes n (r.2 _ old v x).toNat) (leBytes n old.toNat) 6) ∧
        (7 < m.aop → m.aop ≤ 10 → m.size = 3 → marked pa 8 0 → Memory.wf s.mem → ∀ gen target count,
          Memory.bytes s.mem pa 8 = leBytes 8 (gen * 2 ^ 48 + target * 2 ^ 32 + count) → gen < 2 ^ 16 → target < 2 ^ 16 → count < 2 ^ 32 →
          let held := get s.info.barScope 0 pa
          let v := leNat (m.data.take 8)
          let done (g t c answer : Nat) : Prop :=
            writes i pa (leBytes 8 (g * 2 ^ 48 + t * 2 ^ 32 + c)) (leBytes 8 answer) 6
          (m.aop = 10 → v % 2 ^ 16 = 0 ∨ count ≠ 0 → nacks i 2) ∧
          (m.aop = 10 → v % 2 ^ 16 ≠ 0 → count = 0 → done gen (v % 2 ^ 16) 0 gen) ∧
          (m.aop ≠ 10 → m.scope ≠ held ∨ target = 0 → nacks i 2) ∧
          (m.aop = 8 → m.scope = held → target ≠ 0 →
            if (count + 1) % 2 ^ 32 = target then done ((gen + 1) % 2 ^ 16) target 0 gen
            else done gen target ((count + 1) % 2 ^ 32) gen) ∧
          (m.aop = 9 → m.scope = held → target ≠ 0 →
            done gen target count (if gen = v % 2 ^ 16 then gen else gen + 2 ^ 16))) ∧
        (7 < m.aop → ¬(m.aop ≤ 10 ∧ marked pa 8 0 ∧ m.size = 3) → nacks i 2))) ∧
    (∀ g, exec (.grant port g) s = .next { s with imports :=
      (s.imports.filter fun i => decide ¬((s.port i.port).chip = p.chip ∧ i.num = g.num)) ++
        [⟨port, g.num, g.first, g.count, g.r, g.w, false, []⟩] }) ∧
    (∀ l, ¬(p.up = true ∧ p.retrain = none) → exec (.flitReceive port l) s = .next s) ∧
    (p.up = true → p.retrain = none →
      let again (seq : Nat) : State := s.setPort port fun p =>
        if (seq + 4096 - p.rxSeq) % 4096 < 2048 then { p with rxRetry := max p.rxRetry ((seq + 4096 - p.rxSeq) % 4096 + 1) } else p
      (∀ l, readFlit l = none → exec (.flitReceive port l) s = .next (again (leNat (l.take 2) % 4096))) ∧
      ∀ f : Flit, f.seq < 4096 → f.ack < 4096 → f.chan < 16 → f.kind < 16 → f.payload.length ≤ 240 →
        (f.seq ≠ p.rxSeq → exec (.flitReceive port f.bytes) s = .next (again f.seq)) ∧
        (f.seq = p.rxSeq → ∃ u, exec (.flitReceive port f.bytes) s = .next u ∧
          (f.kind = 0 → u.tasks = s.tasks ∧ u.mem = s.mem ∧ (u.port port).rxSeq = (f.seq + 1) % 4096 ∧
            (u.port port).rxRetry = p.rxRetry - 1 ∧
            ∀ i, p.replay.findIdx? (·.seq = f.ack) = some i →
              (u.port port).replay = (Port.drainOutbox { p with replay := p.replay.drop (i + 1), acked := f.ack }).replay) ∧
          (f.kind = 1 → find? p.carry f.chan = none → (get p.rxBuf [] f.chan ++ f.payload).length < 16 →
            u.mem = s.mem ∧ get (u.port port).rxBuf [] f.chan = get p.rxBuf [] f.chan ++ f.payload) ∧
          (∀ x : Message, f.kind = 1 → find? p.carry f.chan = none → get p.rxBuf [] f.chan = [] →
            f.payload = messageBytes x → x.coded = false → x.fp32 = false →
            x.op < 256 → x.size < 16 → x.aop < 16 → x.scope < 4 → x.tag < 2 ^ 16 → x.length < 2 ^ 24 → x.addr < 2 ^ 64 →
            (if x.op ∈ [2, 3, 4, 6] then x.data.length = x.length else x.data = []) →
            ∀ i, (x.op = 1 ∧ i = .readRequest port f.chan x) ∨ (x.op = 2 ∧ i = .writeRequest port f.chan x) ∨
                (x.op = 3 ∧ i = .atomicRequest port f.chan x) ∨ (x.op = 4 ∧ i = .readResponse port f.chan x) ∨
                (x.op = 5 ∧ i = .writeAcknowledgement port f.chan x) ∨ (x.op = 6 ∧ i = .atomicResponse port f.chan x) →
              ∃ v w, v = s.setPort port (fun _ => v.port port) ∧ (v.port port).chip = p.chip ∧ (v.port port).requests = p.requests ∧
                exec i v = .next w ∧ u.mem = w.mem ∧ u.tasks = w.tasks ∧ u.queue = w.queue ∧
                (u.port port).replay = (w.port port).replay)))

/-- 23 R342, R344, R346 to R348: an answer of a peer completes the access whose tag it carries, a refusal is the fault of a load or an
atomic at once and of a store at a later fence; a recall unmaps its range and is acknowledged, or after 100 ms the entry is quarantined;
a port loses a lane and retrains or goes down, its requests waiting at another port of the chip; a lost peer's grants are quarantined
and the accesses to it refused. Which fault a refused barrier operation raises is read from R347 (log 106); what of a port that goes
down, or of a link that is reset, is sent again, and by which port, is the model's choice (log 86). Completes: readResponse,
writeAcknowledgement, atomicResponse, nack, recall, recallAcknowledgement, recallTimeout, laneRemoval, retrainComplete, linkReset,
peerFailure. -/
def Obligations.PeersAnswerAndFail : Prop :=
  ∀ (s : State) (port : Nat), s.alive = true →
    let p := s.port port
    (∀ chan (m : Message) q r a, s.requestOf port m.tag chan = some (q, r) → s.acc r.access = some a →
      let k := s.task a.task
      let ends (i : Instr) (P : State → Prop) : Prop := ∃ u, exec i s = .next u ∧ u.mem = s.mem ∧
        u.queue = s.queue.filter (·.id ≠ a.id) ∧ (u.port q).requests = (s.port q).requests.erase r ∧ P u
      let answers (v : Word) (u : State) : Prop := (u.task a.task).raised = k.raised ∧
        (s.resultStands a.task a.core a.id a.dest → (u.core a.task a.core).reg a.dest = v)
      (a.kind.isLoad = true → a.kind ≠ .loadRow → ends (.readResponse port chan m) (answers (BitVec.ofNat 64 (leNat m.data)))) ∧
      (a.kind = .loadRow → k.status ≠ .failed → ∀ f, k.captureFail (spadLines a.spad m.data.length) = some f →
        ends (.readResponse port chan m) fun u => ∃ tr, (u.task a.task).raised = k.raised ++ [tr] ∧ tr.cause = f.cause ∧
          tr.core = a.core ∧ tr.pc = a.pc) ∧
      (a.kind = .loadRow → k.captureFail (spadLines a.spad m.data.length) = none →
        ends (.readResponse port chan m) fun u => Memory.wf (s.core a.task (spadCore a.spad)).slice →
        Memory.bytes (u.core a.task (spadCore a.spad)).slice (spadOff a.spad) m.data.length = m.data) ∧
      (a.kind.isStore = true → ends (.writeAcknowledgement port chan m) fun u => (u.task a.task).raised = k.raised ∧
        ∀ c, (s.core a.task c).sameRegisters (u.core a.task c)) ∧
      (a.kind.isLoad = false → a.kind.isStore = false →
        ends (.atomicResponse port chan m) (answers (BitVec.ofNat 64 (leNat (m.data.take 8))))) ∧
      ∀ reason,
        (a.kind.isStore = true → ends (.nack port m.tag chan reason) fun u =>
          (u.task a.task).nacked = k.nacked ++ [⟨a.core, a.id, a.pc, a.slot, a.va, reason⟩] ∧ (u.task a.task).raised = k.raised) ∧
        (a.kind.isStore = false → k.status ≠ .failed → ends (.nack port m.tag chan reason) fun u =>
          ∃ tr, (u.task a.task).raised = k.raised ++ [tr] ∧
            tr.cause = (if reason = 1 then 0x19 else 0x16) ∧ tr.core = a.core ∧
            tr.pc = a.pc ∧ tr.addr = a.va)) ∧
    (∀ chan (m : Message), s.requestOf port m.tag chan = none →
      ∀ i, i = .readResponse port chan m ∨ i = .writeAcknowledgement port chan m ∨ i = .atomicResponse port chan m ∨
        (∃ reason, i = .nack port m.tag chan reason) → exec i s = .next s) ∧
    (∀ g, (s.imports.find? (fun i => decide ((s.port i.port).chip = p.chip) && i.num = g) = none →
        exec (.recall port g) s = .next (s.setPort port fun p => p.sendFlit 0 4 (leBytes 1 g))) ∧
      ∀ i, s.imports.find? (fun i => decide ((s.port i.port).chip = p.chip) && i.num = g) = some i →
        ∃ u waits, exec (.recall port g) s = .next u ∧
        u.queue = s.queue ∧ u.imports = s.imports.map (fun j => if j = i then { j with recalled := true, maps := [] } else j) ∧
        u.invals = s.invals ++ [⟨0, 0, 0, waits, some (port, g)⟩] ∧
        (∀ n, n ∈ waits ↔ ∃ a ∈ s.queue, a.id = n ∧ ∃ addr, a.target = .peer p.chip addr ∧ i.first * 4096 ≤ addr ∧
          addr < (i.first + i.count) * 4096) ∧
        (i.maps = [] → u.mem = s.mem) ∧
        ∀ ctx va a level e, i.maps = [(ctx, va)] → s.leafAt ctx va = some (a, level, e) → leafContig e = false → Memory.wf s.mem →
          s.sameOutside u a 8 ∧ Memory.word u.mem a = withBit e 0 false) ∧
    (∀ g, let e := get s.grants Grant.start g
      exec (.recallAcknowledgement port g) s =
        (if e.state = .recalling ∧ e.chip = p.chip then .next { s with grants := erase s.grants g } else .next s) ∧
      exec (.recallTimeout g) s = (if e.state = .recalling ∧ e.recallGc + 240000000 ≤ s.gcyc then
        .next { s with grants := put s.grants g { e with state := .quarantined } } else .next s)) ∧
    (∀ lane, let lanes := p.lanes.filter (· ≠ lane)
      (p.up = false ∨ lane ∉ p.lanes → exec (.laneRemoval port lane) s = .next s) ∧
      (p.up = true → lane ∈ p.lanes → 4 ≤ lanes.length → ∃ u due, exec (.laneRemoval port lane) s = .next u ∧ u.mem = s.mem ∧
        u.tasks = s.tasks ∧ s.gcyc ≤ due ∧ due ≤ s.gcyc + 48000 ∧ u.port port = { p with lanes := lanes, retrain := some due }) ∧
      (p.up = true → lane ∈ p.lanes → lanes.length < 4 → ∃ u, exec (.laneRemoval port lane) s = .next u ∧
        (u.port port).up = false ∧ (u.port port).lanes = lanes ∧ (u.port port).requests = [] ∧
        (s.ports.Pairwise (fun a b => a.1 < b.1) →
          (∀ o q, s.ports.find? (fun e => e.1 ≠ port && decide (e.2.chip = p.chip) && e.2.up) = some (o, q) →
            (u.port o).requests = q.requests ++ p.requests ∧ u.grants = s.grants) ∧
          ((∀ e ∈ s.ports, e.1 ≠ port → e.2.chip = p.chip → e.2.up = false) → ∀ n g, find? s.grants n = some g → g.chip = p.chip →
            g.state = .granted ∨ g.state = .recalling → find? u.grants n = some { g with state := .quarantined })))) ∧
    (∀ due, p.retrain = some due →
      (s.gcyc < due → exec (.retrainComplete port) s = .next s) ∧
      (due ≤ s.gcyc → ∃ u, exec (.retrainComplete port) s = .next u ∧ u.mem = s.mem ∧ u.tasks = s.tasks ∧
        (p.replay = [] → u.port port = { p with retrain := none }) ∧
        ∀ f rest, p.replay = f :: rest → u.port port = { p with retrain := none, txTables := f.tables })) ∧
    (∃ u, exec (.linkReset port) s = .next u ∧ u.mem = s.mem ∧ u.tasks = s.tasks ∧
      (∀ g, g ∈ u.grants ↔ g ∈ s.grants ∧ ¬(g.2.chip = p.chip ∧ g.2.state = .quarantined)) ∧
      let q := u.port port
      q.chip = p.chip ∧ q.lanes = p.lanes ∧ q.up = decide (4 ≤ p.lanes.length) ∧ q.rxSeq = 0 ∧ q.requests = p.requests ∧
      (p.replay = [] → p.outbox = [] → q.txSeq = 0 ∧ q.replay = [] ∧ q.outbox = []) ∧
      ∀ c < 16, ∀ i < 15, (get q.rxTables [] c).getD i 0 = BitVec.ofNat 8 (127 - i)) ∧
    ∀ chip, ∃ u, exec (.peerFailure chip) s = .next u ∧
      (∀ n g, find? s.grants n = some g → find? u.grants n = some
        (if g.chip = chip ∧ (g.state = .granted ∨ g.state = .recalling) then { g with state := .quarantined } else g)) ∧
      (∀ n, (s.port n).chip = chip → (u.port n).requests = []) ∧
      (∀ a ∈ s.queue, (∃ addr, a.target = .peer chip addr) → u.acc a.id = none) ∧
      ∀ i ∈ s.imports, (s.port i.port).chip = chip → ({ i with recalled := true, maps := [] } : Import) ∈ u.imports

/-! ### Events of power and of the clock -/

/-- 24 R353 to R356, 17 R311: a window above a limit lowers the rate of every domain that runs, 1 ms below the limits raises it or ends
the holds, 100 ms at the deepest rate and above is reported and holds a domain of the lowest priority; the rate changes, and a hold
begins or ends, at an aligned block, and a swallowed pulse is one event of each core. The step by which a rate moves, and which of
several domains is held, are left open (log 2); the power limit itself is the model's choice. Completes: powerWindow, powerHold,
powerHoldEnd, rateChange, clockSwallow. -/
def Obligations.PowerIsKeptWithinItsLimits : Prop :=
  ∀ (s : State),
    (∀ (x : PowerSample), s.alive = true →
      let above : Prop := s.power.cap < x.watts ∨ ∃ c ∈ x.temps, 100 < c
      let under : Prop := x.watts < s.power.cap ∧ ∀ c ∈ x.temps, c < 100
      let safe : Prop := x.stageFault = false ∧ ∀ c ∈ x.temps, c ≤ 115
      let runs (k : Task) : Prop := (k.status = .running ∨ k.status = .service) ∧ k.held = false
      let deep : Prop := (∃ e ∈ s.tasks, e.2.held = true) ∨
        (∃ e ∈ s.tasks, runs e.2) ∧ ∀ e ∈ s.tasks, runs e.2 → e.2.rate = 32 ∧ e.2.nextRate = 32
      let rates (u : State) (p : Nat → Nat → Prop) : Prop := s.tasks.Pairwise (fun a b => a.1 < b.1) →
        ∀ e ∈ s.tasks, ∃ r, u.task e.1 = { e.2 with nextRate := r } ∧ (runs e.2 → p e.2.nextRate r) ∧ (¬runs e.2 → r = e.2.nextRate)
      let goes (P : State → Prop) : Prop := ∃ u, exec (.powerWindow x) s = .next u ∧ u.mem = s.mem ∧ u.fw = s.fw ∧ u.agenda = s.agenda ∧ P u
      let same (u : State) : Prop := u.power.pending = s.power.pending ∧ u.power.reports = s.power.reports
      (x.stageFault = true → ∃ u, exec (.powerWindow x) s = .next u ∧ u.fw.boot = .failed .power ∧ u.agenda = []) ∧
      (x.stageFault = false → (∃ c ∈ x.temps, 115 < c) →
        ∃ u, exec (.powerWindow x) s = .next u ∧ u.fw.boot = .failed .temperature ∧ u.agenda = []) ∧
      (safe → above → goes fun u => u.power.below = 0 ∧ rates u (fun r q => if 32 < r then 32 ≤ q ∧ q < r else q = r) ∧
        (¬deep → u.power.above = 0 ∧ same u) ∧ (deep → s.power.above + 1 ≠ 10000 → u.power.above = s.power.above + 1 ∧ same u) ∧
        (deep → s.power.above + 1 = 10000 →
          u.power.above = 0 ∧ u.power.pending = some true ∧ u.power.reports = s.power.reports + 1)) ∧
      (safe → under → goes fun u => u.power.above = 0 ∧
        (s.power.below + 1 ≠ 100 → u.power.below = s.power.below + 1 ∧ u.tasks = s.tasks ∧ same u) ∧
        (s.power.below + 1 = 100 → u.power.below = 0 ∧ u.power.reports = s.power.reports ∧
          rates u (fun r q => if r < 64 then r < q ∧ q ≤ 64 else q = r) ∧
          u.power.pending = if s.tasks.any (·.2.held) then some false else s.power.pending)) ∧
      (safe → ¬above → ¬under → exec (.powerWindow x) s = .next { s with power := { s.power with below := 0, above := 0 } })) ∧
    (s.alive = true →
      let runs (e : Nat × Task) : Prop := (e.2.status = .running ∨ e.2.status = .service) ∧ e.2.held = false
      (s.gcyc % 64 ≠ 0 ∨ (∀ e ∈ s.tasks, ¬runs e) → exec .powerHold s = .next s) ∧
      (s.gcyc % 64 = 0 → (∃ e ∈ s.tasks, runs e) → ∃ u, ∃ e ∈ s.tasks, exec .powerHold s = .next u ∧ runs e ∧
        (∀ o ∈ s.tasks, runs o → e.2.prio ≤ o.2.prio) ∧ u = { s with tasks := u.tasks, freeCount := s.freeCount + 1 } ∧
        u.task e.1 = { s.task e.1 with held := true } ∧ ∀ j, j ≠ e.1 → u.task j = s.task j)) ∧
    ∀ t, let k := s.task t
      exec (.powerHoldEnd t) s =
        (if s.gcyc % 64 = 0 ∧ k.held = true then .next (s.setTask t fun k => { k with held := false, rate := 32, nextRate := 32 }) else .next s) ∧
      (∀ r, exec (.rateChange t r) s =
        if s.gcyc % 64 = 0 ∧ k.nextRate = r then .next (s.setTask t fun k => { k with rate := r }) else .next s) ∧
      let j := s.gcyc % 64
      let stopped : Prop := k.held = true ∨ j * (64 - k.rate) / 64 < (j + 1) * (64 - k.rate) / 64
      (¬stopped ∨ 1 ∈ k.causes → exec (.clockSwallow t) s = .next s) ∧
      (stopped → 1 ∉ k.causes → ∃ u, exec (.clockSwallow t) s = .next u ∧ s.onlyTask u t ∧
        ∀ c q, find? k.cores c = some q → find? (u.task t).cores c = some (if q.halted then q else q.record 1 q.pc))

/-! ### Memory -/

/-- Every step keeps memory in its canonical form: addresses rising, and no byte listed that an unlisted address reads as (the form is
the model's own). -/
def Obligations.MemoryStaysCanonical : Prop := ∀ s t : State, Memory.wf s.mem → step s = .next t → Memory.wf t.mem

/-! ### The machine -/

/-- 24 R351, 03 R47, R49: after reset nothing has booted, no task is bound and memory lists nothing; a core as a task finds it reads
zero in every register but p0, and its FMT is 0. -/
def Obligations.ResetState : Prop :=
  State.reset.fw.boot = .off ∧ State.reset.gcyc = 0 ∧ State.reset.mem = [] ∧ State.reset.tasks = [] ∧ State.reset.ctxs = [] ∧
  State.reset.queue = [] ∧ State.reset.quireOwner = [] ∧ State.reset.chanOwner = [] ∧ State.reset.agenda = [] ∧
  Memory.wf State.reset.mem ∧
  ∀ n, Core.start.reg n = 0 ∧ Core.start.pred n = (if n = 0 then BitVec.allOnes 128 else 0) ∧ Core.start.base n = 0 ∧
    Core.start.cursor n = ⟨0, 0, 0⟩ ∧ (Core.start.walker n).loaded = false ∧ (Core.start.head n).status = .closed ∧
    (∀ dc, Core.start.fmtAt dc = 0) ∧ Core.start.lc = 0 ∧ Core.start.twin = 0 ∧ Core.start.dgst = 0 ∧
    Core.start.tallocmap = 0 ∧ get Core.start.detc 0 n = 0

/-- 02 R23, 25: a step takes the next item of work.  A slot: the 16 bytes at its core's PC, in the kernel's text, are decoded and the
instruction is run; a slot outside the text faults and one that decodes to nothing, or to an instruction that is not well formed, is
refused.  An event of the device's own runs the table's row of that event, one from outside runs as it is; with nothing left a period
begins. -/
def Obligations.StepRunsTheNextWork : Prop :=
  ∀ (s : State) (ws : List Work),
    (∀ t c k, s.agenda = .slot t c k :: ws → ∀ image : KernelImage, s.kernel t = some image →
      (image.bundles ≤ (s.core t c).pc → step s = .fault .outsideText) ∧
      ((s.core t c).pc < image.bundles →
        (s.readVirt (s.task t).ctx (image.text + 16 * (s.core t c).pc) 16 = none → step s = .fault .textUnmapped) ∧
        ∀ bytes, s.readVirt (s.task t).ctx (image.text + 16 * (s.core t c).pc) 16 = some bytes →
          (∀ i, (bundleOf bytes).slot k = .ok i → i.faults = [] → step s = exec i { s with agenda := ws, cur := ⟨t, c, k⟩ }) ∧
          (∀ why rest, (bundleOf bytes).slot k = .error (why :: rest) → step s = .refused (.noInstruction why)) ∧
          (∀ i why rest, (bundleOf bytes).slot k = .ok i → i.faults = why :: rest → step s = .refused (.noInstruction why)))) ∧
    (∀ i, s.agenda = .event i :: ws → step s = exec i { s with agenda := ws }) ∧
    (∀ e, s.agenda = .auto e :: ws → ∀ i, e.isRow i → step s = exec i { s with agenda := ws }) ∧
    (∀ g, s.agenda = .stage g :: ws → step s = .next ({ s with agenda := ws }.runStage g)) ∧
    (s.agenda = [] → step s = .next s.periodStage)

/-- 02 R28, R30, 04 to 16: words written out field by field from the encodings decode to the instructions they stand for; a reserved
bit that is not zero, or an op that no row has, gives none. -/
def Obligations.WordsDecode : Prop :=
  decodeTableWord 32 0 = some .nop ∧
  decodeTableWord 32 0b0000000110_11000_01011_10010_0111_00_1 = some (.mulh 24 11 18 7 1) ∧
  decodeTableWord 32 0b0000011100_01000_00011_11010_1010_00_1 = some (.plt 8 3 26 10 1) ∧
  decodeTableWord 32 0b0001000000_01001_11010_111010101000 = some (.addi 9 26 0xEA8 none) ∧
  decodeTableWord 32 0b0010000001_0111_100110001011111111 = some (.brp 7 0x262FF) ∧
  decodeTableWord 32 0b0010000110_00000_10101_0000000_01_010 = some (.loopi 21 1 2) ∧
  decodeTableWord 32 0b0010001001_0000_01_0_1_10_0100_0001_0010 = some (.fmtset 1 1 2 4 1 2) ∧
  decodeTableWord 32 0b0011001000_00000_00000_100000_000111 = some (.twincmpTile 7) ∧
  decodeTableWord 32 0b0100000001_001001_011010_100010_0110 = some (.vadd 9 26 34 6 none) ∧
  decodeTableWord 32 0b0101000111_110_1000110_1010_01_000000 = some (.vcur 6 70 10 1) ∧
  decodeTableWord 32 0b0110000010_00010_011101_0011_001_1_001 = some (.mma 2 29 3 1 1 1 none) ∧
  decodeTableWord 32 0b0111000000_0100_100000_000_1_0_011_0000 = some (.hopen 4 32 1 0 3 none) ∧
  decodeTableWord 32 0b1000000011_00011_00101_10001_11110_01 = some (.kcopy 3 5 17 30 1) ∧
  decodeTableWord 32 0b1001000000_01010_11010_101011_11_01_0_0 = some (.ld 10 26 43 3 1 0 none) ∧
  decodeTableWord 32 0b1001001101_11101_01101_011100_1_1_11_0_0 = some (.amocas 29 13 28 1 3 0 none) ∧
  decodeTableWord 32 0b1010000001_00000_00001_10101_000000_1 = some (.sfgo 1 21 1) ∧
  decodeTableWord 32 0b1011000001_00000_10101_00001_000000_1 = some (.klaunchc 21 1 1) ∧
  decodeTableWord 32 0b0000000110_11000_01011_10010_0111_01_1 = none ∧
  decodeTableWord 32 0b0010000100_0000000000000000000001 = none ∧
  decodeTableWord 32 0b0000111111_00000_00000_00000_0000_00_0 = none

/-- 02 R25 to R27, 04 to 16: four words that encode instructions make a bundle that reads as those instructions; under a header that
lends each slot the byte of its encoding, the same. -/
def Obligations.BundlesRoundTrip : Prop :=
  (∀ (i0 i1 i2 i3 : Instr) (w0 w1 w2 w3 : BitVec 32), i0.encode = some (none, w0) → i1.encode = some (none, w1) →
    i2.encode = some (none, w2) → i3.encode = some (none, w3) →
    readBundle w0 w1 w2 w3 = ⟨none, scBit w0 || scBit w1 || scBit w2 || scBit w3, .ok i0, .ok i1, .ok i2, .ok i3⟩) ∧
  (∀ (h : Header) (i1 i2 i3 : Instr) (x1 x2 x3 : Ext) (w1 w2 w3 : BitVec 32), i1.encode = some (x1, w1) →
    i2.encode = some (x2, w2) → i3.encode = some (x3, w3) → lends x1 h.e1 → lends x2 h.e2 → lends x3 h.e3 →
    ∃ j1 j2 j3, readBundle (headerWord h) w1 w2 w3 =
        ⟨some h, scBit w1 || scBit w2 || scBit w3, .ok .nop, .ok j1, .ok j2, .ok j3⟩ ∧
      readsAs i1 j1 x1 w1 ∧ readsAs i2 j2 x2 w2 ∧ readsAs i3 j3 x3 w3)

/-- 17 R311, R322: a device that has failed runs nothing: whatever comes from outside, every step leaves it failed with the same cause.
R311 has it fail until it is reset: that the reset line, which the board drives, is no event of a step but State.resetDevice beside it,
is the model's choice (log 121). -/
def Obligations.FailedDeviceStaysFailed : Prop :=
  ∀ (s t : State) (c : FatalCause), s.hasFailed c → step s = .next t → t.hasFailed c

/-- 02 R23: until its bundle commits, a slot changes no register, task, table or byte of memory, and it always completes. -/
def Obligations.SlotsChangeNothingYet : Prop :=
  ∀ (i : Instr) (s : State), i.isSlot = true → ∃ t, exec i s = .next t ∧ SlotFrame s t

/-- 02 R23, R27, 04 to 16: an instruction of a slot whose operands and whose core's state are as its rule asks for normal execution
(State.mayComplete) runs, raises no trap and leaves what it owes to the commit of its bundle.  Completes: every instruction of a slot but
TRAP, whose effect is its trap. -/
def Obligations.InstructionsComplete : Prop :=
  ∀ (i : Instr) (s : State), s.mayComplete i → ∃ t, exec i s = .next t ∧ t.traps = s.traps ∧ SlotFrame s t

/-- 02 R36, 04 R66, R69: the effects and queued accesses that a slot adds write no scalar register but the one its rule names, and of
FRPTR, TWIN, LC and FMT only what its rule names. -/
def Obligations.SlotsWriteOnlyWhatTheyName : Prop :=
  ∀ (i : Instr) (s t : State), i.isSlot = true → exec i s = .next t →
    (∀ o ∈ t.issued.drop s.issued.length,
      (∀ n, o.eff.scalarTarget = some n → (usesOf i).out = some n) ∧ (∀ r, o.eff.special = some r → r ∈ writesSpecial i)) ∧
    ∀ q ∈ t.newQueue.drop s.newQueue.length, q.dest = 0 ∨ (usesOf i).out = some q.dest

/-- 02 R23, 03 R48: bundles without a trap commit: the dc counts up, a core that issues goes to the bundle after its own or to the one
that its transfer names, what is due later is owed, queued accesses join the queue, and no scalar, predicate or byte of memory
changes. -/
def Obligations.BundlesCommit : Prop :=
  ∀ (s : State) (t : Nat), s.commits t → s.breaks = [] →
    let k := s.task t
    let u := s.commit t
    (u.task t).dc = k.dc + 1 ∧ u.issued = [] ∧ u.newQueue = [] ∧ u.traps = [] ∧ u.queue = s.queue ++ s.newQueue ∧ u.mem = s.mem ∧
    ((∀ a ∈ s.newQueue, a.task = t) → ∀ j, j ≠ t → u.task j = s.task j) ∧
    (∀ o ∈ s.issued, k.dc < o.dc → (∀ p ∈ s.issued, ∀ n, p.eff ≠ .trel n) → o ∈ (u.task t).owed) ∧
    ∀ c q, find? k.cores c = some q →
      (u.core t c).s = q.s ∧ (u.core t c).p = q.p ∧
      (q.ready k.dc = false → (u.core t c).pc = q.pc) ∧
      (q.ready k.dc = true → (∀ o ∈ s.issued, o.core = c → o.eff ≠ .halt ∧ ∀ v, o.eff ≠ .pc v) → (u.core t c).pc = q.pc + 1) ∧
      (q.ready k.dc = true → ∀ a o b v, s.issued = a ++ o :: b → o.core = c → o.dc = k.dc →
        o.eff = .pc v ∨ o.eff = .halt ∧ v = o.pc →
        (∀ p ∈ b, p.core = c → p.eff ≠ .halt ∧ ∀ w, p.eff ≠ .pc w) → (u.core t c).pc = v)

/-- 02 R23, 15 R280, 17 R304, R305, R309, R310: where a slot has trapped nothing of the dc commits.  A trap that Floor may not resume
fails the kernel with its cause; one that it may stops the domain for service, a page fault after a rollback to the rollback point;
the bundle of a BRK commits before the domain stops. -/
def Obligations.TrapsStopTheDomain : Prop :=
  ∀ (s : State) (t : Nat) (tr : Trap),
    let k := s.task t
    let u := s.commit t
    (k.raised = [] → s.traps = [tr] → s.lateReads t = [] → s.overflowTraps t = [] → s.breaks = [] →
      u.issued = [] ∧ u.newQueue = [] ∧ u.traps = [] ∧
      (tr.resumable = false → (u.task t).status = .failed ∧ (u.task t).owed = [] ∧ (u.task t).dc = k.dc ∧
        (∃ f, (u.task t).failure = some f ∧ f.cause = tr.cause ∧ f.sub = tr.sub ∧ f.pc = tr.pc ∧ f.core = tr.core) ∧
        ∀ c, (s.core t c).sameRegisters (u.core t c)) ∧
      (tr.resumable = true → (u.task t).status = .service ∧
        (∃ v, (u.task t).service = some v ∧ v.deadline = s.gcyc + 2400000000) ∧
        (tr.cause ≠ 0x15 → (u.task t).owed = k.owed ∧ (u.task t).dc = k.dc ∧ ∀ c, (s.core t c).sameRegisters (u.core t c)) ∧
        (tr.cause = 0x15 → (u.task t).dc = k.rollDc ∧
          ∀ c q, find? k.cores c = some q → (get k.snap Core.start c).sameRegisters (u.core t c)))) ∧
    (s.commits t → s.breaks = [tr] →
      (u.task t).dc = k.dc + 1 ∧ (u.task t).status = .service ∧ u.queue = s.queue ++ s.newQueue ∧ u.issued = [] ∧
      ∃ v, (u.task t).service = some v ∧ v.kind = .brk ∧ v.deadline = s.gcyc + 2400000000)

/-- 03 R48, R62, R65, 09 R182, R183: an owed write performs in its dc and is owed no more. A timed write gives the scalar, the lanes of
the predicate or of the tile row their value, unless a later load has written the scalar; no other register and no byte of memory
changes. Rows through a leaf walker are appended to the leaf under the header of their line modes; LEN and LINES follow, or, for a
delivery of the matrix engine, the entry becomes that of every leaf which an engine write port writes (how 09 R183 and R192 go together
there is read by inference, log 120), and a leaf that would pass CAP is scratchpad trap 0x7 and stays as it is. Completes:
timedWritePerform, walkerLeafWritePerform. -/
def Obligations.OwedWritesPerform : Prop :=
  ∀ (s : State) (t id : Nat) (o : Owed), s.dueOwed t id = some o →
    let k := s.task t
    let left := k.owed.filter fun p => p.id ≠ id
    (o.eff.isTimed = true → ∃ u, exec (.timedWritePerform t id) s = .next u ∧ u.mem = s.mem ∧ (∀ j, j ≠ t → s.sameTask u j) ∧
      (u.task t).owed = left ∧
      (∀ n v, o.eff = .scalar n v → (∀ c, c ≠ o.core → u.core t c = s.core t c) ∧
        ∀ m, (u.core t o.core).reg m =
          if m = n ∧ n ≠ 0 ∧ get (s.core t o.core).loadSeq 0 n ≤ id then v else (s.core t o.core).reg m) ∧
      (∀ n m v, o.eff = .pred n m v → ∀ c j, (u.core t c).pred j =
        if c = o.core ∧ j = n ∧ n ≠ 0 then (s.core t c).pred j &&& ~~~m ||| v &&& m else (s.core t c).pred j) ∧
      (∀ a b m v, o.eff = .tileRow a b m v → b < 16 → k.captured = [] → ∀ c x y, y < 16 →
        ((c, x, y) ≠ (o.core, a, b) → (u.core t c).tileRow x y = (s.core t c).tileRow x y) ∧
        ((c, x, y) = (o.core, a, b) → ∀ l < 128, ((u.core t c).tileRow x y).getD l 0 =
          if m.getLsbD l then v.getD l 0 else ((s.core t c).tileRow x y).getD l 0))) ∧
    (∀ slice leaf first data port, o.eff = .leafWrite slice leaf first data port →
      let e := (k.core slice).leafEntry leaf
      let b := buildLeaf (if first = 0 then [] else lineModes (k.spadBytes (leafBase slice e) 16)) first data
      ∃ u, exec (.walkerLeafWritePerform t id) s = .next u ∧ u.mem = s.mem ∧ (u.task t).owed = left ∧
        (e.cap.toNat < b.len → (u.core t slice).slice = (s.core t slice).slice ∧ (u.core t slice).leaf = (s.core t slice).leaf ∧
          ∃ tr, (u.task t).raised = k.raised ++ [tr] ∧ tr.cause = 0x0D ∧ tr.sub = 7 ∧ tr.core = o.core ∧ tr.pc = o.pc) ∧
        (b.len ≤ e.cap.toNat → k.captured = [] → s.banks = [] → slice < 512 → 64 * e.offset.toNat + b.from' < 2 ^ 22 →
          Memory.wf (k.core slice).slice →
          (u.task t).raised = k.raised ∧
          (port = false →
            (u.core t slice).leafEntry leaf = { e with len := BitVec.ofNat 7 b.len, lines := BitVec.ofNat 7 b.lines }) ∧
          (port = true → e.valid = true → 0 < e.cap.toNat →
            (u.core t slice).leafEntry leaf = { e with tag := e.tag + 1, lines := 64, len := e.cap, next := 4096 }) ∧
          Memory.bytes (u.core t slice).slice (64 * e.offset.toNat + b.from') b.payload.length = b.payload ∧
          (16 ≤ b.from' → Memory.bytes (u.core t slice).slice (64 * e.offset.toNat) 16 = b.header)))
end

