-- ==== Sys2Proof/Laws/Lanes.lean ====
section
/-!
SUPPORT. Rows, predicates, bit fields and elements: what the helpers of the operations compute, in terms of bit vectors.
-/

namespace Sys2Proof.Machine

/-! ### Bit fields -/

theorem bitAt_eq {w : Nat} (v : BitVec w) (i : Nat) : bitAt v i = v.getLsbD i := by
  simp [bitAt, BitVec.getLsbD, Nat.testBit_eq_decide_div_mod_eq]

theorem laneOn_eq (p : Pred) (i : Nat) : laneOn p i = p.getLsbD i := bitAt_eq p i

theorem ofNat_bits {w : Nat} (v : BitVec w) (lo n : Nat) : BitVec.ofNat n (bits v lo n) = v.extractLsb' lo n := by
  apply BitVec.eq_of_toNat_eq
  simp [bits, BitVec.extractLsb'_toNat, Nat.shiftRight_eq_div_pow]

theorem sext_eq {n : Nat} (hn : 0 < n) (v : Nat) : sext n v = (BitVec.ofNat n v).toInt := by
  obtain ⟨k, rfl⟩ : ∃ k, n = k + 1 := ⟨n - 1, by omega⟩
  rw [BitVec.toInt_eq_toNat_cond]
  simp only [sext, BitVec.toNat_ofNat, Nat.add_sub_cancel]
  have : 2 ^ (k + 1) = 2 * 2 ^ k := by rw [Nat.pow_succ]; omega
  generalize 2 ^ k = y at *
  generalize 2 ^ (k + 1) = z at *
  subst this
  generalize v % (2 * y) = r
  split <;> split <;> first | rfl | omega

/-! ### Rows and predicates -/

theorem lane_eq (r : Row) (i : Nat) : lane r i = r.getD i 0 := rfl

@[simp] theorem rowOf_length (f : Nat → Lane) : (rowOf f).length = 128 := by simp [rowOf]

theorem rowOf_getD (f : Nat → Lane) {l : Nat} (h : l < 128) : (rowOf f).getD l 0 = f l := by
  simp [rowOf, List.getD, h]

theorem replicate_getD (v : Lane) {l : Nat} (h : l < 128) : (List.replicate 128 v).getD l 0 = v := by
  rw [List.getD, List.getElem?_replicate, if_pos h]; rfl

theorem zero_getD (l : Nat) : Row.zero.getD l 0 = 0 := by
  rw [Row.zero, List.getD, List.getElem?_replicate]; split <;> rfl

/-- The number whose bits are the values of `f` on a list of places. -/
theorem foldr_bits (f : Nat → Bool) (l : List Nat) (k : Nat) :
    (l.foldr (fun i n => (if f i then 1 else 0) + 2 * n) 0).testBit k = ((l[k]?).map f).getD false := by
  induction l generalizing k with
  | nil => simp
  | cons a l ih =>
    cases k with
    | zero => simp [Nat.testBit_zero]; split <;> simp_all <;> omega
    | succ k =>
      rw [List.foldr_cons, Nat.testBit_succ]
      have : ((if f a then 1 else 0) + 2 * List.foldr (fun i n => (if f i then 1 else 0) + 2 * n) 0 l) / 2 =
          List.foldr (fun i n => (if f i then 1 else 0) + 2 * n) 0 l := by split <;> omega
      rw [this, ih]; simp

theorem predOf_getLsbD (f : Nat → Bool) {l : Nat} (h : l < 128) : (predOf f).getLsbD l = f l := by
  rw [predOf, BitVec.getLsbD_ofNat, foldr_bits]; simp [h]

theorem blend_getD (mask : Pred) (old new : Row) {l : Nat} (h : l < 128) :
    (blend mask old new).getD l 0 = if mask.getLsbD l then new.getD l 0 else old.getD l 0 := by
  rw [blend, rowOf_getD _ h, laneOn_eq]; rfl

/-! ### Immediates with an ext byte -/

theorem immS_eq {n : Nat} (x : Ext) (i : BitVec n) (hn : n ≤ 56) : immS x i = (signedImm x i).toInt := by
  cases x with
  | none => simp [immS, signedImm, BitVec.toInt_signExtend_of_le (show n ≤ 64 by omega)]
  | some e =>
    simp only [immS, signedImm]
    rw [BitVec.toInt_signExtend_of_le (show 8 + n ≤ 64 by omega), sext_eq (by omega), BitVec.toInt_eq_toNat_bmod,
      BitVec.toInt_eq_toNat_bmod, BitVec.toNat_append]
    have h1 := i.isLt
    have h2 := e.isLt
    have e1 : e.toNat <<< n ||| i.toNat = e.toNat * 2 ^ n + i.toNat := by
      rw [Nat.shiftLeft_eq, Nat.mul_comm, Nat.two_pow_add_eq_or_of_lt h1]
    have e2 : e.toNat * 2 ^ n + i.toNat < 2 ^ (n + 8) := by
      rw [Nat.pow_add, Nat.mul_comm (2 ^ n)]
      calc e.toNat * 2 ^ n + i.toNat < e.toNat * 2 ^ n + 2 ^ n := by omega
        _ = (e.toNat + 1) * 2 ^ n := by rw [Nat.add_mul]; omega
        _ ≤ 2 ^ 8 * 2 ^ n := Nat.mul_le_mul_right _ (by omega)
    rw [BitVec.toNat_ofNat, Nat.mod_eq_of_lt e2, e1, Nat.add_comm n 8]

theorem immU_eq {n : Nat} (x : Ext) (i : BitVec n) (hn : n ≤ 56) : immU x i = (unsignedImm x i).toNat := by
  have hp : 2 ^ n ≤ 2 ^ 56 := Nat.pow_le_pow_right (by decide) hn
  have h1 := i.isLt
  cases x with
  | none => simp only [immU, unsignedImm, BitVec.toNat_setWidth]; rw [Nat.mod_eq_of_lt (by omega)]
  | some e =>
    have h2 := e.isLt
    simp only [immU, unsignedImm, BitVec.toNat_setWidth, BitVec.toNat_append]
    rw [Nat.shiftLeft_eq, Nat.mul_comm e.toNat, Nat.two_pow_add_eq_or_of_lt h1, Nat.mod_eq_of_lt]
    rw [← Nat.two_pow_add_eq_or_of_lt h1]
    have : 2 ^ n * e.toNat ≤ 2 ^ 56 * 255 := Nat.mul_le_mul hp (by omega)
    omega

/-! ### Elements -/

theorem elemBits_pos (e : Nat) : 0 < elemBits e := by unfold elemBits; split <;> decide

theorem elemBits_le (e : Nat) : elemBits e ≤ 32 := by unfold elemBits; split <;> decide

theorem extend_eq (e v : Nat) : extend e v = laneBV (isSignedFmt e) (BitVec.ofNat (elemBits e) v) := by
  simp only [extend, laneBV]
  split
  · rw [sext_eq (elemBits_pos e)]
  · rw [BitVec.toNat_ofNat]

theorem elemOf_eq (e : Nat) (l : Lane) : elemOf e l = (elemBV (elemBits e) l).toNat := by simp [elemOf, elemBV]

theorem laneInt_eq (e : Nat) (l : Lane) : laneInt e l = intBV (isSignedFmt e) (elemBV (elemBits e) l) := by
  simp only [laneInt, intOf, intBV, elemOf_eq]
  split
  · rw [sext_eq (elemBits_pos e)]; simp
  · rw [Nat.mod_eq_of_lt (BitVec.isLt _)]

theorem wrapInt_eq (e : Nat) (v : Int) : BitVec.ofNat (elemBits e) (wrapInt e v) = BitVec.ofInt (elemBits e) v := by
  apply BitVec.eq_of_toNat_eq
  rw [BitVec.toNat_ofNat, BitVec.toNat_ofInt, wrapInt]
  apply Nat.mod_eq_of_lt
  have : (0 : Int) < ((2 ^ elemBits e : Nat) : Int) := by exact_mod_cast Nat.two_pow_pos _
  have := Int.emod_lt_of_pos v this
  have := Int.emod_nonneg v (show ((2 ^ elemBits e : Nat) : Int) ≠ 0 by omega)
  omega

theorem intLane_eq (e : Nat) (v : Int) : intLane e v = laneBV (isSignedFmt e) (BitVec.ofInt (elemBits e) v) := by
  rw [intLane, extend_eq, wrapInt_eq]

/-- The integer of an element, taken modulo 2^w, is the element. -/
@[simp] theorem ofInt_intBV {w : Nat} (g : Bool) (v : BitVec w) : BitVec.ofInt w (intBV g v) = v := by
  cases g
  · simp [intBV]
  · simp [intBV]

theorem ofInt_add' {w : Nat} (a b : Int) : BitVec.ofInt w (a + b) = BitVec.ofInt w a + BitVec.ofInt w b := by
  simp [BitVec.ofInt_add]

end Sys2Proof.Machine
end

