-- ==== Sys2Proof/Laws/Memory.lean ====
section
/-!
SUPPORT. Laws of memory: what a byte reads as after each operation, and that each keeps the canonical form.
-/

namespace Sys2Proof.Machine

/-! ### Reading after writing -/

theorem Memory.byte_nil (a : Nat) : Memory.byte [] a = Config.emptyByte := rfl

/-- Below every listed address nothing is listed. -/
theorem Memory.byte_below {m : Memory} {a : Nat} (h : ∀ c ∈ m, a < c.1) : Memory.byte m a = Config.emptyByte := by
  cases m with
  | nil => rfl
  | cons c rest =>
    have := h c (by simp)
    simp [Memory.byte, show c.1 ≠ a by omega, this]

theorem Memory.wf_tail {c : Host.Cell} {m : Memory} (h : Memory.wf (c :: m)) : Memory.wf m :=
  ⟨(List.pairwise_cons.1 h.1).2, fun x hx => h.2 x (by simp [hx])⟩

theorem Memory.wf_head_lt {c : Host.Cell} {m : Memory} (h : Memory.wf (c :: m)) : ∀ x ∈ m, c.1 < x.1 :=
  (List.pairwise_cons.1 h.1).1

/-- A write is read back. -/
theorem Memory.byte_set_same {m : Memory} (h : m.wf) (a : Nat) (v : Byte) : Memory.byte (Memory.set m a v) a = v := by
  induction m with
  | nil => by_cases hv : v = Config.emptyByte <;> simp [Memory.set, Memory.byte, hv]
  | cons c rest ih =>
    obtain ⟨j, w⟩ := c
    have lt := Memory.wf_head_lt h
    simp only [Memory.set]
    by_cases h1 : a < j
    · by_cases hv : v = Config.emptyByte
      · simp [h1, hv, Memory.byte, show j ≠ a by omega]
      · simp [h1, hv, Memory.byte]
    · by_cases h2 : j = a
      · by_cases hv : v = Config.emptyByte
        · subst h2; simp only [Nat.lt_irrefl, hv, if_true, if_false]
          exact Memory.byte_below lt
        · simp [h2, hv, Memory.byte]
      · simp only [h1, h2, if_false, Memory.byte]
        exact ih (Memory.wf_tail h)

/-- A write leaves every other address alone. -/
theorem Memory.byte_set_other {m : Memory} (h : m.wf) {a b : Nat} (v : Byte) (hab : b ≠ a) :
    Memory.byte (Memory.set m a v) b = Memory.byte m b := by
  induction m with
  | nil =>
    by_cases hv : v = Config.emptyByte
    · simp [Memory.set, hv]
    · by_cases hl : b < a <;> simp [Memory.set, hv, Memory.byte, show a ≠ b from fun e => hab e.symm]
  | cons c rest ih =>
    obtain ⟨j, w⟩ := c
    have lt := Memory.wf_head_lt h
    have tail := ih (Memory.wf_tail h)
    simp only [Memory.set]
    by_cases h1 : a < j
    · by_cases hv : v = Config.emptyByte
      · simp [h1, hv]
      · simp only [h1, hv, if_true, if_false, Memory.byte, show a ≠ b from fun e => hab e.symm]
        by_cases hb : b < a
        · simp [hb, show j ≠ b by omega, show b < j by omega]
        · simp [hb]
    · by_cases h2 : j = a
      · by_cases hv : v = Config.emptyByte
        · subst h2
          simp only [Nat.lt_irrefl, hv, if_true, if_false, Memory.byte, show j ≠ b from fun e => hab e.symm]
          by_cases hb : b < j
          · simp only [hb, if_true]
            exact Memory.byte_below fun c hc => by have := lt c hc; omega
          · simp [hb]
        · simp [h2, hv, Memory.byte, show a ≠ b from fun e => hab e.symm]
      · simp only [h1, h2, if_false, Memory.byte, tail]

/-! ### The canonical form -/

/-- Addresses of a written memory are the old ones and the written one. -/
theorem Memory.mem_set {m : Memory} {a : Nat} {v : Byte} {c : Host.Cell} (h : c ∈ Memory.set m a v) :
    c ∈ m ∨ (c = (a, v) ∧ v ≠ Config.emptyByte) := by
  induction m with
  | nil =>
    by_cases hv : v = Config.emptyByte
    · simp [Memory.set, hv] at h
    · simp [Memory.set, hv] at h; exact .inr ⟨h, hv⟩
  | cons d rest ih =>
    obtain ⟨j, w⟩ := d
    simp only [Memory.set] at h
    by_cases hv : v = Config.emptyByte <;> by_cases h1 : a < j <;> by_cases h2 : j = a <;>
      simp only [h1, h2, hv, if_true, if_false, List.mem_cons] at h ⊢ <;> grind

/-- Writing a byte keeps the canonical form. -/
theorem Memory.wf_set {m : Memory} (h : m.wf) (a : Nat) (v : Byte) : Memory.wf (Memory.set m a v) := by
  refine ⟨?_, fun c hc => ?_⟩
  · induction m with
    | nil => by_cases hv : v = Config.emptyByte <;> simp [Memory.set, hv]
    | cons d rest ih =>
      obtain ⟨j, w⟩ := d
      have lt := Memory.wf_head_lt h
      have tail := ih (Memory.wf_tail h)
      have pw := (Memory.wf_tail h).1
      simp only [Memory.set]
      by_cases h1 : a < j
      · by_cases hv : v = Config.emptyByte
        · simp only [h1, hv, if_true]; exact h.1
        · simp only [h1, hv, if_true, if_false]
          refine List.pairwise_cons.2 ⟨fun c hc => ?_, h.1⟩
          rcases List.mem_cons.1 hc with rfl | hc
          · exact h1
          · have := lt c hc; simp only; omega
      · by_cases h2 : j = a
        · subst h2
          by_cases hv : v = Config.emptyByte
          · simp only [Nat.lt_irrefl, hv, if_true, if_false]; exact pw
          · simp only [Nat.lt_irrefl, hv, if_true, if_false]
            exact List.pairwise_cons.2 ⟨lt, pw⟩
        · simp only [h1, h2, if_false]
          refine List.pairwise_cons.2 ⟨fun c hc => ?_, tail⟩
          rcases Memory.mem_set hc with hc | ⟨rfl, -⟩
          · exact lt c hc
          · simp only; omega
  · rcases Memory.mem_set hc with hc | ⟨rfl, hv⟩
    · exact h.2 c hc
    · exact hv

/-- Writing bytes keeps the canonical form. -/
theorem Memory.wf_setBytes {m : Memory} (h : m.wf) (a : Nat) (l : List Byte) : Memory.wf (Memory.setBytes m a l) := by
  induction l generalizing m a with
  | nil => exact h
  | cons b rest ih => exact ih (Memory.wf_set h a b) (a + 1)

/-- Writing bytes leaves every address outside them alone. -/
theorem Memory.byte_setBytes_other {m : Memory} (h : m.wf) {a b : Nat} (l : List Byte) (hb : b < a ∨ a + l.length ≤ b) :
    Memory.byte (Memory.setBytes m a l) b = Memory.byte m b := by
  induction l generalizing m a with
  | nil => rfl
  | cons x rest ih =>
    simp only [Memory.setBytes, List.length_cons] at *
    rw [ih (Memory.wf_set h a x) (by omega), Memory.byte_set_other h x (by omega)]

/-- Bytes written are read back. -/
theorem Memory.byte_setBytes_same {m : Memory} (h : m.wf) (a : Nat) (l : List Byte) (i : Nat) (hi : i < l.length) :
    Memory.byte (Memory.setBytes m a l) (a + i) = l[i] := by
  induction l generalizing m a i with
  | nil => simp at hi
  | cons x rest ih =>
    simp only [Memory.setBytes]
    cases i with
    | zero =>
      rw [Memory.byte_setBytes_other (Memory.wf_set h a x) rest (by omega)]
      simpa using Memory.byte_set_same h a x
    | succ k =>
      have := ih (Memory.wf_set h a x) (a + 1) k (by simpa using hi)
      simpa [Nat.add_assoc, Nat.add_comm 1 k] using this

/-- The bytes at a place after they were written there. -/
theorem Memory.bytes_setBytes_same {m : Memory} (h : m.wf) (a : Nat) (l : List Byte) :
    Memory.bytes (Memory.setBytes m a l) a l.length = l := by
  refine List.ext_getElem (by simp [Memory.bytes]) fun i h1 h2 => ?_
  simp only [Memory.bytes, List.getElem_map, List.getElem_range]
  exact Memory.byte_setBytes_same h a l i h2

/-! ### Whole regions -/

/-- A region between what lies below and above it. -/
theorem Memory.wf_region {m cells : Memory} (h : m.wf) (hc : Memory.wf cells) (lo hi : Nat) (hlh : lo ≤ hi)
    (hin : ∀ c ∈ cells, lo ≤ c.1 ∧ c.1 < hi) :
    Memory.wf ((m.filter fun c => c.1 < lo) ++ cells ++ m.filter fun c => hi ≤ c.1) := by
  refine ⟨?_, fun c hc' => ?_⟩
  · refine List.pairwise_append.2 ⟨List.pairwise_append.2 ⟨h.1.filter _, hc.1, fun a ha b hb => ?_⟩, h.1.filter _, fun a ha b hb => ?_⟩
    · have := hin b hb
      simp only [List.mem_filter, decide_eq_true_eq] at ha
      omega
    · simp only [List.mem_append, List.mem_filter, decide_eq_true_eq] at ha hb
      rcases ha with ha | ha
      · omega
      · have := hin a ha; omega
  · simp only [List.mem_append, List.mem_filter] at hc'
    rcases hc' with (hc' | hc') | hc'
    · exact h.2 c hc'.1
    · exact hc.2 c hc'
    · exact h.2 c hc'.1

/-- Copying a region keeps the canonical form. -/
theorem Memory.wf_copy {m : Memory} (h : m.wf) (src dst n : Nat) : Memory.wf (Memory.copy m src dst n) := by
  refine Memory.wf_region h ⟨?_, fun c hc => ?_⟩ dst (dst + n) (by omega) fun c hc => ?_
  · refine List.pairwise_map.2 ((List.Pairwise.and_mem.1 (h.1.filter _)).imp fun hab => ?_)
    simp only [List.mem_filter, Bool.and_eq_true, decide_eq_true_eq] at hab
    simp only
    omega
  · obtain ⟨d, hd, rfl⟩ := List.mem_map.1 hc
    exact h.2 d (List.mem_filter.1 hd).1
  · obtain ⟨d, hd, rfl⟩ := List.mem_map.1 hc
    simp only [List.mem_filter, Bool.and_eq_true, decide_eq_true_eq] at hd
    simp only
    omega

/-- Writing a region at once keeps the canonical form. -/
theorem Memory.wf_load {m : Memory} (h : m.wf) (base : Nat) (l : List Byte) : Memory.wf (Memory.load m base l) := by
  have idx : ∀ e ∈ (List.range l.length).zip l, e.1 < l.length := fun e he => by
    have := List.of_mem_zip he
    simpa using this.1
  refine Memory.wf_region h ⟨?_, fun c hc => ?_⟩ base (base + l.length) (by omega) fun c hc => ?_
  · have up : ((List.range l.length).zip l).Pairwise fun a b => a.1 < b.1 := by
      have : (((List.range l.length).zip l).map (·.1)).Pairwise (· < ·) := by
        rw [List.map_fst_zip (by simp)]; exact List.pairwise_lt_range
      exact List.pairwise_map.1 this
    refine List.Pairwise.filterMap _ (fun a b hab a' ha' b' hb' => ?_) up
    simp only [Option.ite_none_left_eq_some, Option.some.injEq] at ha' hb'
    obtain ⟨-, rfl⟩ := ha'
    obtain ⟨-, rfl⟩ := hb'
    simp only
    omega
  · obtain ⟨d, -, hd⟩ := List.mem_filterMap.1 hc
    simp only [Option.ite_none_left_eq_some, Option.some.injEq] at hd
    obtain ⟨hv, rfl⟩ := hd
    exact hv
  · obtain ⟨d, hm, hd⟩ := List.mem_filterMap.1 hc
    have := idx d hm
    simp only [Option.ite_none_left_eq_some, Option.some.injEq] at hd
    obtain ⟨-, rfl⟩ := hd
    simp only
    omega

end Sys2Proof.Machine
end

