-- ==== Sys2Proof/Laws/PerInstr.lean ====
section
/-!
SUPPORT. The round trip of every slot instruction: what the decoder reads from the word that the encoder gives is the
instruction, and under a header that lends a zero ext byte it is the same word's instruction.
-/

namespace Sys2Proof.Laws

/-- Each value fits its width. -/
def Fits (l : List (Nat × Nat)) : Prop :=
  match l with
  | [] => True
  | f :: rest => f.2 < 2 ^ f.1 ∧ Fits rest

theorem pack_lt (l : List (Nat × Nat)) (h : Fits l) : pack l < 2 ^ span l := by
  induction l with
  | nil => decide
  | cons f l ih =>
    have h1 := ih h.2
    have h2 := h.1
    rw [pack, span, Nat.pow_add]
    calc f.2 * 2 ^ span l + pack l < (f.2 + 1) * 2 ^ span l := by rw [Nat.succ_mul]; omega
      _ ≤ 2 ^ f.1 * 2 ^ span l := Nat.mul_le_mul_right _ h2

theorem pack_top (f : Nat × Nat) (l : List (Nat × Nat)) (h : Fits l) : pack (f :: l) / 2 ^ span l = f.2 := by
  rw [pack, Nat.add_comm, Nat.add_mul_div_right _ _ (Nat.two_pow_pos _), Nat.div_eq_of_lt (pack_lt l h), Nat.zero_add]

theorem span_append (l m : List (Nat × Nat)) : span (l ++ m) = span l + span m := by
  induction l with
  | nil => simp [span]
  | cons f l ih => simp [span, ih, Nat.add_assoc]

theorem pack_get (pre : List (Nat × Nat)) (f : Nat × Nat) (l : List (Nat × Nat)) (h : Fits (f :: l)) :
    pack (pre ++ f :: l) / 2 ^ span l % 2 ^ f.1 = f.2 := by
  induction pre with
  | nil => rw [List.nil_append, pack_top f l h.2]; exact Nat.mod_eq_of_lt h.1
  | cons g pre ih =>
    rw [List.cons_append, pack, span_append, span, ← Nat.add_assoc, Nat.pow_add, ← Nat.mul_assoc, Nat.mul_comm (g.2 * _),
      Nat.mul_add_div (Nat.two_pow_pos _), Nat.pow_add, ← Nat.mul_assoc, Nat.mul_comm, Nat.mul_add_mod]
    exact ih

theorem Fits.tail (pre l : List (Nat × Nat)) (h : Fits (pre ++ l)) : Fits l := by
  induction pre with
  | nil => exact h
  | cons _ _ ih => exact ih h.2

theorem word_pack (l : List (Nat × Nat)) (hl : span l = 32) (h : Fits l) : (word l).toNat = pack l := by
  rw [word, BitVec.toNat_ofNat, Nat.mod_eq_of_lt]
  exact hl ▸ pack_lt l h

theorem part {w : BitVec 32} {l m : List (Nat × Nat)} (pre : List (Nat × Nat)) {n v lo : Nat} (e : w.toNat = pack l)
    (h : Fits l) (hl : l = pre ++ (n, v) :: m) (hm : span m = lo) : w.toNat / 2 ^ lo % 2 ^ n = v := by
  subst hl hm; rw [e]; exact pack_get pre (n, v) m (Fits.tail pre _ h)

theorem classOf {w : BitVec 32} {m : List (Nat × Nat)} {n v : Nat} (e : w.toNat = pack ((n, v) :: m))
    (h : Fits ((n, v) :: m)) (hm : span m = 28) : w.toNat / 2 ^ 28 = v := by
  rw [e, ← hm]; exact pack_top _ _ h.2

theorem fld_eq {n : Nat} {w : BitVec 32} {lo : Nat} {v : BitVec n} (h : w.toNat / 2 ^ lo % 2 ^ n = v.toNat) : fld w lo n = v :=
  BitVec.eq_of_toNat_eq ((BitVec.toNat_ofNat ..).trans h)

theorem noExt_eq {why : Nat} {y : Ext} {w : BitVec 32} {i : Instr} (hy : y.getD 0 = 0) (g : List (Nat × Nat × Nat × Nat)) :
    noExt why y w g i = fixed w g i := if_pos hy

theorem plain_eq {y : Ext} {w : BitVec 32} {i : Instr} (hy : y.getD 0 = 0) (g : List (Nat × Nat × Nat × Nat)) :
    plain y w g i = fixed w g i := noExt_eq hy g

theorem fixed_nil {w : BitVec 32} {i : Instr} : fixed w [] i = .ok i := rfl

theorem fixed_cons {w : BitVec 32} {i : Instr} {lo n v r : Nat} {g : List (Nat × Nat × Nat × Nat)}
    (h : w.toNat / 2 ^ lo % 2 ^ n = v) : fixed w ((lo, n, v, r) :: g) i = fixed w g i := by
  simp only [fixed, badBits, if_pos h]

theorem slot_scal {y : Ext} {w : BitVec 32} {o : Nat} (hc : w.toNat / 2 ^ 28 = 0) (ho : w.toNat / 2 ^ 22 % 2 ^ 6 = o) :
    readSlot y w = readScal o y w := by
  unfold readSlot; rw [hc, ho]; rfl

theorem slot_simm {y : Ext} {w : BitVec 32} {o : Nat} (hc : w.toNat / 2 ^ 28 = 1) (ho : w.toNat / 2 ^ 22 % 2 ^ 6 = o) :
    readSlot y w = readSimm o y w := by
  unfold readSlot; rw [hc, ho]; rfl

theorem slot_ctrl {y : Ext} {w : BitVec 32} {o : Nat} (hc : w.toNat / 2 ^ 28 = 2) (ho : w.toNat / 2 ^ 22 % 2 ^ 6 = o) :
    readSlot y w = readCtrl o y w := by
  unfold readSlot; rw [hc, ho]; rfl

theorem slot_sys {y : Ext} {w : BitVec 32} {o : Nat} (hc : w.toNat / 2 ^ 28 = 3) (ho : w.toNat / 2 ^ 22 % 2 ^ 6 = o) :
    readSlot y w = readSys o y w := by
  unfold readSlot; rw [hc, ho]; rfl

theorem slot_row {y : Ext} {w : BitVec 32} {o : Nat} (hc : w.toNat / 2 ^ 28 = 4) (ho : w.toNat / 2 ^ 22 % 2 ^ 6 = o) :
    readSlot y w = readRow o y w := by
  unfold readSlot; rw [hc, ho]; rfl

theorem slot_rowx {y : Ext} {w : BitVec 32} {o : Nat} (hc : w.toNat / 2 ^ 28 = 5) (ho : w.toNat / 2 ^ 22 % 2 ^ 6 = o) :
    readSlot y w = readRowx o y w := by
  unfold readSlot; rw [hc, ho]; rfl

theorem slot_mtx {y : Ext} {w : BitVec 32} {o : Nat} (hc : w.toNat / 2 ^ 28 = 6) (ho : w.toNat / 2 ^ 22 % 2 ^ 6 = o) :
    readSlot y w = readMtx o y w := by
  unfold readSlot; rw [hc, ho]; rfl

theorem slot_head {y : Ext} {w : BitVec 32} {o : Nat} (hc : w.toNat / 2 ^ 28 = 7) (ho : w.toNat / 2 ^ 22 % 2 ^ 6 = o) :
    readSlot y w = readHead o y w := by
  unfold readSlot; rw [hc, ho]; rfl

theorem slot_copy {y : Ext} {w : BitVec 32} {o : Nat} (hc : w.toNat / 2 ^ 28 = 8) (ho : w.toNat / 2 ^ 22 % 2 ^ 6 = o) :
    readSlot y w = readCopy o y w := by
  unfold readSlot; rw [hc, ho]; rfl

theorem slot_qmem {y : Ext} {w : BitVec 32} {o : Nat} (hc : w.toNat / 2 ^ 28 = 9) (ho : w.toNat / 2 ^ 22 % 2 ^ 6 = o) :
    readSlot y w = readQmem o y w := by
  unfold readSlot; rw [hc, ho]; rfl

theorem slot_fab {y : Ext} {w : BitVec 32} {o : Nat} (hc : w.toNat / 2 ^ 28 = 10) (ho : w.toNat / 2 ^ 22 % 2 ^ 6 = o) :
    readSlot y w = readFab o y w := by
  unfold readSlot; rw [hc, ho]; rfl

theorem slot_graph {y : Ext} {w : BitVec 32} {o : Nat} (hc : w.toNat / 2 ^ 28 = 11) (ho : w.toNat / 2 ^ 22 % 2 ^ 6 = o) :
    readSlot y w = readGraph o y w := by
  unfold readSlot; rw [hc, ho]; rfl

/-- What the round trip says of an instruction. -/
def Encodes.Statement (i : Instr) : Prop :=
  ∀ x w, i.encode = some (x, w) → readSlot x w = .ok i ∧
    (x = none → ∃ j, readSlot (some 0) w = .ok j ∧ (j = i ∨ j.encode = some (some 0, w)))

theorem Encodes.ofPlain {i : Instr} {w : BitVec 32} (h : ∀ y : Ext, y.getD 0 = 0 → readSlot y w = .ok i)
    (e : i.encode = some (none, w)) : Encodes.Statement i := by
  intro x v hv
  rw [e] at hv
  cases hv
  exact ⟨h none rfl, fun _ => ⟨i, h _ rfl, .inl rfl⟩⟩

theorem Encodes.ofExt {f : Ext → Instr} {w : BitVec 32} (h : ∀ y, readSlot y w = .ok (f y))
    (e : ∀ y, (f y).encode = some (y, w)) (y : Ext) : Encodes.Statement (f y) := by
  intro x v hv
  rw [e] at hv
  cases hv
  exact ⟨h y, fun _ => ⟨_, h _, .inr (e _)⟩⟩

theorem Encodes.ofEvent {i : Instr} (e : i.encode = none) : Encodes.Statement i := by
  intro x v hv
  rw [e] at hv
  cases hv

theorem read_nop (xb : Ext) (wd : BitVec 32) : readScal 0x0 xb wd =
    plain xb wd [(0, 1, 0x0, 3), (1, 2, 0x0, 3), (3, 4, 0x0, 3), (7, 5, 0x0, 3), (12, 5, 0x0, 3), (17, 5, 0x0, 3)] .nop := rfl

theorem Encodes.nop : Encodes.Statement .nop := by
  refine Encodes.ofPlain (fun xb hu => ?_) rfl
  have hf : Fits [(4, 0x0), (6, 0x0), (5, 0x0), (5, 0x0), (5, 0x0), (4, 0x0), (2, 0x0), (1, 0x0)] :=
    ⟨by decide, by decide, by decide, by decide, by decide, by decide, by decide, by decide, trivial⟩
  have he := word_pack _ rfl hf
  generalize word [(4, 0x0), (6, 0x0), (5, 0x0), (5, 0x0), (5, 0x0), (4, 0x0), (2, 0x0), (1, 0x0)] = wd at *
  have hc : readSlot xb wd = readScal 0x0 xb wd := slot_scal (classOf he hf rfl) (part [_] he hf rfl rfl)
  have g0 : wd.toNat / 2 ^ 0 % 2 ^ 1 = 0x0 := part [_, _, _, _, _, _, _] he hf rfl rfl
  have g1 : wd.toNat / 2 ^ 1 % 2 ^ 2 = 0x0 := part [_, _, _, _, _, _] he hf rfl rfl
  have g2 : wd.toNat / 2 ^ 3 % 2 ^ 4 = 0x0 := part [_, _, _, _, _] he hf rfl rfl
  have g3 : wd.toNat / 2 ^ 7 % 2 ^ 5 = 0x0 := part [_, _, _, _] he hf rfl rfl
  have g4 : wd.toNat / 2 ^ 12 % 2 ^ 5 = 0x0 := part [_, _, _] he hf rfl rfl
  have g5 : wd.toNat / 2 ^ 17 % 2 ^ 5 = 0x0 := part [_, _] he hf rfl rfl
  rw [hc, read_nop, plain_eq hu, fixed_cons g0, fixed_cons g1, fixed_cons g2, fixed_cons g3, fixed_cons g4, fixed_cons g5, fixed_nil]

theorem read_add (xb : Ext) (wd : BitVec 32) : readScal 0x1 xb wd =
    plain xb wd [(1, 2, 0x0, 3)] (.add (fld wd 17 5) (fld wd 12 5) (fld wd 7 5) (fld wd 3 4) (fld wd 0 1)) := rfl

theorem Encodes.add (d a b : BitVec 5) (p : BitVec 4) (i : BitVec 1) : Encodes.Statement (.add d a b p i) := by
  refine Encodes.ofPlain (fun xb hu => ?_) rfl
  have hf : Fits [(4, 0x0), (6, 0x1), (5, d.toNat), (5, a.toNat), (5, b.toNat), (4, p.toNat), (2, 0x0), (1, i.toNat)] :=
    ⟨by decide, by decide, d.isLt, a.isLt, b.isLt, p.isLt, by decide, i.isLt, trivial⟩
  have he := word_pack _ rfl hf
  generalize word [(4, 0x0), (6, 0x1), (5, d.toNat), (5, a.toNat), (5, b.toNat), (4, p.toNat), (2, 0x0), (1, i.toNat)] = wd at *
  have q0 : fld wd 17 5 = d := fld_eq (part [_, _] he hf rfl rfl)
  have q1 : fld wd 12 5 = a := fld_eq (part [_, _, _] he hf rfl rfl)
  have q2 : fld wd 7 5 = b := fld_eq (part [_, _, _, _] he hf rfl rfl)
  have q3 : fld wd 3 4 = p := fld_eq (part [_, _, _, _, _] he hf rfl rfl)
  have q4 : fld wd 0 1 = i := fld_eq (part [_, _, _, _, _, _, _] he hf rfl rfl)
  have hc : readSlot xb wd = readScal 0x1 xb wd := slot_scal (classOf he hf rfl) (part [_] he hf rfl rfl)
  have g0 : wd.toNat / 2 ^ 1 % 2 ^ 2 = 0x0 := part [_, _, _, _, _, _] he hf rfl rfl
  rw [hc, read_add, plain_eq hu, fixed_cons g0, fixed_nil, q0, q1, q2, q3, q4]

theorem read_sub (xb : Ext) (wd : BitVec 32) : readScal 0x2 xb wd =
    plain xb wd [(1, 2, 0x0, 3)] (.sub (fld wd 17 5) (fld wd 12 5) (fld wd 7 5) (fld wd 3 4) (fld wd 0 1)) := rfl

theorem Encodes.sub (d a b : BitVec 5) (p : BitVec 4) (i : BitVec 1) : Encodes.Statement (.sub d a b p i) := by
  refine Encodes.ofPlain (fun xb hu => ?_) rfl
  have hf : Fits [(4, 0x0), (6, 0x2), (5, d.toNat), (5, a.toNat), (5, b.toNat), (4, p.toNat), (2, 0x0), (1, i.toNat)] :=
    ⟨by decide, by decide, d.isLt, a.isLt, b.isLt, p.isLt, by decide, i.isLt, trivial⟩
  have he := word_pack _ rfl hf
  generalize word [(4, 0x0), (6, 0x2), (5, d.toNat), (5, a.toNat), (5, b.toNat), (4, p.toNat), (2, 0x0), (1, i.toNat)] = wd at *
  have q0 : fld wd 17 5 = d := fld_eq (part [_, _] he hf rfl rfl)
  have q1 : fld wd 12 5 = a := fld_eq (part [_, _, _] he hf rfl rfl)
  have q2 : fld wd 7 5 = b := fld_eq (part [_, _, _, _] he hf rfl rfl)
  have q3 : fld wd 3 4 = p := fld_eq (part [_, _, _, _, _] he hf rfl rfl)
  have q4 : fld wd 0 1 = i := fld_eq (part [_, _, _, _, _, _, _] he hf rfl rfl)
  have hc : readSlot xb wd = readScal 0x2 xb wd := slot_scal (classOf he hf rfl) (part [_] he hf rfl rfl)
  have g0 : wd.toNat / 2 ^ 1 % 2 ^ 2 = 0x0 := part [_, _, _, _, _, _] he hf rfl rfl
  rw [hc, read_sub, plain_eq hu, fixed_cons g0, fixed_nil, q0, q1, q2, q3, q4]

theorem read_addw (xb : Ext) (wd : BitVec 32) : readScal 0x3 xb wd =
    plain xb wd [(1, 2, 0x0, 3)] (.addw (fld wd 17 5) (fld wd 12 5) (fld wd 7 5) (fld wd 3 4) (fld wd 0 1)) := rfl

theorem Encodes.addw (d a b : BitVec 5) (p : BitVec 4) (i : BitVec 1) : Encodes.Statement (.addw d a b p i) := by
  refine Encodes.ofPlain (fun xb hu => ?_) rfl
  have hf : Fits [(4, 0x0), (6, 0x3), (5, d.toNat), (5, a.toNat), (5, b.toNat), (4, p.toNat), (2, 0x0), (1, i.toNat)] :=
    ⟨by decide, by decide, d.isLt, a.isLt, b.isLt, p.isLt, by decide, i.isLt, trivial⟩
  have he := word_pack _ rfl hf
  generalize word [(4, 0x0), (6, 0x3), (5, d.toNat), (5, a.toNat), (5, b.toNat), (4, p.toNat), (2, 0x0), (1, i.toNat)] = wd at *
  have q0 : fld wd 17 5 = d := fld_eq (part [_, _] he hf rfl rfl)
  have q1 : fld wd 12 5 = a := fld_eq (part [_, _, _] he hf rfl rfl)
  have q2 : fld wd 7 5 = b := fld_eq (part [_, _, _, _] he hf rfl rfl)
  have q3 : fld wd 3 4 = p := fld_eq (part [_, _, _, _, _] he hf rfl rfl)
  have q4 : fld wd 0 1 = i := fld_eq (part [_, _, _, _, _, _, _] he hf rfl rfl)
  have hc : readSlot xb wd = readScal 0x3 xb wd := slot_scal (classOf he hf rfl) (part [_] he hf rfl rfl)
  have g0 : wd.toNat / 2 ^ 1 % 2 ^ 2 = 0x0 := part [_, _, _, _, _, _] he hf rfl rfl
  rw [hc, read_addw, plain_eq hu, fixed_cons g0, fixed_nil, q0, q1, q2, q3, q4]

theorem read_subw (xb : Ext) (wd : BitVec 32) : readScal 0x4 xb wd =
    plain xb wd [(1, 2, 0x0, 3)] (.subw (fld wd 17 5) (fld wd 12 5) (fld wd 7 5) (fld wd 3 4) (fld wd 0 1)) := rfl

theorem Encodes.subw (d a b : BitVec 5) (p : BitVec 4) (i : BitVec 1) : Encodes.Statement (.subw d a b p i) := by
  refine Encodes.ofPlain (fun xb hu => ?_) rfl
  have hf : Fits [(4, 0x0), (6, 0x4), (5, d.toNat), (5, a.toNat), (5, b.toNat), (4, p.toNat), (2, 0x0), (1, i.toNat)] :=
    ⟨by decide, by decide, d.isLt, a.isLt, b.isLt, p.isLt, by decide, i.isLt, trivial⟩
  have he := word_pack _ rfl hf
  generalize word [(4, 0x0), (6, 0x4), (5, d.toNat), (5, a.toNat), (5, b.toNat), (4, p.toNat), (2, 0x0), (1, i.toNat)] = wd at *
  have q0 : fld wd 17 5 = d := fld_eq (part [_, _] he hf rfl rfl)
  have q1 : fld wd 12 5 = a := fld_eq (part [_, _, _] he hf rfl rfl)
  have q2 : fld wd 7 5 = b := fld_eq (part [_, _, _, _] he hf rfl rfl)
  have q3 : fld wd 3 4 = p := fld_eq (part [_, _, _, _, _] he hf rfl rfl)
  have q4 : fld wd 0 1 = i := fld_eq (part [_, _, _, _, _, _, _] he hf rfl rfl)
  have hc : readSlot xb wd = readScal 0x4 xb wd := slot_scal (classOf he hf rfl) (part [_] he hf rfl rfl)
  have g0 : wd.toNat / 2 ^ 1 % 2 ^ 2 = 0x0 := part [_, _, _, _, _, _] he hf rfl rfl
  rw [hc, read_subw, plain_eq hu, fixed_cons g0, fixed_nil, q0, q1, q2, q3, q4]

theorem read_mul (xb : Ext) (wd : BitVec 32) : readScal 0x5 xb wd =
    plain xb wd [(1, 2, 0x0, 3)] (.mul (fld wd 17 5) (fld wd 12 5) (fld wd 7 5) (fld wd 3 4) (fld wd 0 1)) := rfl

theorem Encodes.mul (d a b : BitVec 5) (p : BitVec 4) (i : BitVec 1) : Encodes.Statement (.mul d a b p i) := by
  refine Encodes.ofPlain (fun xb hu => ?_) rfl
  have hf : Fits [(4, 0x0), (6, 0x5), (5, d.toNat), (5, a.toNat), (5, b.toNat), (4, p.toNat), (2, 0x0), (1, i.toNat)] :=
    ⟨by decide, by decide, d.isLt, a.isLt, b.isLt, p.isLt, by decide, i.isLt, trivial⟩
  have he := word_pack _ rfl hf
  generalize word [(4, 0x0), (6, 0x5), (5, d.toNat), (5, a.toNat), (5, b.toNat), (4, p.toNat), (2, 0x0), (1, i.toNat)] = wd at *
  have q0 : fld wd 17 5 = d := fld_eq (part [_, _] he hf rfl rfl)
  have q1 : fld wd 12 5 = a := fld_eq (part [_, _, _] he hf rfl rfl)
  have q2 : fld wd 7 5 = b := fld_eq (part [_, _, _, _] he hf rfl rfl)
  have q3 : fld wd 3 4 = p := fld_eq (part [_, _, _, _, _] he hf rfl rfl)
  have q4 : fld wd 0 1 = i := fld_eq (part [_, _, _, _, _, _, _] he hf rfl rfl)
  have hc : readSlot xb wd = readScal 0x5 xb wd := slot_scal (classOf he hf rfl) (part [_] he hf rfl rfl)
  have g0 : wd.toNat / 2 ^ 1 % 2 ^ 2 = 0x0 := part [_, _, _, _, _, _] he hf rfl rfl
  rw [hc, read_mul, plain_eq hu, fixed_cons g0, fixed_nil, q0, q1, q2, q3, q4]

theorem read_mulh (xb : Ext) (wd : BitVec 32) : readScal 0x6 xb wd =
    plain xb wd [(1, 2, 0x0, 3)] (.mulh (fld wd 17 5) (fld wd 12 5) (fld wd 7 5) (fld wd 3 4) (fld wd 0 1)) := rfl

theorem Encodes.mulh (d a b : BitVec 5) (p : BitVec 4) (i : BitVec 1) : Encodes.Statement (.mulh d a b p i) := by
  refine Encodes.ofPlain (fun xb hu => ?_) rfl
  have hf : Fits [(4, 0x0), (6, 0x6), (5, d.toNat), (5, a.toNat), (5, b.toNat), (4, p.toNat), (2, 0x0), (1, i.toNat)] :=
    ⟨by decide, by decide, d.isLt, a.isLt, b.isLt, p.isLt, by decide, i.isLt, trivial⟩
  have he := word_pack _ rfl hf
  generalize word [(4, 0x0), (6, 0x6), (5, d.toNat), (5, a.toNat), (5, b.toNat), (4, p.toNat), (2, 0x0), (1, i.toNat)] = wd at *
  have q0 : fld wd 17 5 = d := fld_eq (part [_, _] he hf rfl rfl)
  have q1 : fld wd 12 5 = a := fld_eq (part [_, _, _] he hf rfl rfl)
  have q2 : fld wd 7 5 = b := fld_eq (part [_, _, _, _] he hf rfl rfl)
  have q3 : fld wd 3 4 = p := fld_eq (part [_, _, _, _, _] he hf rfl rfl)
  have q4 : fld wd 0 1 = i := fld_eq (part [_, _, _, _, _, _, _] he hf rfl rfl)
  have hc : readSlot xb wd = readScal 0x6 xb wd := slot_scal (classOf he hf rfl) (part [_] he hf rfl rfl)
  have g0 : wd.toNat / 2 ^ 1 % 2 ^ 2 = 0x0 := part [_, _, _, _, _, _] he hf rfl rfl
  rw [hc, read_mulh, plain_eq hu, fixed_cons g0, fixed_nil, q0, q1, q2, q3, q4]

theorem read_mulhu (xb : Ext) (wd : BitVec 32) : readScal 0x7 xb wd =
    plain xb wd [(1, 2, 0x0, 3)] (.mulhu (fld wd 17 5) (fld wd 12 5) (fld wd 7 5) (fld wd 3 4) (fld wd 0 1)) := rfl

theorem Encodes.mulhu (d a b : BitVec 5) (p : BitVec 4) (i : BitVec 1) : Encodes.Statement (.mulhu d a b p i) := by
  refine Encodes.ofPlain (fun xb hu => ?_) rfl
  have hf : Fits [(4, 0x0), (6, 0x7), (5, d.toNat), (5, a.toNat), (5, b.toNat), (4, p.toNat), (2, 0x0), (1, i.toNat)] :=
    ⟨by decide, by decide, d.isLt, a.isLt, b.isLt, p.isLt, by decide, i.isLt, trivial⟩
  have he := word_pack _ rfl hf
  generalize word [(4, 0x0), (6, 0x7), (5, d.toNat), (5, a.toNat), (5, b.toNat), (4, p.toNat), (2, 0x0), (1, i.toNat)] = wd at *
  have q0 : fld wd 17 5 = d := fld_eq (part [_, _] he hf rfl rfl)
  have q1 : fld wd 12 5 = a := fld_eq (part [_, _, _] he hf rfl rfl)
  have q2 : fld wd 7 5 = b := fld_eq (part [_, _, _, _] he hf rfl rfl)
  have q3 : fld wd 3 4 = p := fld_eq (part [_, _, _, _, _] he hf rfl rfl)
  have q4 : fld wd 0 1 = i := fld_eq (part [_, _, _, _, _, _, _] he hf rfl rfl)
  have hc : readSlot xb wd = readScal 0x7 xb wd := slot_scal (classOf he hf rfl) (part [_] he hf rfl rfl)
  have g0 : wd.toNat / 2 ^ 1 % 2 ^ 2 = 0x0 := part [_, _, _, _, _, _] he hf rfl rfl
  rw [hc, read_mulhu, plain_eq hu, fixed_cons g0, fixed_nil, q0, q1, q2, q3, q4]

theorem read_div (xb : Ext) (wd : BitVec 32) : readScal 0x8 xb wd =
    plain xb wd [(1, 2, 0x0, 3)] (.div (fld wd 17 5) (fld wd 12 5) (fld wd 7 5) (fld wd 3 4) (fld wd 0 1)) := rfl

theorem Encodes.div (d a b : BitVec 5) (p : BitVec 4) (i : BitVec 1) : Encodes.Statement (.div d a b p i) := by
  refine Encodes.ofPlain (fun xb hu => ?_) rfl
  have hf : Fits [(4, 0x0), (6, 0x8), (5, d.toNat), (5, a.toNat), (5, b.toNat), (4, p.toNat), (2, 0x0), (1, i.toNat)] :=
    ⟨by decide, by decide, d.isLt, a.isLt, b.isLt, p.isLt, by decide, i.isLt, trivial⟩
  have he := word_pack _ rfl hf
  generalize word [(4, 0x0), (6, 0x8), (5, d.toNat), (5, a.toNat), (5, b.toNat), (4, p.toNat), (2, 0x0), (1, i.toNat)] = wd at *
  have q0 : fld wd 17 5 = d := fld_eq (part [_, _] he hf rfl rfl)
  have q1 : fld wd 12 5 = a := fld_eq (part [_, _, _] he hf rfl rfl)
  have q2 : fld wd 7 5 = b := fld_eq (part [_, _, _, _] he hf rfl rfl)
  have q3 : fld wd 3 4 = p := fld_eq (part [_, _, _, _, _] he hf rfl rfl)
  have q4 : fld wd 0 1 = i := fld_eq (part [_, _, _, _, _, _, _] he hf rfl rfl)
  have hc : readSlot xb wd = readScal 0x8 xb wd := slot_scal (classOf he hf rfl) (part [_] he hf rfl rfl)
  have g0 : wd.toNat / 2 ^ 1 % 2 ^ 2 = 0x0 := part [_, _, _, _, _, _] he hf rfl rfl
  rw [hc, read_div, plain_eq hu, fixed_cons g0, fixed_nil, q0, q1, q2, q3, q4]

theorem read_divu (xb : Ext) (wd : BitVec 32) : readScal 0x9 xb wd =
    plain xb wd [(1, 2, 0x0, 3)] (.divu (fld wd 17 5) (fld wd 12 5) (fld wd 7 5) (fld wd 3 4) (fld wd 0 1)) := rfl

theorem Encodes.divu (d a b : BitVec 5) (p : BitVec 4) (i : BitVec 1) : Encodes.Statement (.divu d a b p i) := by
  refine Encodes.ofPlain (fun xb hu => ?_) rfl
  have hf : Fits [(4, 0x0), (6, 0x9), (5, d.toNat), (5, a.toNat), (5, b.toNat), (4, p.toNat), (2, 0x0), (1, i.toNat)] :=
    ⟨by decide, by decide, d.isLt, a.isLt, b.isLt, p.isLt, by decide, i.isLt, trivial⟩
  have he := word_pack _ rfl hf
  generalize word [(4, 0x0), (6, 0x9), (5, d.toNat), (5, a.toNat), (5, b.toNat), (4, p.toNat), (2, 0x0), (1, i.toNat)] = wd at *
  have q0 : fld wd 17 5 = d := fld_eq (part [_, _] he hf rfl rfl)
  have q1 : fld wd 12 5 = a := fld_eq (part [_, _, _] he hf rfl rfl)
  have q2 : fld wd 7 5 = b := fld_eq (part [_, _, _, _] he hf rfl rfl)
  have q3 : fld wd 3 4 = p := fld_eq (part [_, _, _, _, _] he hf rfl rfl)
  have q4 : fld wd 0 1 = i := fld_eq (part [_, _, _, _, _, _, _] he hf rfl rfl)
  have hc : readSlot xb wd = readScal 0x9 xb wd := slot_scal (classOf he hf rfl) (part [_] he hf rfl rfl)
  have g0 : wd.toNat / 2 ^ 1 % 2 ^ 2 = 0x0 := part [_, _, _, _, _, _] he hf rfl rfl
  rw [hc, read_divu, plain_eq hu, fixed_cons g0, fixed_nil, q0, q1, q2, q3, q4]

theorem read_rem (xb : Ext) (wd : BitVec 32) : readScal 0xA xb wd =
    plain xb wd [(1, 2, 0x0, 3)] (.rem (fld wd 17 5) (fld wd 12 5) (fld wd 7 5) (fld wd 3 4) (fld wd 0 1)) := rfl

theorem Encodes.rem (d a b : BitVec 5) (p : BitVec 4) (i : BitVec 1) : Encodes.Statement (.rem d a b p i) := by
  refine Encodes.ofPlain (fun xb hu => ?_) rfl
  have hf : Fits [(4, 0x0), (6, 0xA), (5, d.toNat), (5, a.toNat), (5, b.toNat), (4, p.toNat), (2, 0x0), (1, i.toNat)] :=
    ⟨by decide, by decide, d.isLt, a.isLt, b.isLt, p.isLt, by decide, i.isLt, trivial⟩
  have he := word_pack _ rfl hf
  generalize word [(4, 0x0), (6, 0xA), (5, d.toNat), (5, a.toNat), (5, b.toNat), (4, p.toNat), (2, 0x0), (1, i.toNat)] = wd at *
  have q0 : fld wd 17 5 = d := fld_eq (part [_, _] he hf rfl rfl)
  have q1 : fld wd 12 5 = a := fld_eq (part [_, _, _] he hf rfl rfl)
  have q2 : fld wd 7 5 = b := fld_eq (part [_, _, _, _] he hf rfl rfl)
  have q3 : fld wd 3 4 = p := fld_eq (part [_, _, _, _, _] he hf rfl rfl)
  have q4 : fld wd 0 1 = i := fld_eq (part [_, _, _, _, _, _, _] he hf rfl rfl)
  have hc : readSlot xb wd = readScal 0xA xb wd := slot_scal (classOf he hf rfl) (part [_] he hf rfl rfl)
  have g0 : wd.toNat / 2 ^ 1 % 2 ^ 2 = 0x0 := part [_, _, _, _, _, _] he hf rfl rfl
  rw [hc, read_rem, plain_eq hu, fixed_cons g0, fixed_nil, q0, q1, q2, q3, q4]

theorem read_remu (xb : Ext) (wd : BitVec 32) : readScal 0xB xb wd =
    plain xb wd [(1, 2, 0x0, 3)] (.remu (fld wd 17 5) (fld wd 12 5) (fld wd 7 5) (fld wd 3 4) (fld wd 0 1)) := rfl

theorem Encodes.remu (d a b : BitVec 5) (p : BitVec 4) (i : BitVec 1) : Encodes.Statement (.remu d a b p i) := by
  refine Encodes.ofPlain (fun xb hu => ?_) rfl
  have hf : Fits [(4, 0x0), (6, 0xB), (5, d.toNat), (5, a.toNat), (5, b.toNat), (4, p.toNat), (2, 0x0), (1, i.toNat)] :=
    ⟨by decide, by decide, d.isLt, a.isLt, b.isLt, p.isLt, by decide, i.isLt, trivial⟩
  have he := word_pack _ rfl hf
  generalize word [(4, 0x0), (6, 0xB), (5, d.toNat), (5, a.toNat), (5, b.toNat), (4, p.toNat), (2, 0x0), (1, i.toNat)] = wd at *
  have q0 : fld wd 17 5 = d := fld_eq (part [_, _] he hf rfl rfl)
  have q1 : fld wd 12 5 = a := fld_eq (part [_, _, _] he hf rfl rfl)
  have q2 : fld wd 7 5 = b := fld_eq (part [_, _, _, _] he hf rfl rfl)
  have q3 : fld wd 3 4 = p := fld_eq (part [_, _, _, _, _] he hf rfl rfl)
  have q4 : fld wd 0 1 = i := fld_eq (part [_, _, _, _, _, _, _] he hf rfl rfl)
  have hc : readSlot xb wd = readScal 0xB xb wd := slot_scal (classOf he hf rfl) (part [_] he hf rfl rfl)
  have g0 : wd.toNat / 2 ^ 1 % 2 ^ 2 = 0x0 := part [_, _, _, _, _, _] he hf rfl rfl
  rw [hc, read_remu, plain_eq hu, fixed_cons g0, fixed_nil, q0, q1, q2, q3, q4]

theorem read_and (xb : Ext) (wd : BitVec 32) : readScal 0xC xb wd =
    plain xb wd [(1, 2, 0x0, 3)] (.and (fld wd 17 5) (fld wd 12 5) (fld wd 7 5) (fld wd 3 4) (fld wd 0 1)) := rfl

theorem Encodes.and (d a b : BitVec 5) (p : BitVec 4) (i : BitVec 1) : Encodes.Statement (.and d a b p i) := by
  refine Encodes.ofPlain (fun xb hu => ?_) rfl
  have hf : Fits [(4, 0x0), (6, 0xC), (5, d.toNat), (5, a.toNat), (5, b.toNat), (4, p.toNat), (2, 0x0), (1, i.toNat)] :=
    ⟨by decide, by decide, d.isLt, a.isLt, b.isLt, p.isLt, by decide, i.isLt, trivial⟩
  have he := word_pack _ rfl hf
  generalize word [(4, 0x0), (6, 0xC), (5, d.toNat), (5, a.toNat), (5, b.toNat), (4, p.toNat), (2, 0x0), (1, i.toNat)] = wd at *
  have q0 : fld wd 17 5 = d := fld_eq (part [_, _] he hf rfl rfl)
  have q1 : fld wd 12 5 = a := fld_eq (part [_, _, _] he hf rfl rfl)
  have q2 : fld wd 7 5 = b := fld_eq (part [_, _, _, _] he hf rfl rfl)
  have q3 : fld wd 3 4 = p := fld_eq (part [_, _, _, _, _] he hf rfl rfl)
  have q4 : fld wd 0 1 = i := fld_eq (part [_, _, _, _, _, _, _] he hf rfl rfl)
  have hc : readSlot xb wd = readScal 0xC xb wd := slot_scal (classOf he hf rfl) (part [_] he hf rfl rfl)
  have g0 : wd.toNat / 2 ^ 1 % 2 ^ 2 = 0x0 := part [_, _, _, _, _, _] he hf rfl rfl
  rw [hc, read_and, plain_eq hu, fixed_cons g0, fixed_nil, q0, q1, q2, q3, q4]

theorem read_or (xb : Ext) (wd : BitVec 32) : readScal 0xD xb wd =
    plain xb wd [(1, 2, 0x0, 3)] (.or (fld wd 17 5) (fld wd 12 5) (fld wd 7 5) (fld wd 3 4) (fld wd 0 1)) := rfl

theorem Encodes.or (d a b : BitVec 5) (p : BitVec 4) (i : BitVec 1) : Encodes.Statement (.or d a b p i) := by
  refine Encodes.ofPlain (fun xb hu => ?_) rfl
  have hf : Fits [(4, 0x0), (6, 0xD), (5, d.toNat), (5, a.toNat), (5, b.toNat), (4, p.toNat), (2, 0x0), (1, i.toNat)] :=
    ⟨by decide, by decide, d.isLt, a.isLt, b.isLt, p.isLt, by decide, i.isLt, trivial⟩
  have he := word_pack _ rfl hf
  generalize word [(4, 0x0), (6, 0xD), (5, d.toNat), (5, a.toNat), (5, b.toNat), (4, p.toNat), (2, 0x0), (1, i.toNat)] = wd at *
  have q0 : fld wd 17 5 = d := fld_eq (part [_, _] he hf rfl rfl)
  have q1 : fld wd 12 5 = a := fld_eq (part [_, _, _] he hf rfl rfl)
  have q2 : fld wd 7 5 = b := fld_eq (part [_, _, _, _] he hf rfl rfl)
  have q3 : fld wd 3 4 = p := fld_eq (part [_, _, _, _, _] he hf rfl rfl)
  have q4 : fld wd 0 1 = i := fld_eq (part [_, _, _, _, _, _, _] he hf rfl rfl)
  have hc : readSlot xb wd = readScal 0xD xb wd := slot_scal (classOf he hf rfl) (part [_] he hf rfl rfl)
  have g0 : wd.toNat / 2 ^ 1 % 2 ^ 2 = 0x0 := part [_, _, _, _, _, _] he hf rfl rfl
  rw [hc, read_or, plain_eq hu, fixed_cons g0, fixed_nil, q0, q1, q2, q3, q4]

theorem read_xor (xb : Ext) (wd : BitVec 32) : readScal 0xE xb wd =
    plain xb wd [(1, 2, 0x0, 3)] (.xor (fld wd 17 5) (fld wd 12 5) (fld wd 7 5) (fld wd 3 4) (fld wd 0 1)) := rfl

theorem Encodes.xor (d a b : BitVec 5) (p : BitVec 4) (i : BitVec 1) : Encodes.Statement (.xor d a b p i) := by
  refine Encodes.ofPlain (fun xb hu => ?_) rfl
  have hf : Fits [(4, 0x0), (6, 0xE), (5, d.toNat), (5, a.toNat), (5, b.toNat), (4, p.toNat), (2, 0x0), (1, i.toNat)] :=
    ⟨by decide, by decide, d.isLt, a.isLt, b.isLt, p.isLt, by decide, i.isLt, trivial⟩
  have he := word_pack _ rfl hf
  generalize word [(4, 0x0), (6, 0xE), (5, d.toNat), (5, a.toNat), (5, b.toNat), (4, p.toNat), (2, 0x0), (1, i.toNat)] = wd at *
  have q0 : fld wd 17 5 = d := fld_eq (part [_, _] he hf rfl rfl)
  have q1 : fld wd 12 5 = a := fld_eq (part [_, _, _] he hf rfl rfl)
  have q2 : fld wd 7 5 = b := fld_eq (part [_, _, _, _] he hf rfl rfl)
  have q3 : fld wd 3 4 = p := fld_eq (part [_, _, _, _, _] he hf rfl rfl)
  have q4 : fld wd 0 1 = i := fld_eq (part [_, _, _, _, _, _, _] he hf rfl rfl)
  have hc : readSlot xb wd = readScal 0xE xb wd := slot_scal (classOf he hf rfl) (part [_] he hf rfl rfl)
  have g0 : wd.toNat / 2 ^ 1 % 2 ^ 2 = 0x0 := part [_, _, _, _, _, _] he hf rfl rfl
  rw [hc, read_xor, plain_eq hu, fixed_cons g0, fixed_nil, q0, q1, q2, q3, q4]

theorem read_andn (xb : Ext) (wd : BitVec 32) : readScal 0xF xb wd =
    plain xb wd [(1, 2, 0x0, 3)] (.andn (fld wd 17 5) (fld wd 12 5) (fld wd 7 5) (fld wd 3 4) (fld wd 0 1)) := rfl

theorem Encodes.andn (d a b : BitVec 5) (p : BitVec 4) (i : BitVec 1) : Encodes.Statement (.andn d a b p i) := by
  refine Encodes.ofPlain (fun xb hu => ?_) rfl
  have hf : Fits [(4, 0x0), (6, 0xF), (5, d.toNat), (5, a.toNat), (5, b.toNat), (4, p.toNat), (2, 0x0), (1, i.toNat)] :=
    ⟨by decide, by decide, d.isLt, a.isLt, b.isLt, p.isLt, by decide, i.isLt, trivial⟩
  have he := word_pack _ rfl hf
  generalize word [(4, 0x0), (6, 0xF), (5, d.toNat), (5, a.toNat), (5, b.toNat), (4, p.toNat), (2, 0x0), (1, i.toNat)] = wd at *
  have q0 : fld wd 17 5 = d := fld_eq (part [_, _] he hf rfl rfl)
  have q1 : fld wd 12 5 = a := fld_eq (part [_, _, _] he hf rfl rfl)
  have q2 : fld wd 7 5 = b := fld_eq (part [_, _, _, _] he hf rfl rfl)
  have q3 : fld wd 3 4 = p := fld_eq (part [_, _, _, _, _] he hf rfl rfl)
  have q4 : fld wd 0 1 = i := fld_eq (part [_, _, _, _, _, _, _] he hf rfl rfl)
  have hc : readSlot xb wd = readScal 0xF xb wd := slot_scal (classOf he hf rfl) (part [_] he hf rfl rfl)
  have g0 : wd.toNat / 2 ^ 1 % 2 ^ 2 = 0x0 := part [_, _, _, _, _, _] he hf rfl rfl
  rw [hc, read_andn, plain_eq hu, fixed_cons g0, fixed_nil, q0, q1, q2, q3, q4]

theorem read_shl (xb : Ext) (wd : BitVec 32) : readScal 0x10 xb wd =
    plain xb wd [(1, 2, 0x0, 3)] (.shl (fld wd 17 5) (fld wd 12 5) (fld wd 7 5) (fld wd 3 4) (fld wd 0 1)) := rfl

theorem Encodes.shl (d a b : BitVec 5) (p : BitVec 4) (i : BitVec 1) : Encodes.Statement (.shl d a b p i) := by
  refine Encodes.ofPlain (fun xb hu => ?_) rfl
  have hf : Fits [(4, 0x0), (6, 0x10), (5, d.toNat), (5, a.toNat), (5, b.toNat), (4, p.toNat), (2, 0x0), (1, i.toNat)] :=
    ⟨by decide, by decide, d.isLt, a.isLt, b.isLt, p.isLt, by decide, i.isLt, trivial⟩
  have he := word_pack _ rfl hf
  generalize word [(4, 0x0), (6, 0x10), (5, d.toNat), (5, a.toNat), (5, b.toNat), (4, p.toNat), (2, 0x0), (1, i.toNat)] = wd at *
  have q0 : fld wd 17 5 = d := fld_eq (part [_, _] he hf rfl rfl)
  have q1 : fld wd 12 5 = a := fld_eq (part [_, _, _] he hf rfl rfl)
  have q2 : fld wd 7 5 = b := fld_eq (part [_, _, _, _] he hf rfl rfl)
  have q3 : fld wd 3 4 = p := fld_eq (part [_, _, _, _, _] he hf rfl rfl)
  have q4 : fld wd 0 1 = i := fld_eq (part [_, _, _, _, _, _, _] he hf rfl rfl)
  have hc : readSlot xb wd = readScal 0x10 xb wd := slot_scal (classOf he hf rfl) (part [_] he hf rfl rfl)
  have g0 : wd.toNat / 2 ^ 1 % 2 ^ 2 = 0x0 := part [_, _, _, _, _, _] he hf rfl rfl
  rw [hc, read_shl, plain_eq hu, fixed_cons g0, fixed_nil, q0, q1, q2, q3, q4]

theorem read_shr (xb : Ext) (wd : BitVec 32) : readScal 0x11 xb wd =
    plain xb wd [(1, 2, 0x0, 3)] (.shr (fld wd 17 5) (fld wd 12 5) (fld wd 7 5) (fld wd 3 4) (fld wd 0 1)) := rfl

theorem Encodes.shr (d a b : BitVec 5) (p : BitVec 4) (i : BitVec 1) : Encodes.Statement (.shr d a b p i) := by
  refine Encodes.ofPlain (fun xb hu => ?_) rfl
  have hf : Fits [(4, 0x0), (6, 0x11), (5, d.toNat), (5, a.toNat), (5, b.toNat), (4, p.toNat), (2, 0x0), (1, i.toNat)] :=
    ⟨by decide, by decide, d.isLt, a.isLt, b.isLt, p.isLt, by decide, i.isLt, trivial⟩
  have he := word_pack _ rfl hf
  generalize word [(4, 0x0), (6, 0x11), (5, d.toNat), (5, a.toNat), (5, b.toNat), (4, p.toNat), (2, 0x0), (1, i.toNat)] = wd at *
  have q0 : fld wd 17 5 = d := fld_eq (part [_, _] he hf rfl rfl)
  have q1 : fld wd 12 5 = a := fld_eq (part [_, _, _] he hf rfl rfl)
  have q2 : fld wd 7 5 = b := fld_eq (part [_, _, _, _] he hf rfl rfl)
  have q3 : fld wd 3 4 = p := fld_eq (part [_, _, _, _, _] he hf rfl rfl)
  have q4 : fld wd 0 1 = i := fld_eq (part [_, _, _, _, _, _, _] he hf rfl rfl)
  have hc : readSlot xb wd = readScal 0x11 xb wd := slot_scal (classOf he hf rfl) (part [_] he hf rfl rfl)
  have g0 : wd.toNat / 2 ^ 1 % 2 ^ 2 = 0x0 := part [_, _, _, _, _, _] he hf rfl rfl
  rw [hc, read_shr, plain_eq hu, fixed_cons g0, fixed_nil, q0, q1, q2, q3, q4]

theorem read_sra (xb : Ext) (wd : BitVec 32) : readScal 0x12 xb wd =
    plain xb wd [(1, 2, 0x0, 3)] (.sra (fld wd 17 5) (fld wd 12 5) (fld wd 7 5) (fld wd 3 4) (fld wd 0 1)) := rfl

theorem Encodes.sra (d a b : BitVec 5) (p : BitVec 4) (i : BitVec 1) : Encodes.Statement (.sra d a b p i) := by
  refine Encodes.ofPlain (fun xb hu => ?_) rfl
  have hf : Fits [(4, 0x0), (6, 0x12), (5, d.toNat), (5, a.toNat), (5, b.toNat), (4, p.toNat), (2, 0x0), (1, i.toNat)] :=
    ⟨by decide, by decide, d.isLt, a.isLt, b.isLt, p.isLt, by decide, i.isLt, trivial⟩
  have he := word_pack _ rfl hf
  generalize word [(4, 0x0), (6, 0x12), (5, d.toNat), (5, a.toNat), (5, b.toNat), (4, p.toNat), (2, 0x0), (1, i.toNat)] = wd at *
  have q0 : fld wd 17 5 = d := fld_eq (part [_, _] he hf rfl rfl)
  have q1 : fld wd 12 5 = a := fld_eq (part [_, _, _] he hf rfl rfl)
  have q2 : fld wd 7 5 = b := fld_eq (part [_, _, _, _] he hf rfl rfl)
  have q3 : fld wd 3 4 = p := fld_eq (part [_, _, _, _, _] he hf rfl rfl)
  have q4 : fld wd 0 1 = i := fld_eq (part [_, _, _, _, _, _, _] he hf rfl rfl)
  have hc : readSlot xb wd = readScal 0x12 xb wd := slot_scal (classOf he hf rfl) (part [_] he hf rfl rfl)
  have g0 : wd.toNat / 2 ^ 1 % 2 ^ 2 = 0x0 := part [_, _, _, _, _, _] he hf rfl rfl
  rw [hc, read_sra, plain_eq hu, fixed_cons g0, fixed_nil, q0, q1, q2, q3, q4]

theorem read_min (xb : Ext) (wd : BitVec 32) : readScal 0x13 xb wd =
    plain xb wd [(1, 2, 0x0, 3)] (.min (fld wd 17 5) (fld wd 12 5) (fld wd 7 5) (fld wd 3 4) (fld wd 0 1)) := rfl

theorem Encodes.min (d a b : BitVec 5) (p : BitVec 4) (i : BitVec 1) : Encodes.Statement (.min d a b p i) := by
  refine Encodes.ofPlain (fun xb hu => ?_) rfl
  have hf : Fits [(4, 0x0), (6, 0x13), (5, d.toNat), (5, a.toNat), (5, b.toNat), (4, p.toNat), (2, 0x0), (1, i.toNat)] :=
    ⟨by decide, by decide, d.isLt, a.isLt, b.isLt, p.isLt, by decide, i.isLt, trivial⟩
  have he := word_pack _ rfl hf
  generalize word [(4, 0x0), (6, 0x13), (5, d.toNat), (5, a.toNat), (5, b.toNat), (4, p.toNat), (2, 0x0), (1, i.toNat)] = wd at *
  have q0 : fld wd 17 5 = d := fld_eq (part [_, _] he hf rfl rfl)
  have q1 : fld wd 12 5 = a := fld_eq (part [_, _, _] he hf rfl rfl)
  have q2 : fld wd 7 5 = b := fld_eq (part [_, _, _, _] he hf rfl rfl)
  have q3 : fld wd 3 4 = p := fld_eq (part [_, _, _, _, _] he hf rfl rfl)
  have q4 : fld wd 0 1 = i := fld_eq (part [_, _, _, _, _, _, _] he hf rfl rfl)
  have hc : readSlot xb wd = readScal 0x13 xb wd := slot_scal (classOf he hf rfl) (part [_] he hf rfl rfl)
  have g0 : wd.toNat / 2 ^ 1 % 2 ^ 2 = 0x0 := part [_, _, _, _, _, _] he hf rfl rfl
  rw [hc, read_min, plain_eq hu, fixed_cons g0, fixed_nil, q0, q1, q2, q3, q4]

theorem read_max (xb : Ext) (wd : BitVec 32) : readScal 0x14 xb wd =
    plain xb wd [(1, 2, 0x0, 3)] (.max (fld wd 17 5) (fld wd 12 5) (fld wd 7 5) (fld wd 3 4) (fld wd 0 1)) := rfl

theorem Encodes.max (d a b : BitVec 5) (p : BitVec 4) (i : BitVec 1) : Encodes.Statement (.max d a b p i) := by
  refine Encodes.ofPlain (fun xb hu => ?_) rfl
  have hf : Fits [(4, 0x0), (6, 0x14), (5, d.toNat), (5, a.toNat), (5, b.toNat), (4, p.toNat), (2, 0x0), (1, i.toNat)] :=
    ⟨by decide, by decide, d.isLt, a.isLt, b.isLt, p.isLt, by decide, i.isLt, trivial⟩
  have he := word_pack _ rfl hf
  generalize word [(4, 0x0), (6, 0x14), (5, d.toNat), (5, a.toNat), (5, b.toNat), (4, p.toNat), (2, 0x0), (1, i.toNat)] = wd at *
  have q0 : fld wd 17 5 = d := fld_eq (part [_, _] he hf rfl rfl)
  have q1 : fld wd 12 5 = a := fld_eq (part [_, _, _] he hf rfl rfl)
  have q2 : fld wd 7 5 = b := fld_eq (part [_, _, _, _] he hf rfl rfl)
  have q3 : fld wd 3 4 = p := fld_eq (part [_, _, _, _, _] he hf rfl rfl)
  have q4 : fld wd 0 1 = i := fld_eq (part [_, _, _, _, _, _, _] he hf rfl rfl)
  have hc : readSlot xb wd = readScal 0x14 xb wd := slot_scal (classOf he hf rfl) (part [_] he hf rfl rfl)
  have g0 : wd.toNat / 2 ^ 1 % 2 ^ 2 = 0x0 := part [_, _, _, _, _, _] he hf rfl rfl
  rw [hc, read_max, plain_eq hu, fixed_cons g0, fixed_nil, q0, q1, q2, q3, q4]

theorem read_minu (xb : Ext) (wd : BitVec 32) : readScal 0x15 xb wd =
    plain xb wd [(1, 2, 0x0, 3)] (.minu (fld wd 17 5) (fld wd 12 5) (fld wd 7 5) (fld wd 3 4) (fld wd 0 1)) := rfl

theorem Encodes.minu (d a b : BitVec 5) (p : BitVec 4) (i : BitVec 1) : Encodes.Statement (.minu d a b p i) := by
  refine Encodes.ofPlain (fun xb hu => ?_) rfl
  have hf : Fits [(4, 0x0), (6, 0x15), (5, d.toNat), (5, a.toNat), (5, b.toNat), (4, p.toNat), (2, 0x0), (1, i.toNat)] :=
    ⟨by decide, by decide, d.isLt, a.isLt, b.isLt, p.isLt, by decide, i.isLt, trivial⟩
  have he := word_pack _ rfl hf
  generalize word [(4, 0x0), (6, 0x15), (5, d.toNat), (5, a.toNat), (5, b.toNat), (4, p.toNat), (2, 0x0), (1, i.toNat)] = wd at *
  have q0 : fld wd 17 5 = d := fld_eq (part [_, _] he hf rfl rfl)
  have q1 : fld wd 12 5 = a := fld_eq (part [_, _, _] he hf rfl rfl)
  have q2 : fld wd 7 5 = b := fld_eq (part [_, _, _, _] he hf rfl rfl)
  have q3 : fld wd 3 4 = p := fld_eq (part [_, _, _, _, _] he hf rfl rfl)
  have q4 : fld wd 0 1 = i := fld_eq (part [_, _, _, _, _, _, _] he hf rfl rfl)
  have hc : readSlot xb wd = readScal 0x15 xb wd := slot_scal (classOf he hf rfl) (part [_] he hf rfl rfl)
  have g0 : wd.toNat / 2 ^ 1 % 2 ^ 2 = 0x0 := part [_, _, _, _, _, _] he hf rfl rfl
  rw [hc, read_minu, plain_eq hu, fixed_cons g0, fixed_nil, q0, q1, q2, q3, q4]

theorem read_maxu (xb : Ext) (wd : BitVec 32) : readScal 0x16 xb wd =
    plain xb wd [(1, 2, 0x0, 3)] (.maxu (fld wd 17 5) (fld wd 12 5) (fld wd 7 5) (fld wd 3 4) (fld wd 0 1)) := rfl

theorem Encodes.maxu (d a b : BitVec 5) (p : BitVec 4) (i : BitVec 1) : Encodes.Statement (.maxu d a b p i) := by
  refine Encodes.ofPlain (fun xb hu => ?_) rfl
  have hf : Fits [(4, 0x0), (6, 0x16), (5, d.toNat), (5, a.toNat), (5, b.toNat), (4, p.toNat), (2, 0x0), (1, i.toNat)] :=
    ⟨by decide, by decide, d.isLt, a.isLt, b.isLt, p.isLt, by decide, i.isLt, trivial⟩
  have he := word_pack _ rfl hf
  generalize word [(4, 0x0), (6, 0x16), (5, d.toNat), (5, a.toNat), (5, b.toNat), (4, p.toNat), (2, 0x0), (1, i.toNat)] = wd at *
  have q0 : fld wd 17 5 = d := fld_eq (part [_, _] he hf rfl rfl)
  have q1 : fld wd 12 5 = a := fld_eq (part [_, _, _] he hf rfl rfl)
  have q2 : fld wd 7 5 = b := fld_eq (part [_, _, _, _] he hf rfl rfl)
  have q3 : fld wd 3 4 = p := fld_eq (part [_, _, _, _, _] he hf rfl rfl)
  have q4 : fld wd 0 1 = i := fld_eq (part [_, _, _, _, _, _, _] he hf rfl rfl)
  have hc : readSlot xb wd = readScal 0x16 xb wd := slot_scal (classOf he hf rfl) (part [_] he hf rfl rfl)
  have g0 : wd.toNat / 2 ^ 1 % 2 ^ 2 = 0x0 := part [_, _, _, _, _, _] he hf rfl rfl
  rw [hc, read_maxu, plain_eq hu, fixed_cons g0, fixed_nil, q0, q1, q2, q3, q4]

theorem read_clz (xb : Ext) (wd : BitVec 32) : readScal 0x17 xb wd =
    plain xb wd [(1, 2, 0x0, 3), (7, 5, 0x0, 3)] (.clz (fld wd 17 5) (fld wd 12 5) (fld wd 3 4) (fld wd 0 1)) := rfl

theorem Encodes.clz (d a : BitVec 5) (p : BitVec 4) (i : BitVec 1) : Encodes.Statement (.clz d a p i) := by
  refine Encodes.ofPlain (fun xb hu => ?_) rfl
  have hf : Fits [(4, 0x0), (6, 0x17), (5, d.toNat), (5, a.toNat), (5, 0x0), (4, p.toNat), (2, 0x0), (1, i.toNat)] :=
    ⟨by decide, by decide, d.isLt, a.isLt, by decide, p.isLt, by decide, i.isLt, trivial⟩
  have he := word_pack _ rfl hf
  generalize word [(4, 0x0), (6, 0x17), (5, d.toNat), (5, a.toNat), (5, 0x0), (4, p.toNat), (2, 0x0), (1, i.toNat)] = wd at *
  have q0 : fld wd 17 5 = d := fld_eq (part [_, _] he hf rfl rfl)
  have q1 : fld wd 12 5 = a := fld_eq (part [_, _, _] he hf rfl rfl)
  have q2 : fld wd 3 4 = p := fld_eq (part [_, _, _, _, _] he hf rfl rfl)
  have q3 : fld wd 0 1 = i := fld_eq (part [_, _, _, _, _, _, _] he hf rfl rfl)
  have hc : readSlot xb wd = readScal 0x17 xb wd := slot_scal (classOf he hf rfl) (part [_] he hf rfl rfl)
  have g0 : wd.toNat / 2 ^ 1 % 2 ^ 2 = 0x0 := part [_, _, _, _, _, _] he hf rfl rfl
  have g1 : wd.toNat / 2 ^ 7 % 2 ^ 5 = 0x0 := part [_, _, _, _] he hf rfl rfl
  rw [hc, read_clz, plain_eq hu, fixed_cons g0, fixed_cons g1, fixed_nil, q0, q1, q2, q3]

theorem read_popc (xb : Ext) (wd : BitVec 32) : readScal 0x18 xb wd =
    plain xb wd [(1, 2, 0x0, 3), (7, 5, 0x0, 3)] (.popc (fld wd 17 5) (fld wd 12 5) (fld wd 3 4) (fld wd 0 1)) := rfl

theorem Encodes.popc (d a : BitVec 5) (p : BitVec 4) (i : BitVec 1) : Encodes.Statement (.popc d a p i) := by
  refine Encodes.ofPlain (fun xb hu => ?_) rfl
  have hf : Fits [(4, 0x0), (6, 0x18), (5, d.toNat), (5, a.toNat), (5, 0x0), (4, p.toNat), (2, 0x0), (1, i.toNat)] :=
    ⟨by decide, by decide, d.isLt, a.isLt, by decide, p.isLt, by decide, i.isLt, trivial⟩
  have he := word_pack _ rfl hf
  generalize word [(4, 0x0), (6, 0x18), (5, d.toNat), (5, a.toNat), (5, 0x0), (4, p.toNat), (2, 0x0), (1, i.toNat)] = wd at *
  have q0 : fld wd 17 5 = d := fld_eq (part [_, _] he hf rfl rfl)
  have q1 : fld wd 12 5 = a := fld_eq (part [_, _, _] he hf rfl rfl)
  have q2 : fld wd 3 4 = p := fld_eq (part [_, _, _, _, _] he hf rfl rfl)
  have q3 : fld wd 0 1 = i := fld_eq (part [_, _, _, _, _, _, _] he hf rfl rfl)
  have hc : readSlot xb wd = readScal 0x18 xb wd := slot_scal (classOf he hf rfl) (part [_] he hf rfl rfl)
  have g0 : wd.toNat / 2 ^ 1 % 2 ^ 2 = 0x0 := part [_, _, _, _, _, _] he hf rfl rfl
  have g1 : wd.toNat / 2 ^ 7 % 2 ^ 5 = 0x0 := part [_, _, _, _] he hf rfl rfl
  rw [hc, read_popc, plain_eq hu, fixed_cons g0, fixed_cons g1, fixed_nil, q0, q1, q2, q3]

theorem read_sel (xb : Ext) (wd : BitVec 32) : readScal 0x19 xb wd =
    plain xb wd [(1, 2, 0x0, 3)] (.sel (fld wd 17 5) (fld wd 12 5) (fld wd 7 5) (fld wd 3 4) (fld wd 0 1)) := rfl

theorem Encodes.sel (d a b : BitVec 5) (p : BitVec 4) (i : BitVec 1) : Encodes.Statement (.sel d a b p i) := by
  refine Encodes.ofPlain (fun xb hu => ?_) rfl
  have hf : Fits [(4, 0x0), (6, 0x19), (5, d.toNat), (5, a.toNat), (5, b.toNat), (4, p.toNat), (2, 0x0), (1, i.toNat)] :=
    ⟨by decide, by decide, d.isLt, a.isLt, b.isLt, p.isLt, by decide, i.isLt, trivial⟩
  have he := word_pack _ rfl hf
  generalize word [(4, 0x0), (6, 0x19), (5, d.toNat), (5, a.toNat), (5, b.toNat), (4, p.toNat), (2, 0x0), (1, i.toNat)] = wd at *
  have q0 : fld wd 17 5 = d := fld_eq (part [_, _] he hf rfl rfl)
  have q1 : fld wd 12 5 = a := fld_eq (part [_, _, _] he hf rfl rfl)
  have q2 : fld wd 7 5 = b := fld_eq (part [_, _, _, _] he hf rfl rfl)
  have q3 : fld wd 3 4 = p := fld_eq (part [_, _, _, _, _] he hf rfl rfl)
  have q4 : fld wd 0 1 = i := fld_eq (part [_, _, _, _, _, _, _] he hf rfl rfl)
  have hc : readSlot xb wd = readScal 0x19 xb wd := slot_scal (classOf he hf rfl) (part [_] he hf rfl rfl)
  have g0 : wd.toNat / 2 ^ 1 % 2 ^ 2 = 0x0 := part [_, _, _, _, _, _] he hf rfl rfl
  rw [hc, read_sel, plain_eq hu, fixed_cons g0, fixed_nil, q0, q1, q2, q3, q4]

theorem read_peq (xb : Ext) (wd : BitVec 32) : readScal 0x1A xb wd =
    plain xb wd [(1, 2, 0x0, 3)] (.peq (fld wd 17 5) (fld wd 12 5) (fld wd 7 5) (fld wd 3 4) (fld wd 0 1)) := rfl

theorem Encodes.peq (d a b : BitVec 5) (p : BitVec 4) (i : BitVec 1) : Encodes.Statement (.peq d a b p i) := by
  refine Encodes.ofPlain (fun xb hu => ?_) rfl
  have hf : Fits [(4, 0x0), (6, 0x1A), (5, d.toNat), (5, a.toNat), (5, b.toNat), (4, p.toNat), (2, 0x0), (1, i.toNat)] :=
    ⟨by decide, by decide, d.isLt, a.isLt, b.isLt, p.isLt, by decide, i.isLt, trivial⟩
  have he := word_pack _ rfl hf
  generalize word [(4, 0x0), (6, 0x1A), (5, d.toNat), (5, a.toNat), (5, b.toNat), (4, p.toNat), (2, 0x0), (1, i.toNat)] = wd at *
  have q0 : fld wd 17 5 = d := fld_eq (part [_, _] he hf rfl rfl)
  have q1 : fld wd 12 5 = a := fld_eq (part [_, _, _] he hf rfl rfl)
  have q2 : fld wd 7 5 = b := fld_eq (part [_, _, _, _] he hf rfl rfl)
  have q3 : fld wd 3 4 = p := fld_eq (part [_, _, _, _, _] he hf rfl rfl)
  have q4 : fld wd 0 1 = i := fld_eq (part [_, _, _, _, _, _, _] he hf rfl rfl)
  have hc : readSlot xb wd = readScal 0x1A xb wd := slot_scal (classOf he hf rfl) (part [_] he hf rfl rfl)
  have g0 : wd.toNat / 2 ^ 1 % 2 ^ 2 = 0x0 := part [_, _, _, _, _, _] he hf rfl rfl
  rw [hc, read_peq, plain_eq hu, fixed_cons g0, fixed_nil, q0, q1, q2, q3, q4]

theorem read_pne (xb : Ext) (wd : BitVec 32) : readScal 0x1B xb wd =
    plain xb wd [(1, 2, 0x0, 3)] (.pne (fld wd 17 5) (fld wd 12 5) (fld wd 7 5) (fld wd 3 4) (fld wd 0 1)) := rfl

theorem Encodes.pne (d a b : BitVec 5) (p : BitVec 4) (i : BitVec 1) : Encodes.Statement (.pne d a b p i) := by
  refine Encodes.ofPlain (fun xb hu => ?_) rfl
  have hf : Fits [(4, 0x0), (6, 0x1B), (5, d.toNat), (5, a.toNat), (5, b.toNat), (4, p.toNat), (2, 0x0), (1, i.toNat)] :=
    ⟨by decide, by decide, d.isLt, a.isLt, b.isLt, p.isLt, by decide, i.isLt, trivial⟩
  have he := word_pack _ rfl hf
  generalize word [(4, 0x0), (6, 0x1B), (5, d.toNat), (5, a.toNat), (5, b.toNat), (4, p.toNat), (2, 0x0), (1, i.toNat)] = wd at *
  have q0 : fld wd 17 5 = d := fld_eq (part [_, _] he hf rfl rfl)
  have q1 : fld wd 12 5 = a := fld_eq (part [_, _, _] he hf rfl rfl)
  have q2 : fld wd 7 5 = b := fld_eq (part [_, _, _, _] he hf rfl rfl)
  have q3 : fld wd 3 4 = p := fld_eq (part [_, _, _, _, _] he hf rfl rfl)
  have q4 : fld wd 0 1 = i := fld_eq (part [_, _, _, _, _, _, _] he hf rfl rfl)
  have hc : readSlot xb wd = readScal 0x1B xb wd := slot_scal (classOf he hf rfl) (part [_] he hf rfl rfl)
  have g0 : wd.toNat / 2 ^ 1 % 2 ^ 2 = 0x0 := part [_, _, _, _, _, _] he hf rfl rfl
  rw [hc, read_pne, plain_eq hu, fixed_cons g0, fixed_nil, q0, q1, q2, q3, q4]

theorem read_plt (xb : Ext) (wd : BitVec 32) : readScal 0x1C xb wd =
    plain xb wd [(1, 2, 0x0, 3)] (.plt (fld wd 17 5) (fld wd 12 5) (fld wd 7 5) (fld wd 3 4) (fld wd 0 1)) := rfl

theorem Encodes.plt (d a b : BitVec 5) (p : BitVec 4) (i : BitVec 1) : Encodes.Statement (.plt d a b p i) := by
  refine Encodes.ofPlain (fun xb hu => ?_) rfl
  have hf : Fits [(4, 0x0), (6, 0x1C), (5, d.toNat), (5, a.toNat), (5, b.toNat), (4, p.toNat), (2, 0x0), (1, i.toNat)] :=
    ⟨by decide, by decide, d.isLt, a.isLt, b.isLt, p.isLt, by decide, i.isLt, trivial⟩
  have he := word_pack _ rfl hf
  generalize word [(4, 0x0), (6, 0x1C), (5, d.toNat), (5, a.toNat), (5, b.toNat), (4, p.toNat), (2, 0x0), (1, i.toNat)] = wd at *
  have q0 : fld wd 17 5 = d := fld_eq (part [_, _] he hf rfl rfl)
  have q1 : fld wd 12 5 = a := fld_eq (part [_, _, _] he hf rfl rfl)
  have q2 : fld wd 7 5 = b := fld_eq (part [_, _, _, _] he hf rfl rfl)
  have q3 : fld wd 3 4 = p := fld_eq (part [_, _, _, _, _] he hf rfl rfl)
  have q4 : fld wd 0 1 = i := fld_eq (part [_, _, _, _, _, _, _] he hf rfl rfl)
  have hc : readSlot xb wd = readScal 0x1C xb wd := slot_scal (classOf he hf rfl) (part [_] he hf rfl rfl)
  have g0 : wd.toNat / 2 ^ 1 % 2 ^ 2 = 0x0 := part [_, _, _, _, _, _] he hf rfl rfl
  rw [hc, read_plt, plain_eq hu, fixed_cons g0, fixed_nil, q0, q1, q2, q3, q4]

theorem read_pltu (xb : Ext) (wd : BitVec 32) : readScal 0x1D xb wd =
    plain xb wd [(1, 2, 0x0, 3)] (.pltu (fld wd 17 5) (fld wd 12 5) (fld wd 7 5) (fld wd 3 4) (fld wd 0 1)) := rfl

theorem Encodes.pltu (d a b : BitVec 5) (p : BitVec 4) (i : BitVec 1) : Encodes.Statement (.pltu d a b p i) := by
  refine Encodes.ofPlain (fun xb hu => ?_) rfl
  have hf : Fits [(4, 0x0), (6, 0x1D), (5, d.toNat), (5, a.toNat), (5, b.toNat), (4, p.toNat), (2, 0x0), (1, i.toNat)] :=
    ⟨by decide, by decide, d.isLt, a.isLt, b.isLt, p.isLt, by decide, i.isLt, trivial⟩
  have he := word_pack _ rfl hf
  generalize word [(4, 0x0), (6, 0x1D), (5, d.toNat), (5, a.toNat), (5, b.toNat), (4, p.toNat), (2, 0x0), (1, i.toNat)] = wd at *
  have q0 : fld wd 17 5 = d := fld_eq (part [_, _] he hf rfl rfl)
  have q1 : fld wd 12 5 = a := fld_eq (part [_, _, _] he hf rfl rfl)
  have q2 : fld wd 7 5 = b := fld_eq (part [_, _, _, _] he hf rfl rfl)
  have q3 : fld wd 3 4 = p := fld_eq (part [_, _, _, _, _] he hf rfl rfl)
  have q4 : fld wd 0 1 = i := fld_eq (part [_, _, _, _, _, _, _] he hf rfl rfl)
  have hc : readSlot xb wd = readScal 0x1D xb wd := slot_scal (classOf he hf rfl) (part [_] he hf rfl rfl)
  have g0 : wd.toNat / 2 ^ 1 % 2 ^ 2 = 0x0 := part [_, _, _, _, _, _] he hf rfl rfl
  rw [hc, read_pltu, plain_eq hu, fixed_cons g0, fixed_nil, q0, q1, q2, q3, q4]

theorem read_pand (xb : Ext) (wd : BitVec 32) : readScal 0x1E xb wd =
    plain xb wd [(1, 2, 0x0, 3)] (.pand (fld wd 17 5) (fld wd 12 5) (fld wd 7 5) (fld wd 3 4) (fld wd 0 1)) := rfl

theorem Encodes.pand (d a b : BitVec 5) (p : BitVec 4) (i : BitVec 1) : Encodes.Statement (.pand d a b p i) := by
  refine Encodes.ofPlain (fun xb hu => ?_) rfl
  have hf : Fits [(4, 0x0), (6, 0x1E), (5, d.toNat), (5, a.toNat), (5, b.toNat), (4, p.toNat), (2, 0x0), (1, i.toNat)] :=
    ⟨by decide, by decide, d.isLt, a.isLt, b.isLt, p.isLt, by decide, i.isLt, trivial⟩
  have he := word_pack _ rfl hf
  generalize word [(4, 0x0), (6, 0x1E), (5, d.toNat), (5, a.toNat), (5, b.toNat), (4, p.toNat), (2, 0x0), (1, i.toNat)] = wd at *
  have q0 : fld wd 17 5 = d := fld_eq (part [_, _] he hf rfl rfl)
  have q1 : fld wd 12 5 = a := fld_eq (part [_, _, _] he hf rfl rfl)
  have q2 : fld wd 7 5 = b := fld_eq (part [_, _, _, _] he hf rfl rfl)
  have q3 : fld wd 3 4 = p := fld_eq (part [_, _, _, _, _] he hf rfl rfl)
  have q4 : fld wd 0 1 = i := fld_eq (part [_, _, _, _, _, _, _] he hf rfl rfl)
  have hc : readSlot xb wd = readScal 0x1E xb wd := slot_scal (classOf he hf rfl) (part [_] he hf rfl rfl)
  have g0 : wd.toNat / 2 ^ 1 % 2 ^ 2 = 0x0 := part [_, _, _, _, _, _] he hf rfl rfl
  rw [hc, read_pand, plain_eq hu, fixed_cons g0, fixed_nil, q0, q1, q2, q3, q4]

theorem read_por (xb : Ext) (wd : BitVec 32) : readScal 0x1F xb wd =
    plain xb wd [(1, 2, 0x0, 3)] (.por (fld wd 17 5) (fld wd 12 5) (fld wd 7 5) (fld wd 3 4) (fld wd 0 1)) := rfl

theorem Encodes.por (d a b : BitVec 5) (p : BitVec 4) (i : BitVec 1) : Encodes.Statement (.por d a b p i) := by
  refine Encodes.ofPlain (fun xb hu => ?_) rfl
  have hf : Fits [(4, 0x0), (6, 0x1F), (5, d.toNat), (5, a.toNat), (5, b.toNat), (4, p.toNat), (2, 0x0), (1, i.toNat)] :=
    ⟨by decide, by decide, d.isLt, a.isLt, b.isLt, p.isLt, by decide, i.isLt, trivial⟩
  have he := word_pack _ rfl hf
  generalize word [(4, 0x0), (6, 0x1F), (5, d.toNat), (5, a.toNat), (5, b.toNat), (4, p.toNat), (2, 0x0), (1, i.toNat)] = wd at *
  have q0 : fld wd 17 5 = d := fld_eq (part [_, _] he hf rfl rfl)
  have q1 : fld wd 12 5 = a := fld_eq (part [_, _, _] he hf rfl rfl)
  have q2 : fld wd 7 5 = b := fld_eq (part [_, _, _, _] he hf rfl rfl)
  have q3 : fld wd 3 4 = p := fld_eq (part [_, _, _, _, _] he hf rfl rfl)
  have q4 : fld wd 0 1 = i := fld_eq (part [_, _, _, _, _, _, _] he hf rfl rfl)
  have hc : readSlot xb wd = readScal 0x1F xb wd := slot_scal (classOf he hf rfl) (part [_] he hf rfl rfl)
  have g0 : wd.toNat / 2 ^ 1 % 2 ^ 2 = 0x0 := part [_, _, _, _, _, _] he hf rfl rfl
  rw [hc, read_por, plain_eq hu, fixed_cons g0, fixed_nil, q0, q1, q2, q3, q4]

theorem read_pxor (xb : Ext) (wd : BitVec 32) : readScal 0x20 xb wd =
    plain xb wd [(1, 2, 0x0, 3)] (.pxor (fld wd 17 5) (fld wd 12 5) (fld wd 7 5) (fld wd 3 4) (fld wd 0 1)) := rfl

theorem Encodes.pxor (d a b : BitVec 5) (p : BitVec 4) (i : BitVec 1) : Encodes.Statement (.pxor d a b p i) := by
  refine Encodes.ofPlain (fun xb hu => ?_) rfl
  have hf : Fits [(4, 0x0), (6, 0x20), (5, d.toNat), (5, a.toNat), (5, b.toNat), (4, p.toNat), (2, 0x0), (1, i.toNat)] :=
    ⟨by decide, by decide, d.isLt, a.isLt, b.isLt, p.isLt, by decide, i.isLt, trivial⟩
  have he := word_pack _ rfl hf
  generalize word [(4, 0x0), (6, 0x20), (5, d.toNat), (5, a.toNat), (5, b.toNat), (4, p.toNat), (2, 0x0), (1, i.toNat)] = wd at *
  have q0 : fld wd 17 5 = d := fld_eq (part [_, _] he hf rfl rfl)
  have q1 : fld wd 12 5 = a := fld_eq (part [_, _, _] he hf rfl rfl)
  have q2 : fld wd 7 5 = b := fld_eq (part [_, _, _, _] he hf rfl rfl)
  have q3 : fld wd 3 4 = p := fld_eq (part [_, _, _, _, _] he hf rfl rfl)
  have q4 : fld wd 0 1 = i := fld_eq (part [_, _, _, _, _, _, _] he hf rfl rfl)
  have hc : readSlot xb wd = readScal 0x20 xb wd := slot_scal (classOf he hf rfl) (part [_] he hf rfl rfl)
  have g0 : wd.toNat / 2 ^ 1 % 2 ^ 2 = 0x0 := part [_, _, _, _, _, _] he hf rfl rfl
  rw [hc, read_pxor, plain_eq hu, fixed_cons g0, fixed_nil, q0, q1, q2, q3, q4]

theorem read_pandn (xb : Ext) (wd : BitVec 32) : readScal 0x21 xb wd =
    plain xb wd [(1, 2, 0x0, 3)] (.pandn (fld wd 17 5) (fld wd 12 5) (fld wd 7 5) (fld wd 3 4) (fld wd 0 1)) := rfl

theorem Encodes.pandn (d a b : BitVec 5) (p : BitVec 4) (i : BitVec 1) : Encodes.Statement (.pandn d a b p i) := by
  refine Encodes.ofPlain (fun xb hu => ?_) rfl
  have hf : Fits [(4, 0x0), (6, 0x21), (5, d.toNat), (5, a.toNat), (5, b.toNat), (4, p.toNat), (2, 0x0), (1, i.toNat)] :=
    ⟨by decide, by decide, d.isLt, a.isLt, b.isLt, p.isLt, by decide, i.isLt, trivial⟩
  have he := word_pack _ rfl hf
  generalize word [(4, 0x0), (6, 0x21), (5, d.toNat), (5, a.toNat), (5, b.toNat), (4, p.toNat), (2, 0x0), (1, i.toNat)] = wd at *
  have q0 : fld wd 17 5 = d := fld_eq (part [_, _] he hf rfl rfl)
  have q1 : fld wd 12 5 = a := fld_eq (part [_, _, _] he hf rfl rfl)
  have q2 : fld wd 7 5 = b := fld_eq (part [_, _, _, _] he hf rfl rfl)
  have q3 : fld wd 3 4 = p := fld_eq (part [_, _, _, _, _] he hf rfl rfl)
  have q4 : fld wd 0 1 = i := fld_eq (part [_, _, _, _, _, _, _] he hf rfl rfl)
  have hc : readSlot xb wd = readScal 0x21 xb wd := slot_scal (classOf he hf rfl) (part [_] he hf rfl rfl)
  have g0 : wd.toNat / 2 ^ 1 % 2 ^ 2 = 0x0 := part [_, _, _, _, _, _] he hf rfl rfl
  rw [hc, read_pandn, plain_eq hu, fixed_cons g0, fixed_nil, q0, q1, q2, q3, q4]

theorem read_pmov (xb : Ext) (wd : BitVec 32) : readScal 0x22 xb wd =
    plain xb wd [(1, 2, 0x0, 3), (7, 5, 0x0, 3)] (.pmov (fld wd 17 5) (fld wd 12 5) (fld wd 3 4) (fld wd 0 1)) := rfl

theorem Encodes.pmov (d a : BitVec 5) (p : BitVec 4) (i : BitVec 1) : Encodes.Statement (.pmov d a p i) := by
  refine Encodes.ofPlain (fun xb hu => ?_) rfl
  have hf : Fits [(4, 0x0), (6, 0x22), (5, d.toNat), (5, a.toNat), (5, 0x0), (4, p.toNat), (2, 0x0), (1, i.toNat)] :=
    ⟨by decide, by decide, d.isLt, a.isLt, by decide, p.isLt, by decide, i.isLt, trivial⟩
  have he := word_pack _ rfl hf
  generalize word [(4, 0x0), (6, 0x22), (5, d.toNat), (5, a.toNat), (5, 0x0), (4, p.toNat), (2, 0x0), (1, i.toNat)] = wd at *
  have q0 : fld wd 17 5 = d := fld_eq (part [_, _] he hf rfl rfl)
  have q1 : fld wd 12 5 = a := fld_eq (part [_, _, _] he hf rfl rfl)
  have q2 : fld wd 3 4 = p := fld_eq (part [_, _, _, _, _] he hf rfl rfl)
  have q3 : fld wd 0 1 = i := fld_eq (part [_, _, _, _, _, _, _] he hf rfl rfl)
  have hc : readSlot xb wd = readScal 0x22 xb wd := slot_scal (classOf he hf rfl) (part [_] he hf rfl rfl)
  have g0 : wd.toNat / 2 ^ 1 % 2 ^ 2 = 0x0 := part [_, _, _, _, _, _] he hf rfl rfl
  have g1 : wd.toNat / 2 ^ 7 % 2 ^ 5 = 0x0 := part [_, _, _, _] he hf rfl rfl
  rw [hc, read_pmov, plain_eq hu, fixed_cons g0, fixed_cons g1, fixed_nil, q0, q1, q2, q3]

theorem read_pfrom (xb : Ext) (wd : BitVec 32) : readScal 0x23 xb wd =
    plain xb wd [(1, 2, 0x0, 3)] (.pfrom (fld wd 17 5) (fld wd 12 5) (fld wd 7 5) (fld wd 3 4) (fld wd 0 1)) := rfl

theorem Encodes.pfrom (d a b : BitVec 5) (p : BitVec 4) (i : BitVec 1) : Encodes.Statement (.pfrom d a b p i) := by
  refine Encodes.ofPlain (fun xb hu => ?_) rfl
  have hf : Fits [(4, 0x0), (6, 0x23), (5, d.toNat), (5, a.toNat), (5, b.toNat), (4, p.toNat), (2, 0x0), (1, i.toNat)] :=
    ⟨by decide, by decide, d.isLt, a.isLt, b.isLt, p.isLt, by decide, i.isLt, trivial⟩
  have he := word_pack _ rfl hf
  generalize word [(4, 0x0), (6, 0x23), (5, d.toNat), (5, a.toNat), (5, b.toNat), (4, p.toNat), (2, 0x0), (1, i.toNat)] = wd at *
  have q0 : fld wd 17 5 = d := fld_eq (part [_, _] he hf rfl rfl)
  have q1 : fld wd 12 5 = a := fld_eq (part [_, _, _] he hf rfl rfl)
  have q2 : fld wd 7 5 = b := fld_eq (part [_, _, _, _] he hf rfl rfl)
  have q3 : fld wd 3 4 = p := fld_eq (part [_, _, _, _, _] he hf rfl rfl)
  have q4 : fld wd 0 1 = i := fld_eq (part [_, _, _, _, _, _, _] he hf rfl rfl)
  have hc : readSlot xb wd = readScal 0x23 xb wd := slot_scal (classOf he hf rfl) (part [_] he hf rfl rfl)
  have g0 : wd.toNat / 2 ^ 1 % 2 ^ 2 = 0x0 := part [_, _, _, _, _, _] he hf rfl rfl
  rw [hc, read_pfrom, plain_eq hu, fixed_cons g0, fixed_nil, q0, q1, q2, q3, q4]

theorem read_sfromp (xb : Ext) (wd : BitVec 32) : readScal 0x24 xb wd =
    plain xb wd [(1, 2, 0x0, 3), (8, 4, 0x0, 3)] (.sfromp (fld wd 17 5) (fld wd 12 5) (fld wd 7 1) (fld wd 3 4) (fld wd 0 1)) := rfl

theorem Encodes.sfromp (d a : BitVec 5) (h : BitVec 1) (p : BitVec 4) (i : BitVec 1) : Encodes.Statement (.sfromp d a h p i) := by
  refine Encodes.ofPlain (fun xb hu => ?_) rfl
  have hf : Fits [(4, 0x0), (6, 0x24), (5, d.toNat), (5, a.toNat), (4, 0x0), (1, h.toNat), (4, p.toNat), (2, 0x0), (1, i.toNat)] :=
    ⟨by decide, by decide, d.isLt, a.isLt, by decide, h.isLt, p.isLt, by decide, i.isLt, trivial⟩
  have he := word_pack _ rfl hf
  generalize word [(4, 0x0), (6, 0x24), (5, d.toNat), (5, a.toNat), (4, 0x0), (1, h.toNat), (4, p.toNat), (2, 0x0), (1, i.toNat)] = wd at *
  have q0 : fld wd 17 5 = d := fld_eq (part [_, _] he hf rfl rfl)
  have q1 : fld wd 12 5 = a := fld_eq (part [_, _, _] he hf rfl rfl)
  have q2 : fld wd 7 1 = h := fld_eq (part [_, _, _, _, _] he hf rfl rfl)
  have q3 : fld wd 3 4 = p := fld_eq (part [_, _, _, _, _, _] he hf rfl rfl)
  have q4 : fld wd 0 1 = i := fld_eq (part [_, _, _, _, _, _, _, _] he hf rfl rfl)
  have hc : readSlot xb wd = readScal 0x24 xb wd := slot_scal (classOf he hf rfl) (part [_] he hf rfl rfl)
  have g0 : wd.toNat / 2 ^ 1 % 2 ^ 2 = 0x0 := part [_, _, _, _, _, _, _] he hf rfl rfl
  have g1 : wd.toNat / 2 ^ 8 % 2 ^ 4 = 0x0 := part [_, _, _, _] he hf rfl rfl
  rw [hc, read_sfromp, plain_eq hu, fixed_cons g0, fixed_cons g1, fixed_nil, q0, q1, q2, q3, q4]

theorem read_addi (xb : Ext) (wd : BitVec 32) : readSimm 0x0 xb wd =
    fixed wd [] (.addi (fld wd 17 5) (fld wd 12 5) (fld wd 0 12) xb) := rfl

theorem Encodes.addi (d a : BitVec 5) (i : BitVec 12) (x : Ext) : Encodes.Statement (.addi d a i x) := by
  refine Encodes.ofExt (f := fun xb => .addi d a i xb) (fun xb => ?_) (fun _ => rfl) x
  have hf : Fits [(4, 0x1), (6, 0x0), (5, d.toNat), (5, a.toNat), (12, i.toNat)] :=
    ⟨by decide, by decide, d.isLt, a.isLt, i.isLt, trivial⟩
  have he := word_pack _ rfl hf
  generalize word [(4, 0x1), (6, 0x0), (5, d.toNat), (5, a.toNat), (12, i.toNat)] = wd at *
  have q0 : fld wd 17 5 = d := fld_eq (part [_, _] he hf rfl rfl)
  have q1 : fld wd 12 5 = a := fld_eq (part [_, _, _] he hf rfl rfl)
  have q2 : fld wd 0 12 = i := fld_eq (part [_, _, _, _] he hf rfl rfl)
  have hc : readSlot xb wd = readSimm 0x0 xb wd := slot_simm (classOf he hf rfl) (part [_] he hf rfl rfl)
  rw [hc, read_addi, fixed_nil, q0, q1, q2]

theorem read_andi (xb : Ext) (wd : BitVec 32) : readSimm 0x1 xb wd =
    fixed wd [] (.andi (fld wd 17 5) (fld wd 12 5) (fld wd 0 12) xb) := rfl

theorem Encodes.andi (d a : BitVec 5) (i : BitVec 12) (x : Ext) : Encodes.Statement (.andi d a i x) := by
  refine Encodes.ofExt (f := fun xb => .andi d a i xb) (fun xb => ?_) (fun _ => rfl) x
  have hf : Fits [(4, 0x1), (6, 0x1), (5, d.toNat), (5, a.toNat), (12, i.toNat)] :=
    ⟨by decide, by decide, d.isLt, a.isLt, i.isLt, trivial⟩
  have he := word_pack _ rfl hf
  generalize word [(4, 0x1), (6, 0x1), (5, d.toNat), (5, a.toNat), (12, i.toNat)] = wd at *
  have q0 : fld wd 17 5 = d := fld_eq (part [_, _] he hf rfl rfl)
  have q1 : fld wd 12 5 = a := fld_eq (part [_, _, _] he hf rfl rfl)
  have q2 : fld wd 0 12 = i := fld_eq (part [_, _, _, _] he hf rfl rfl)
  have hc : readSlot xb wd = readSimm 0x1 xb wd := slot_simm (classOf he hf rfl) (part [_] he hf rfl rfl)
  rw [hc, read_andi, fixed_nil, q0, q1, q2]

theorem read_ori (xb : Ext) (wd : BitVec 32) : readSimm 0x2 xb wd =
    fixed wd [] (.ori (fld wd 17 5) (fld wd 12 5) (fld wd 0 12) xb) := rfl

theorem Encodes.ori (d a : BitVec 5) (i : BitVec 12) (x : Ext) : Encodes.Statement (.ori d a i x) := by
  refine Encodes.ofExt (f := fun xb => .ori d a i xb) (fun xb => ?_) (fun _ => rfl) x
  have hf : Fits [(4, 0x1), (6, 0x2), (5, d.toNat), (5, a.toNat), (12, i.toNat)] :=
    ⟨by decide, by decide, d.isLt, a.isLt, i.isLt, trivial⟩
  have he := word_pack _ rfl hf
  generalize word [(4, 0x1), (6, 0x2), (5, d.toNat), (5, a.toNat), (12, i.toNat)] = wd at *
  have q0 : fld wd 17 5 = d := fld_eq (part [_, _] he hf rfl rfl)
  have q1 : fld wd 12 5 = a := fld_eq (part [_, _, _] he hf rfl rfl)
  have q2 : fld wd 0 12 = i := fld_eq (part [_, _, _, _] he hf rfl rfl)
  have hc : readSlot xb wd = readSimm 0x2 xb wd := slot_simm (classOf he hf rfl) (part [_] he hf rfl rfl)
  rw [hc, read_ori, fixed_nil, q0, q1, q2]

theorem read_xori (xb : Ext) (wd : BitVec 32) : readSimm 0x3 xb wd =
    fixed wd [] (.xori (fld wd 17 5) (fld wd 12 5) (fld wd 0 12) xb) := rfl

theorem Encodes.xori (d a : BitVec 5) (i : BitVec 12) (x : Ext) : Encodes.Statement (.xori d a i x) := by
  refine Encodes.ofExt (f := fun xb => .xori d a i xb) (fun xb => ?_) (fun _ => rfl) x
  have hf : Fits [(4, 0x1), (6, 0x3), (5, d.toNat), (5, a.toNat), (12, i.toNat)] :=
    ⟨by decide, by decide, d.isLt, a.isLt, i.isLt, trivial⟩
  have he := word_pack _ rfl hf
  generalize word [(4, 0x1), (6, 0x3), (5, d.toNat), (5, a.toNat), (12, i.toNat)] = wd at *
  have q0 : fld wd 17 5 = d := fld_eq (part [_, _] he hf rfl rfl)
  have q1 : fld wd 12 5 = a := fld_eq (part [_, _, _] he hf rfl rfl)
  have q2 : fld wd 0 12 = i := fld_eq (part [_, _, _, _] he hf rfl rfl)
  have hc : readSlot xb wd = readSimm 0x3 xb wd := slot_simm (classOf he hf rfl) (part [_] he hf rfl rfl)
  rw [hc, read_xori, fixed_nil, q0, q1, q2]

theorem read_shli (xb : Ext) (wd : BitVec 32) : readSimm 0x4 xb wd =
    noExt 3 xb wd [(6, 6, 0x0, 3)] (.shli (fld wd 17 5) (fld wd 12 5) (fld wd 0 6)) := rfl

theorem Encodes.shli (d a : BitVec 5) (c : BitVec 6) : Encodes.Statement (.shli d a c) := by
  refine Encodes.ofPlain (fun xb hu => ?_) rfl
  have hf : Fits [(4, 0x1), (6, 0x4), (5, d.toNat), (5, a.toNat), (6, 0x0), (6, c.toNat)] :=
    ⟨by decide, by decide, d.isLt, a.isLt, by decide, c.isLt, trivial⟩
  have he := word_pack _ rfl hf
  generalize word [(4, 0x1), (6, 0x4), (5, d.toNat), (5, a.toNat), (6, 0x0), (6, c.toNat)] = wd at *
  have q0 : fld wd 17 5 = d := fld_eq (part [_, _] he hf rfl rfl)
  have q1 : fld wd 12 5 = a := fld_eq (part [_, _, _] he hf rfl rfl)
  have q2 : fld wd 0 6 = c := fld_eq (part [_, _, _, _, _] he hf rfl rfl)
  have hc : readSlot xb wd = readSimm 0x4 xb wd := slot_simm (classOf he hf rfl) (part [_] he hf rfl rfl)
  have g0 : wd.toNat / 2 ^ 6 % 2 ^ 6 = 0x0 := part [_, _, _, _] he hf rfl rfl
  rw [hc, read_shli, noExt_eq hu, fixed_cons g0, fixed_nil, q0, q1, q2]

theorem read_shri (xb : Ext) (wd : BitVec 32) : readSimm 0x5 xb wd =
    noExt 3 xb wd [(6, 6, 0x0, 3)] (.shri (fld wd 17 5) (fld wd 12 5) (fld wd 0 6)) := rfl

theorem Encodes.shri (d a : BitVec 5) (c : BitVec 6) : Encodes.Statement (.shri d a c) := by
  refine Encodes.ofPlain (fun xb hu => ?_) rfl
  have hf : Fits [(4, 0x1), (6, 0x5), (5, d.toNat), (5, a.toNat), (6, 0x0), (6, c.toNat)] :=
    ⟨by decide, by decide, d.isLt, a.isLt, by decide, c.isLt, trivial⟩
  have he := word_pack _ rfl hf
  generalize word [(4, 0x1), (6, 0x5), (5, d.toNat), (5, a.toNat), (6, 0x0), (6, c.toNat)] = wd at *
  have q0 : fld wd 17 5 = d := fld_eq (part [_, _] he hf rfl rfl)
  have q1 : fld wd 12 5 = a := fld_eq (part [_, _, _] he hf rfl rfl)
  have q2 : fld wd 0 6 = c := fld_eq (part [_, _, _, _, _] he hf rfl rfl)
  have hc : readSlot xb wd = readSimm 0x5 xb wd := slot_simm (classOf he hf rfl) (part [_] he hf rfl rfl)
  have g0 : wd.toNat / 2 ^ 6 % 2 ^ 6 = 0x0 := part [_, _, _, _] he hf rfl rfl
  rw [hc, read_shri, noExt_eq hu, fixed_cons g0, fixed_nil, q0, q1, q2]

theorem read_srai (xb : Ext) (wd : BitVec 32) : readSimm 0x6 xb wd =
    noExt 3 xb wd [(6, 6, 0x0, 3)] (.srai (fld wd 17 5) (fld wd 12 5) (fld wd 0 6)) := rfl

theorem Encodes.srai (d a : BitVec 5) (c : BitVec 6) : Encodes.Statement (.srai d a c) := by
  refine Encodes.ofPlain (fun xb hu => ?_) rfl
  have hf : Fits [(4, 0x1), (6, 0x6), (5, d.toNat), (5, a.toNat), (6, 0x0), (6, c.toNat)] :=
    ⟨by decide, by decide, d.isLt, a.isLt, by decide, c.isLt, trivial⟩
  have he := word_pack _ rfl hf
  generalize word [(4, 0x1), (6, 0x6), (5, d.toNat), (5, a.toNat), (6, 0x0), (6, c.toNat)] = wd at *
  have q0 : fld wd 17 5 = d := fld_eq (part [_, _] he hf rfl rfl)
  have q1 : fld wd 12 5 = a := fld_eq (part [_, _, _] he hf rfl rfl)
  have q2 : fld wd 0 6 = c := fld_eq (part [_, _, _, _, _] he hf rfl rfl)
  have hc : readSlot xb wd = readSimm 0x6 xb wd := slot_simm (classOf he hf rfl) (part [_] he hf rfl rfl)
  have g0 : wd.toNat / 2 ^ 6 % 2 ^ 6 = 0x0 := part [_, _, _, _] he hf rfl rfl
  rw [hc, read_srai, noExt_eq hu, fixed_cons g0, fixed_nil, q0, q1, q2]

theorem read_lim (xb : Ext) (wd : BitVec 32) : readSimm 0x7 xb wd =
    fixed wd [] (.lim (fld wd 17 5) (fld wd 0 17) xb) := rfl

theorem Encodes.lim (d : BitVec 5) (i : BitVec 17) (x : Ext) : Encodes.Statement (.lim d i x) := by
  refine Encodes.ofExt (f := fun xb => .lim d i xb) (fun xb => ?_) (fun _ => rfl) x
  have hf : Fits [(4, 0x1), (6, 0x7), (5, d.toNat), (17, i.toNat)] :=
    ⟨by decide, by decide, d.isLt, i.isLt, trivial⟩
  have he := word_pack _ rfl hf
  generalize word [(4, 0x1), (6, 0x7), (5, d.toNat), (17, i.toNat)] = wd at *
  have q0 : fld wd 17 5 = d := fld_eq (part [_, _] he hf rfl rfl)
  have q1 : fld wd 0 17 = i := fld_eq (part [_, _, _] he hf rfl rfl)
  have hc : readSlot xb wd = readSimm 0x7 xb wd := slot_simm (classOf he hf rfl) (part [_] he hf rfl rfl)
  rw [hc, read_lim, fixed_nil, q0, q1]

theorem read_limh (xb : Ext) (wd : BitVec 32) : readSimm 0x8 xb wd =
    fixed wd [] (.limh (fld wd 17 5) (fld wd 0 17) xb) := rfl

theorem Encodes.limh (d : BitVec 5) (i : BitVec 17) (x : Ext) : Encodes.Statement (.limh d i x) := by
  refine Encodes.ofExt (f := fun xb => .limh d i xb) (fun xb => ?_) (fun _ => rfl) x
  have hf : Fits [(4, 0x1), (6, 0x8), (5, d.toNat), (17, i.toNat)] :=
    ⟨by decide, by decide, d.isLt, i.isLt, trivial⟩
  have he := word_pack _ rfl hf
  generalize word [(4, 0x1), (6, 0x8), (5, d.toNat), (17, i.toNat)] = wd at *
  have q0 : fld wd 17 5 = d := fld_eq (part [_, _] he hf rfl rfl)
  have q1 : fld wd 0 17 = i := fld_eq (part [_, _, _] he hf rfl rfl)
  have hc : readSlot xb wd = readSimm 0x8 xb wd := slot_simm (classOf he hf rfl) (part [_] he hf rfl rfl)
  rw [hc, read_limh, fixed_nil, q0, q1]

theorem read_peqi (xb : Ext) (wd : BitVec 32) : readSimm 0x9 xb wd =
    fixed wd [] (.peqi (fld wd 17 5) (fld wd 12 5) (fld wd 0 12) xb) := rfl

theorem Encodes.peqi (d a : BitVec 5) (i : BitVec 12) (x : Ext) : Encodes.Statement (.peqi d a i x) := by
  refine Encodes.ofExt (f := fun xb => .peqi d a i xb) (fun xb => ?_) (fun _ => rfl) x
  have hf : Fits [(4, 0x1), (6, 0x9), (5, d.toNat), (5, a.toNat), (12, i.toNat)] :=
    ⟨by decide, by decide, d.isLt, a.isLt, i.isLt, trivial⟩
  have he := word_pack _ rfl hf
  generalize word [(4, 0x1), (6, 0x9), (5, d.toNat), (5, a.toNat), (12, i.toNat)] = wd at *
  have q0 : fld wd 17 5 = d := fld_eq (part [_, _] he hf rfl rfl)
  have q1 : fld wd 12 5 = a := fld_eq (part [_, _, _] he hf rfl rfl)
  have q2 : fld wd 0 12 = i := fld_eq (part [_, _, _, _] he hf rfl rfl)
  have hc : readSlot xb wd = readSimm 0x9 xb wd := slot_simm (classOf he hf rfl) (part [_] he hf rfl rfl)
  rw [hc, read_peqi, fixed_nil, q0, q1, q2]

theorem read_plti (xb : Ext) (wd : BitVec 32) : readSimm 0xA xb wd =
    fixed wd [] (.plti (fld wd 17 5) (fld wd 12 5) (fld wd 0 12) xb) := rfl

theorem Encodes.plti (d a : BitVec 5) (i : BitVec 12) (x : Ext) : Encodes.Statement (.plti d a i x) := by
  refine Encodes.ofExt (f := fun xb => .plti d a i xb) (fun xb => ?_) (fun _ => rfl) x
  have hf : Fits [(4, 0x1), (6, 0xA), (5, d.toNat), (5, a.toNat), (12, i.toNat)] :=
    ⟨by decide, by decide, d.isLt, a.isLt, i.isLt, trivial⟩
  have he := word_pack _ rfl hf
  generalize word [(4, 0x1), (6, 0xA), (5, d.toNat), (5, a.toNat), (12, i.toNat)] = wd at *
  have q0 : fld wd 17 5 = d := fld_eq (part [_, _] he hf rfl rfl)
  have q1 : fld wd 12 5 = a := fld_eq (part [_, _, _] he hf rfl rfl)
  have q2 : fld wd 0 12 = i := fld_eq (part [_, _, _, _] he hf rfl rfl)
  have hc : readSlot xb wd = readSimm 0xA xb wd := slot_simm (classOf he hf rfl) (part [_] he hf rfl rfl)
  rw [hc, read_plti, fixed_nil, q0, q1, q2]

theorem read_pltui (xb : Ext) (wd : BitVec 32) : readSimm 0xB xb wd =
    fixed wd [] (.pltui (fld wd 17 5) (fld wd 12 5) (fld wd 0 12) xb) := rfl

theorem Encodes.pltui (d a : BitVec 5) (i : BitVec 12) (x : Ext) : Encodes.Statement (.pltui d a i x) := by
  refine Encodes.ofExt (f := fun xb => .pltui d a i xb) (fun xb => ?_) (fun _ => rfl) x
  have hf : Fits [(4, 0x1), (6, 0xB), (5, d.toNat), (5, a.toNat), (12, i.toNat)] :=
    ⟨by decide, by decide, d.isLt, a.isLt, i.isLt, trivial⟩
  have he := word_pack _ rfl hf
  generalize word [(4, 0x1), (6, 0xB), (5, d.toNat), (5, a.toNat), (12, i.toNat)] = wd at *
  have q0 : fld wd 17 5 = d := fld_eq (part [_, _] he hf rfl rfl)
  have q1 : fld wd 12 5 = a := fld_eq (part [_, _, _] he hf rfl rfl)
  have q2 : fld wd 0 12 = i := fld_eq (part [_, _, _, _] he hf rfl rfl)
  have hc : readSlot xb wd = readSimm 0xB xb wd := slot_simm (classOf he hf rfl) (part [_] he hf rfl rfl)
  rw [hc, read_pltui, fixed_nil, q0, q1, q2]

theorem read_muli (xb : Ext) (wd : BitVec 32) : readSimm 0xC xb wd =
    fixed wd [] (.muli (fld wd 17 5) (fld wd 12 5) (fld wd 0 12) xb) := rfl

theorem Encodes.muli (d a : BitVec 5) (i : BitVec 12) (x : Ext) : Encodes.Statement (.muli d a i x) := by
  refine Encodes.ofExt (f := fun xb => .muli d a i xb) (fun xb => ?_) (fun _ => rfl) x
  have hf : Fits [(4, 0x1), (6, 0xC), (5, d.toNat), (5, a.toNat), (12, i.toNat)] :=
    ⟨by decide, by decide, d.isLt, a.isLt, i.isLt, trivial⟩
  have he := word_pack _ rfl hf
  generalize word [(4, 0x1), (6, 0xC), (5, d.toNat), (5, a.toNat), (12, i.toNat)] = wd at *
  have q0 : fld wd 17 5 = d := fld_eq (part [_, _] he hf rfl rfl)
  have q1 : fld wd 12 5 = a := fld_eq (part [_, _, _] he hf rfl rfl)
  have q2 : fld wd 0 12 = i := fld_eq (part [_, _, _, _] he hf rfl rfl)
  have hc : readSlot xb wd = readSimm 0xC xb wd := slot_simm (classOf he hf rfl) (part [_] he hf rfl rfl)
  rw [hc, read_muli, fixed_nil, q0, q1, q2]

theorem read_br (xb : Ext) (wd : BitVec 32) : readCtrl 0x0 xb wd =
    plain xb wd [] (.br (fld wd 0 22)) := rfl

theorem Encodes.br (o : BitVec 22) : Encodes.Statement (.br o) := by
  refine Encodes.ofPlain (fun xb hu => ?_) rfl
  have hf : Fits [(4, 0x2), (6, 0x0), (22, o.toNat)] :=
    ⟨by decide, by decide, o.isLt, trivial⟩
  have he := word_pack _ rfl hf
  generalize word [(4, 0x2), (6, 0x0), (22, o.toNat)] = wd at *
  have q0 : fld wd 0 22 = o := fld_eq (part [_, _] he hf rfl rfl)
  have hc : readSlot xb wd = readCtrl 0x0 xb wd := slot_ctrl (classOf he hf rfl) (part [_] he hf rfl rfl)
  rw [hc, read_br, plain_eq hu, fixed_nil, q0]

theorem read_brp (xb : Ext) (wd : BitVec 32) : readCtrl 0x1 xb wd =
    plain xb wd [] (.brp (fld wd 18 4) (fld wd 0 18)) := rfl

theorem Encodes.brp (p : BitVec 4) (o : BitVec 18) : Encodes.Statement (.brp p o) := by
  refine Encodes.ofPlain (fun xb hu => ?_) rfl
  have hf : Fits [(4, 0x2), (6, 0x1), (4, p.toNat), (18, o.toNat)] :=
    ⟨by decide, by decide, p.isLt, o.isLt, trivial⟩
  have he := word_pack _ rfl hf
  generalize word [(4, 0x2), (6, 0x1), (4, p.toNat), (18, o.toNat)] = wd at *
  have q0 : fld wd 18 4 = p := fld_eq (part [_, _] he hf rfl rfl)
  have q1 : fld wd 0 18 = o := fld_eq (part [_, _, _] he hf rfl rfl)
  have hc : readSlot xb wd = readCtrl 0x1 xb wd := slot_ctrl (classOf he hf rfl) (part [_] he hf rfl rfl)
  rw [hc, read_brp, plain_eq hu, fixed_nil, q0, q1]

theorem read_brnp (xb : Ext) (wd : BitVec 32) : readCtrl 0x2 xb wd =
    plain xb wd [] (.brnp (fld wd 18 4) (fld wd 0 18)) := rfl

theorem Encodes.brnp (p : BitVec 4) (o : BitVec 18) : Encodes.Statement (.brnp p o) := by
  refine Encodes.ofPlain (fun xb hu => ?_) rfl
  have hf : Fits [(4, 0x2), (6, 0x2), (4, p.toNat), (18, o.toNat)] :=
    ⟨by decide, by decide, p.isLt, o.isLt, trivial⟩
  have he := word_pack _ rfl hf
  generalize word [(4, 0x2), (6, 0x2), (4, p.toNat), (18, o.toNat)] = wd at *
  have q0 : fld wd 18 4 = p := fld_eq (part [_, _] he hf rfl rfl)
  have q1 : fld wd 0 18 = o := fld_eq (part [_, _, _] he hf rfl rfl)
  have hc : readSlot xb wd = readCtrl 0x2 xb wd := slot_ctrl (classOf he hf rfl) (part [_] he hf rfl rfl)
  rw [hc, read_brnp, plain_eq hu, fixed_nil, q0, q1]

theorem read_call (xb : Ext) (wd : BitVec 32) : readCtrl 0x3 xb wd =
    plain xb wd [] (.call (fld wd 0 22)) := rfl

theorem Encodes.call (o : BitVec 22) : Encodes.Statement (.call o) := by
  refine Encodes.ofPlain (fun xb hu => ?_) rfl
  have hf : Fits [(4, 0x2), (6, 0x3), (22, o.toNat)] :=
    ⟨by decide, by decide, o.isLt, trivial⟩
  have he := word_pack _ rfl hf
  generalize word [(4, 0x2), (6, 0x3), (22, o.toNat)] = wd at *
  have q0 : fld wd 0 22 = o := fld_eq (part [_, _] he hf rfl rfl)
  have hc : readSlot xb wd = readCtrl 0x3 xb wd := slot_ctrl (classOf he hf rfl) (part [_] he hf rfl rfl)
  rw [hc, read_call, plain_eq hu, fixed_nil, q0]

theorem read_ret (xb : Ext) (wd : BitVec 32) : readCtrl 0x4 xb wd =
    plain xb wd [(0, 12, 0x0, 3), (12, 5, 0x0, 3), (17, 5, 0x0, 3)] .ret := rfl

theorem Encodes.ret : Encodes.Statement .ret := by
  refine Encodes.ofPlain (fun xb hu => ?_) rfl
  have hf : Fits [(4, 0x2), (6, 0x4), (5, 0x0), (5, 0x0), (12, 0x0)] :=
    ⟨by decide, by decide, by decide, by decide, by decide, trivial⟩
  have he := word_pack _ rfl hf
  generalize word [(4, 0x2), (6, 0x4), (5, 0x0), (5, 0x0), (12, 0x0)] = wd at *
  have hc : readSlot xb wd = readCtrl 0x4 xb wd := slot_ctrl (classOf he hf rfl) (part [_] he hf rfl rfl)
  have g0 : wd.toNat / 2 ^ 0 % 2 ^ 12 = 0x0 := part [_, _, _, _] he hf rfl rfl
  have g1 : wd.toNat / 2 ^ 12 % 2 ^ 5 = 0x0 := part [_, _, _] he hf rfl rfl
  have g2 : wd.toNat / 2 ^ 17 % 2 ^ 5 = 0x0 := part [_, _] he hf rfl rfl
  rw [hc, read_ret, plain_eq hu, fixed_cons g0, fixed_cons g1, fixed_cons g2, fixed_nil]

theorem read_jr (xb : Ext) (wd : BitVec 32) : readCtrl 0x5 xb wd =
    plain xb wd [(17, 5, 0x0, 3)] (.jr (fld wd 12 5) (fld wd 0 12)) := rfl

theorem Encodes.jr (a : BitVec 5) (i : BitVec 12) : Encodes.Statement (.jr a i) := by
  refine Encodes.ofPlain (fun xb hu => ?_) rfl
  have hf : Fits [(4, 0x2), (6, 0x5), (5, 0x0), (5, a.toNat), (12, i.toNat)] :=
    ⟨by decide, by decide, by decide, a.isLt, i.isLt, trivial⟩
  have he := word_pack _ rfl hf
  generalize word [(4, 0x2), (6, 0x5), (5, 0x0), (5, a.toNat), (12, i.toNat)] = wd at *
  have q0 : fld wd 12 5 = a := fld_eq (part [_, _, _] he hf rfl rfl)
  have q1 : fld wd 0 12 = i := fld_eq (part [_, _, _, _] he hf rfl rfl)
  have hc : readSlot xb wd = readCtrl 0x5 xb wd := slot_ctrl (classOf he hf rfl) (part [_] he hf rfl rfl)
  have g0 : wd.toNat / 2 ^ 17 % 2 ^ 5 = 0x0 := part [_, _] he hf rfl rfl
  rw [hc, read_jr, plain_eq hu, fixed_cons g0, fixed_nil, q0, q1]

theorem read_loopi (xb : Ext) (wd : BitVec 32) : readCtrl 0x6 xb wd =
    plain xb wd [(5, 7, 0x0, 3), (17, 5, 0x0, 3)] (.loopi (fld wd 12 5) (fld wd 3 2) (fld wd 0 3)) := rfl

theorem Encodes.loopi (a : BitVec 5) (s : BitVec 2) (b : BitVec 3) : Encodes.Statement (.loopi a s b) := by
  refine Encodes.ofPlain (fun xb hu => ?_) rfl
  have hf : Fits [(4, 0x2), (6, 0x6), (5, 0x0), (5, a.toNat), (7, 0x0), (2, s.toNat), (3, b.toNat)] :=
    ⟨by decide, by decide, by decide, a.isLt, by decide, s.isLt, b.isLt, trivial⟩
  have he := word_pack _ rfl hf
  generalize word [(4, 0x2), (6, 0x6), (5, 0x0), (5, a.toNat), (7, 0x0), (2, s.toNat), (3, b.toNat)] = wd at *
  have q0 : fld wd 12 5 = a := fld_eq (part [_, _, _] he hf rfl rfl)
  have q1 : fld wd 3 2 = s := fld_eq (part [_, _, _, _, _] he hf rfl rfl)
  have q2 : fld wd 0 3 = b := fld_eq (part [_, _, _, _, _, _] he hf rfl rfl)
  have hc : readSlot xb wd = readCtrl 0x6 xb wd := slot_ctrl (classOf he hf rfl) (part [_] he hf rfl rfl)
  have g0 : wd.toNat / 2 ^ 5 % 2 ^ 7 = 0x0 := part [_, _, _, _] he hf rfl rfl
  have g1 : wd.toNat / 2 ^ 17 % 2 ^ 5 = 0x0 := part [_, _] he hf rfl rfl
  rw [hc, read_loopi, plain_eq hu, fixed_cons g0, fixed_cons g1, fixed_nil, q0, q1, q2]

theorem read_loop (xb : Ext) (wd : BitVec 32) : readCtrl 0x7 xb wd =
    plain xb wd [] (.loop (fld wd 0 22)) := rfl

theorem Encodes.loop (o : BitVec 22) : Encodes.Statement (.loop o) := by
  refine Encodes.ofPlain (fun xb hu => ?_) rfl
  have hf : Fits [(4, 0x2), (6, 0x7), (22, o.toNat)] :=
    ⟨by decide, by decide, o.isLt, trivial⟩
  have he := word_pack _ rfl hf
  generalize word [(4, 0x2), (6, 0x7), (22, o.toNat)] = wd at *
  have q0 : fld wd 0 22 = o := fld_eq (part [_, _] he hf rfl rfl)
  have hc : readSlot xb wd = readCtrl 0x7 xb wd := slot_ctrl (classOf he hf rfl) (part [_] he hf rfl rfl)
  rw [hc, read_loop, plain_eq hu, fixed_nil, q0]

theorem read_waitc (xb : Ext) (wd : BitVec 32) : readCtrl 0x8 xb wd =
    plain xb wd [(17, 5, 0x0, 3)] (.waitc (fld wd 12 5) (fld wd 0 12)) := rfl

theorem Encodes.waitc (a : BitVec 5) (i : BitVec 12) : Encodes.Statement (.waitc a i) := by
  refine Encodes.ofPlain (fun xb hu => ?_) rfl
  have hf : Fits [(4, 0x2), (6, 0x8), (5, 0x0), (5, a.toNat), (12, i.toNat)] :=
    ⟨by decide, by decide, by decide, a.isLt, i.isLt, trivial⟩
  have he := word_pack _ rfl hf
  generalize word [(4, 0x2), (6, 0x8), (5, 0x0), (5, a.toNat), (12, i.toNat)] = wd at *
  have q0 : fld wd 12 5 = a := fld_eq (part [_, _, _] he hf rfl rfl)
  have q1 : fld wd 0 12 = i := fld_eq (part [_, _, _, _] he hf rfl rfl)
  have hc : readSlot xb wd = readCtrl 0x8 xb wd := slot_ctrl (classOf he hf rfl) (part [_] he hf rfl rfl)
  have g0 : wd.toNat / 2 ^ 17 % 2 ^ 5 = 0x0 := part [_, _] he hf rfl rfl
  rw [hc, read_waitc, plain_eq hu, fixed_cons g0, fixed_nil, q0, q1]

theorem read_fmtset (xb : Ext) (wd : BitVec 32) : readCtrl 0x9 xb wd =
    plain xb wd [(15, 1, 0x0, 5), (18, 4, 0x0, 5)] (.fmtset (fld wd 16 2) (fld wd 14 1) (fld wd 12 2) (fld wd 8 4) (fld wd 4 4) (fld wd 0 4)) := rfl

theorem Encodes.fmtset (c : BitVec 2) (s : BitVec 1) (r : BitVec 2) (o a e : BitVec 4) : Encodes.Statement (.fmtset c s r o a e) := by
  refine Encodes.ofPlain (fun xb hu => ?_) rfl
  have hf : Fits [(4, 0x2), (6, 0x9), (4, 0x0), (2, c.toNat), (1, 0x0), (1, s.toNat), (2, r.toNat), (4, o.toNat), (4, a.toNat), (4, e.toNat)] :=
    ⟨by decide, by decide, by decide, c.isLt, by decide, s.isLt, r.isLt, o.isLt, a.isLt, e.isLt, trivial⟩
  have he := word_pack _ rfl hf
  generalize word [(4, 0x2), (6, 0x9), (4, 0x0), (2, c.toNat), (1, 0x0), (1, s.toNat), (2, r.toNat), (4, o.toNat), (4, a.toNat), (4, e.toNat)] = wd at *
  have q0 : fld wd 16 2 = c := fld_eq (part [_, _, _] he hf rfl rfl)
  have q1 : fld wd 14 1 = s := fld_eq (part [_, _, _, _, _] he hf rfl rfl)
  have q2 : fld wd 12 2 = r := fld_eq (part [_, _, _, _, _, _] he hf rfl rfl)
  have q3 : fld wd 8 4 = o := fld_eq (part [_, _, _, _, _, _, _] he hf rfl rfl)
  have q4 : fld wd 4 4 = a := fld_eq (part [_, _, _, _, _, _, _, _] he hf rfl rfl)
  have q5 : fld wd 0 4 = e := fld_eq (part [_, _, _, _, _, _, _, _, _] he hf rfl rfl)
  have hc : readSlot xb wd = readCtrl 0x9 xb wd := slot_ctrl (classOf he hf rfl) (part [_] he hf rfl rfl)
  have g0 : wd.toNat / 2 ^ 15 % 2 ^ 1 = 0x0 := part [_, _, _, _] he hf rfl rfl
  have g1 : wd.toNat / 2 ^ 18 % 2 ^ 4 = 0x0 := part [_, _] he hf rfl rfl
  rw [hc, read_fmtset, plain_eq hu, fixed_cons g0, fixed_cons g1, fixed_nil, q0, q1, q2, q3, q4, q5]

theorem read_fmtget (xb : Ext) (wd : BitVec 32) : readCtrl 0xA xb wd =
    plain xb wd [(0, 12, 0x0, 3), (12, 5, 0x0, 3)] (.fmtget (fld wd 17 5)) := rfl

theorem Encodes.fmtget (d : BitVec 5) : Encodes.Statement (.fmtget d) := by
  refine Encodes.ofPlain (fun xb hu => ?_) rfl
  have hf : Fits [(4, 0x2), (6, 0xA), (5, d.toNat), (5, 0x0), (12, 0x0)] :=
    ⟨by decide, by decide, d.isLt, by decide, by decide, trivial⟩
  have he := word_pack _ rfl hf
  generalize word [(4, 0x2), (6, 0xA), (5, d.toNat), (5, 0x0), (12, 0x0)] = wd at *
  have q0 : fld wd 17 5 = d := fld_eq (part [_, _] he hf rfl rfl)
  have hc : readSlot xb wd = readCtrl 0xA xb wd := slot_ctrl (classOf he hf rfl) (part [_] he hf rfl rfl)
  have g0 : wd.toNat / 2 ^ 0 % 2 ^ 12 = 0x0 := part [_, _, _, _] he hf rfl rfl
  have g1 : wd.toNat / 2 ^ 12 % 2 ^ 5 = 0x0 := part [_, _, _] he hf rfl rfl
  rw [hc, read_fmtget, plain_eq hu, fixed_cons g0, fixed_cons g1, fixed_nil, q0]

theorem read_halt (xb : Ext) (wd : BitVec 32) : readCtrl 0xB xb wd =
    plain xb wd [(0, 12, 0x0, 3), (12, 5, 0x0, 3), (17, 5, 0x0, 3)] .halt := rfl

theorem Encodes.halt : Encodes.Statement .halt := by
  refine Encodes.ofPlain (fun xb hu => ?_) rfl
  have hf : Fits [(4, 0x2), (6, 0xB), (5, 0x0), (5, 0x0), (12, 0x0)] :=
    ⟨by decide, by decide, by decide, by decide, by decide, trivial⟩
  have he := word_pack _ rfl hf
  generalize word [(4, 0x2), (6, 0xB), (5, 0x0), (5, 0x0), (12, 0x0)] = wd at *
  have hc : readSlot xb wd = readCtrl 0xB xb wd := slot_ctrl (classOf he hf rfl) (part [_] he hf rfl rfl)
  have g0 : wd.toNat / 2 ^ 0 % 2 ^ 12 = 0x0 := part [_, _, _, _] he hf rfl rfl
  have g1 : wd.toNat / 2 ^ 12 % 2 ^ 5 = 0x0 := part [_, _, _] he hf rfl rfl
  have g2 : wd.toNat / 2 ^ 17 % 2 ^ 5 = 0x0 := part [_, _] he hf rfl rfl
  rw [hc, read_halt, plain_eq hu, fixed_cons g0, fixed_cons g1, fixed_cons g2, fixed_nil]

theorem read_trap (xb : Ext) (wd : BitVec 32) : readSys 0x0 xb wd =
    plain xb wd [(12, 5, 0x0, 3), (17, 5, 0x0, 3)] (.trap (fld wd 0 12)) := rfl

theorem Encodes.trap (i : BitVec 12) : Encodes.Statement (.trap i) := by
  refine Encodes.ofPlain (fun xb hu => ?_) rfl
  have hf : Fits [(4, 0x3), (6, 0x0), (5, 0x0), (5, 0x0), (12, i.toNat)] :=
    ⟨by decide, by decide, by decide, by decide, i.isLt, trivial⟩
  have he := word_pack _ rfl hf
  generalize word [(4, 0x3), (6, 0x0), (5, 0x0), (5, 0x0), (12, i.toNat)] = wd at *
  have q0 : fld wd 0 12 = i := fld_eq (part [_, _, _, _] he hf rfl rfl)
  have hc : readSlot xb wd = readSys 0x0 xb wd := slot_sys (classOf he hf rfl) (part [_] he hf rfl rfl)
  have g0 : wd.toNat / 2 ^ 12 % 2 ^ 5 = 0x0 := part [_, _, _] he hf rfl rfl
  have g1 : wd.toNat / 2 ^ 17 % 2 ^ 5 = 0x0 := part [_, _] he hf rfl rfl
  rw [hc, read_trap, plain_eq hu, fixed_cons g0, fixed_cons g1, fixed_nil, q0]

theorem read_csrr (xb : Ext) (wd : BitVec 32) : readSys 0x1 xb wd =
    plain xb wd [(12, 5, 0x0, 3)] (.csrr (fld wd 17 5) (fld wd 0 12)) := rfl

theorem Encodes.csrr (d : BitVec 5) (c : BitVec 12) : Encodes.Statement (.csrr d c) := by
  refine Encodes.ofPlain (fun xb hu => ?_) rfl
  have hf : Fits [(4, 0x3), (6, 0x1), (5, d.toNat), (5, 0x0), (12, c.toNat)] :=
    ⟨by decide, by decide, d.isLt, by decide, c.isLt, trivial⟩
  have he := word_pack _ rfl hf
  generalize word [(4, 0x3), (6, 0x1), (5, d.toNat), (5, 0x0), (12, c.toNat)] = wd at *
  have q0 : fld wd 17 5 = d := fld_eq (part [_, _] he hf rfl rfl)
  have q1 : fld wd 0 12 = c := fld_eq (part [_, _, _, _] he hf rfl rfl)
  have hc : readSlot xb wd = readSys 0x1 xb wd := slot_sys (classOf he hf rfl) (part [_] he hf rfl rfl)
  have g0 : wd.toNat / 2 ^ 12 % 2 ^ 5 = 0x0 := part [_, _, _] he hf rfl rfl
  rw [hc, read_csrr, plain_eq hu, fixed_cons g0, fixed_nil, q0, q1]

theorem read_csrw (xb : Ext) (wd : BitVec 32) : readSys 0x2 xb wd =
    plain xb wd [] (.csrw (fld wd 17 5) (fld wd 12 5) (fld wd 0 12)) := rfl

theorem Encodes.csrw (d a : BitVec 5) (c : BitVec 12) : Encodes.Statement (.csrw d a c) := by
  refine Encodes.ofPlain (fun xb hu => ?_) rfl
  have hf : Fits [(4, 0x3), (6, 0x2), (5, d.toNat), (5, a.toNat), (12, c.toNat)] :=
    ⟨by decide, by decide, d.isLt, a.isLt, c.isLt, trivial⟩
  have he := word_pack _ rfl hf
  generalize word [(4, 0x3), (6, 0x2), (5, d.toNat), (5, a.toNat), (12, c.toNat)] = wd at *
  have q0 : fld wd 17 5 = d := fld_eq (part [_, _] he hf rfl rfl)
  have q1 : fld wd 12 5 = a := fld_eq (part [_, _, _] he hf rfl rfl)
  have q2 : fld wd 0 12 = c := fld_eq (part [_, _, _, _] he hf rfl rfl)
  have hc : readSlot xb wd = readSys 0x2 xb wd := slot_sys (classOf he hf rfl) (part [_] he hf rfl rfl)
  rw [hc, read_csrw, plain_eq hu, fixed_nil, q0, q1, q2]

theorem read_csrs (xb : Ext) (wd : BitVec 32) : readSys 0x3 xb wd =
    plain xb wd [] (.csrs (fld wd 17 5) (fld wd 12 5) (fld wd 0 12)) := rfl

theorem Encodes.csrs (d a : BitVec 5) (c : BitVec 12) : Encodes.Statement (.csrs d a c) := by
  refine Encodes.ofPlain (fun xb hu => ?_) rfl
  have hf : Fits [(4, 0x3), (6, 0x3), (5, d.toNat), (5, a.toNat), (12, c.toNat)] :=
    ⟨by decide, by decide, d.isLt, a.isLt, c.isLt, trivial⟩
  have he := word_pack _ rfl hf
  generalize word [(4, 0x3), (6, 0x3), (5, d.toNat), (5, a.toNat), (12, c.toNat)] = wd at *
  have q0 : fld wd 17 5 = d := fld_eq (part [_, _] he hf rfl rfl)
  have q1 : fld wd 12 5 = a := fld_eq (part [_, _, _] he hf rfl rfl)
  have q2 : fld wd 0 12 = c := fld_eq (part [_, _, _, _] he hf rfl rfl)
  have hc : readSlot xb wd = readSys 0x3 xb wd := slot_sys (classOf he hf rfl) (part [_] he hf rfl rfl)
  rw [hc, read_csrs, plain_eq hu, fixed_nil, q0, q1, q2]

theorem read_csrc (xb : Ext) (wd : BitVec 32) : readSys 0x4 xb wd =
    plain xb wd [] (.csrc (fld wd 17 5) (fld wd 12 5) (fld wd 0 12)) := rfl

theorem Encodes.csrc (d a : BitVec 5) (c : BitVec 12) : Encodes.Statement (.csrc d a c) := by
  refine Encodes.ofPlain (fun xb hu => ?_) rfl
  have hf : Fits [(4, 0x3), (6, 0x4), (5, d.toNat), (5, a.toNat), (12, c.toNat)] :=
    ⟨by decide, by decide, d.isLt, a.isLt, c.isLt, trivial⟩
  have he := word_pack _ rfl hf
  generalize word [(4, 0x3), (6, 0x4), (5, d.toNat), (5, a.toNat), (12, c.toNat)] = wd at *
  have q0 : fld wd 17 5 = d := fld_eq (part [_, _] he hf rfl rfl)
  have q1 : fld wd 12 5 = a := fld_eq (part [_, _, _] he hf rfl rfl)
  have q2 : fld wd 0 12 = c := fld_eq (part [_, _, _, _] he hf rfl rfl)
  have hc : readSlot xb wd = readSys 0x4 xb wd := slot_sys (classOf he hf rfl) (part [_] he hf rfl rfl)
  rw [hc, read_csrc, plain_eq hu, fixed_nil, q0, q1, q2]

theorem read_rdcyc (xb : Ext) (wd : BitVec 32) : readSys 0x5 xb wd =
    plain xb wd [(0, 12, 0x0, 3), (12, 5, 0x0, 3)] (.rdcyc (fld wd 17 5)) := rfl

theorem Encodes.rdcyc (d : BitVec 5) : Encodes.Statement (.rdcyc d) := by
  refine Encodes.ofPlain (fun xb hu => ?_) rfl
  have hf : Fits [(4, 0x3), (6, 0x5), (5, d.toNat), (5, 0x0), (12, 0x0)] :=
    ⟨by decide, by decide, d.isLt, by decide, by decide, trivial⟩
  have he := word_pack _ rfl hf
  generalize word [(4, 0x3), (6, 0x5), (5, d.toNat), (5, 0x0), (12, 0x0)] = wd at *
  have q0 : fld wd 17 5 = d := fld_eq (part [_, _] he hf rfl rfl)
  have hc : readSlot xb wd = readSys 0x5 xb wd := slot_sys (classOf he hf rfl) (part [_] he hf rfl rfl)
  have g0 : wd.toNat / 2 ^ 0 % 2 ^ 12 = 0x0 := part [_, _, _, _] he hf rfl rfl
  have g1 : wd.toNat / 2 ^ 12 % 2 ^ 5 = 0x0 := part [_, _, _] he hf rfl rfl
  rw [hc, read_rdcyc, plain_eq hu, fixed_cons g0, fixed_cons g1, fixed_nil, q0]

theorem read_rdgcy (xb : Ext) (wd : BitVec 32) : readSys 0x6 xb wd =
    plain xb wd [(0, 12, 0x0, 3), (12, 5, 0x0, 3)] (.rdgcy (fld wd 17 5)) := rfl

theorem Encodes.rdgcy (d : BitVec 5) : Encodes.Statement (.rdgcy d) := by
  refine Encodes.ofPlain (fun xb hu => ?_) rfl
  have hf : Fits [(4, 0x3), (6, 0x6), (5, d.toNat), (5, 0x0), (12, 0x0)] :=
    ⟨by decide, by decide, d.isLt, by decide, by decide, trivial⟩
  have he := word_pack _ rfl hf
  generalize word [(4, 0x3), (6, 0x6), (5, d.toNat), (5, 0x0), (12, 0x0)] = wd at *
  have q0 : fld wd 17 5 = d := fld_eq (part [_, _] he hf rfl rfl)
  have hc : readSlot xb wd = readSys 0x6 xb wd := slot_sys (classOf he hf rfl) (part [_] he hf rfl rfl)
  have g0 : wd.toNat / 2 ^ 0 % 2 ^ 12 = 0x0 := part [_, _, _, _] he hf rfl rfl
  have g1 : wd.toNat / 2 ^ 12 % 2 ^ 5 = 0x0 := part [_, _, _] he hf rfl rfl
  rw [hc, read_rdgcy, plain_eq hu, fixed_cons g0, fixed_cons g1, fixed_nil, q0]

theorem read_rdwhl (xb : Ext) (wd : BitVec 32) : readSys 0x7 xb wd =
    plain xb wd [(0, 12, 0x0, 3), (12, 5, 0x0, 3)] (.rdwhl (fld wd 17 5)) := rfl

theorem Encodes.rdwhl (d : BitVec 5) : Encodes.Statement (.rdwhl d) := by
  refine Encodes.ofPlain (fun xb hu => ?_) rfl
  have hf : Fits [(4, 0x3), (6, 0x7), (5, d.toNat), (5, 0x0), (12, 0x0)] :=
    ⟨by decide, by decide, d.isLt, by decide, by decide, trivial⟩
  have he := word_pack _ rfl hf
  generalize word [(4, 0x3), (6, 0x7), (5, d.toNat), (5, 0x0), (12, 0x0)] = wd at *
  have q0 : fld wd 17 5 = d := fld_eq (part [_, _] he hf rfl rfl)
  have hc : readSlot xb wd = readSys 0x7 xb wd := slot_sys (classOf he hf rfl) (part [_] he hf rfl rfl)
  have g0 : wd.toNat / 2 ^ 0 % 2 ^ 12 = 0x0 := part [_, _, _, _] he hf rfl rfl
  have g1 : wd.toNat / 2 ^ 12 % 2 ^ 5 = 0x0 := part [_, _, _] he hf rfl rfl
  rw [hc, read_rdwhl, plain_eq hu, fixed_cons g0, fixed_cons g1, fixed_nil, q0]

theorem read_twincmp (xb : Ext) (wd : BitVec 32) (hb : fld wd 11 1 = 0) : readSys 0x8 xb wd =
    plain xb wd [(0, 12, 0x0, 5), (17, 5, 0x0, 5)] (.twincmp (fld wd 12 5)) := if_neg (by rw [hb]; decide)

theorem Encodes.twincmp (a : BitVec 5) : Encodes.Statement (.twincmp a) := by
  refine Encodes.ofPlain (fun xb hu => ?_) rfl
  have hf : Fits [(4, 0x3), (6, 0x8), (5, 0x0), (5, a.toNat), (12, 0x0)] :=
    ⟨by decide, by decide, by decide, a.isLt, by decide, trivial⟩
  have he := word_pack _ rfl hf
  generalize word [(4, 0x3), (6, 0x8), (5, 0x0), (5, a.toNat), (12, 0x0)] = wd at *
  have q0 : fld wd 12 5 = a := fld_eq (part [_, _, _] he hf rfl rfl)
  have hc : readSlot xb wd = readSys 0x8 xb wd := slot_sys (classOf he hf rfl) (part [_] he hf rfl rfl)
  have hg : wd.toNat / 2 ^ 0 % 2 ^ 12 = 0x0 := part [_, _, _, _] he hf rfl rfl
  have hb : fld wd 11 1 = 0 := fld_eq (by rw [show (0 : BitVec 1).toNat = 0 from rfl]; omega)
  have g0 : wd.toNat / 2 ^ 0 % 2 ^ 12 = 0x0 := part [_, _, _, _] he hf rfl rfl
  have g1 : wd.toNat / 2 ^ 17 % 2 ^ 5 = 0x0 := part [_, _] he hf rfl rfl
  rw [hc, read_twincmp xb wd hb, plain_eq hu, fixed_cons g0, fixed_cons g1, fixed_nil, q0]

theorem read_twincmpTile (xb : Ext) (wd : BitVec 32) (hb : fld wd 11 1 = 1) : readSys 0x8 xb wd =
    plain xb wd [(6, 6, 0x20, 5), (12, 5, 0x0, 5), (17, 5, 0x0, 5)] (.twincmpTile (fld wd 0 6)) := if_pos hb

theorem Encodes.twincmpTile (k : BitVec 6) : Encodes.Statement (.twincmpTile k) := by
  refine Encodes.ofPlain (fun xb hu => ?_) rfl
  have hf : Fits [(4, 0x3), (6, 0x8), (5, 0x0), (5, 0x0), (6, 0x20), (6, k.toNat)] :=
    ⟨by decide, by decide, by decide, by decide, by decide, k.isLt, trivial⟩
  have he := word_pack _ rfl hf
  generalize word [(4, 0x3), (6, 0x8), (5, 0x0), (5, 0x0), (6, 0x20), (6, k.toNat)] = wd at *
  have q0 : fld wd 0 6 = k := fld_eq (part [_, _, _, _, _] he hf rfl rfl)
  have hc : readSlot xb wd = readSys 0x8 xb wd := slot_sys (classOf he hf rfl) (part [_] he hf rfl rfl)
  have hg : wd.toNat / 2 ^ 6 % 2 ^ 6 = 0x20 := part [_, _, _, _] he hf rfl rfl
  have hb : fld wd 11 1 = 1 := fld_eq (by rw [show (1 : BitVec 1).toNat = 1 from rfl]; omega)
  have g0 : wd.toNat / 2 ^ 6 % 2 ^ 6 = 0x20 := part [_, _, _, _] he hf rfl rfl
  have g1 : wd.toNat / 2 ^ 12 % 2 ^ 5 = 0x0 := part [_, _, _] he hf rfl rfl
  have g2 : wd.toNat / 2 ^ 17 % 2 ^ 5 = 0x0 := part [_, _] he hf rfl rfl
  rw [hc, read_twincmpTile xb wd hb, plain_eq hu, fixed_cons g0, fixed_cons g1, fixed_cons g2, fixed_nil, q0]

theorem read_fence (xb : Ext) (wd : BitVec 32) : readSys 0x9 xb wd =
    plain xb wd [(2, 10, 0x0, 3), (12, 5, 0x0, 3), (17, 5, 0x0, 3)] (.fence (fld wd 0 2)) := rfl

theorem Encodes.fence (s : BitVec 2) : Encodes.Statement (.fence s) := by
  refine Encodes.ofPlain (fun xb hu => ?_) rfl
  have hf : Fits [(4, 0x3), (6, 0x9), (5, 0x0), (5, 0x0), (10, 0x0), (2, s.toNat)] :=
    ⟨by decide, by decide, by decide, by decide, by decide, s.isLt, trivial⟩
  have he := word_pack _ rfl hf
  generalize word [(4, 0x3), (6, 0x9), (5, 0x0), (5, 0x0), (10, 0x0), (2, s.toNat)] = wd at *
  have q0 : fld wd 0 2 = s := fld_eq (part [_, _, _, _, _] he hf rfl rfl)
  have hc : readSlot xb wd = readSys 0x9 xb wd := slot_sys (classOf he hf rfl) (part [_] he hf rfl rfl)
  have g0 : wd.toNat / 2 ^ 2 % 2 ^ 10 = 0x0 := part [_, _, _, _] he hf rfl rfl
  have g1 : wd.toNat / 2 ^ 12 % 2 ^ 5 = 0x0 := part [_, _, _] he hf rfl rfl
  have g2 : wd.toNat / 2 ^ 17 % 2 ^ 5 = 0x0 := part [_, _] he hf rfl rfl
  rw [hc, read_fence, plain_eq hu, fixed_cons g0, fixed_cons g1, fixed_cons g2, fixed_nil, q0]

theorem read_fencec (xb : Ext) (wd : BitVec 32) : readSys 0xA xb wd =
    plain xb wd [(2, 10, 0x0, 3), (12, 5, 0x0, 3)] (.fencec (fld wd 17 5) (fld wd 0 2)) := rfl

theorem Encodes.fencec (d : BitVec 5) (s : BitVec 2) : Encodes.Statement (.fencec d s) := by
  refine Encodes.ofPlain (fun xb hu => ?_) rfl
  have hf : Fits [(4, 0x3), (6, 0xA), (5, d.toNat), (5, 0x0), (10, 0x0), (2, s.toNat)] :=
    ⟨by decide, by decide, d.isLt, by decide, by decide, s.isLt, trivial⟩
  have he := word_pack _ rfl hf
  generalize word [(4, 0x3), (6, 0xA), (5, d.toNat), (5, 0x0), (10, 0x0), (2, s.toNat)] = wd at *
  have q0 : fld wd 17 5 = d := fld_eq (part [_, _] he hf rfl rfl)
  have q1 : fld wd 0 2 = s := fld_eq (part [_, _, _, _, _] he hf rfl rfl)
  have hc : readSlot xb wd = readSys 0xA xb wd := slot_sys (classOf he hf rfl) (part [_] he hf rfl rfl)
  have g0 : wd.toNat / 2 ^ 2 % 2 ^ 10 = 0x0 := part [_, _, _, _] he hf rfl rfl
  have g1 : wd.toNat / 2 ^ 12 % 2 ^ 5 = 0x0 := part [_, _, _] he hf rfl rfl
  rw [hc, read_fencec, plain_eq hu, fixed_cons g0, fixed_cons g1, fixed_nil, q0, q1]

theorem read_scfence (xb : Ext) (wd : BitVec 32) : readSys 0xB xb wd =
    plain xb wd [(2, 10, 0x0, 3), (12, 5, 0x0, 3)] (.scfence (fld wd 17 5) (fld wd 0 2)) := rfl

theorem Encodes.scfence (d : BitVec 5) (s : BitVec 2) : Encodes.Statement (.scfence d s) := by
  refine Encodes.ofPlain (fun xb hu => ?_) rfl
  have hf : Fits [(4, 0x3), (6, 0xB), (5, d.toNat), (5, 0x0), (10, 0x0), (2, s.toNat)] :=
    ⟨by decide, by decide, d.isLt, by decide, by decide, s.isLt, trivial⟩
  have he := word_pack _ rfl hf
  generalize word [(4, 0x3), (6, 0xB), (5, d.toNat), (5, 0x0), (10, 0x0), (2, s.toNat)] = wd at *
  have q0 : fld wd 17 5 = d := fld_eq (part [_, _] he hf rfl rfl)
  have q1 : fld wd 0 2 = s := fld_eq (part [_, _, _, _, _] he hf rfl rfl)
  have hc : readSlot xb wd = readSys 0xB xb wd := slot_sys (classOf he hf rfl) (part [_] he hf rfl rfl)
  have g0 : wd.toNat / 2 ^ 2 % 2 ^ 10 = 0x0 := part [_, _, _, _] he hf rfl rfl
  have g1 : wd.toNat / 2 ^ 12 % 2 ^ 5 = 0x0 := part [_, _, _] he hf rfl rfl
  rw [hc, read_scfence, plain_eq hu, fixed_cons g0, fixed_cons g1, fixed_nil, q0, q1]

theorem read_brk (xb : Ext) (wd : BitVec 32) : readSys 0xC xb wd =
    plain xb wd [(12, 5, 0x0, 3), (17, 5, 0x0, 3)] (.brk (fld wd 0 12)) := rfl

theorem Encodes.brk (i : BitVec 12) : Encodes.Statement (.brk i) := by
  refine Encodes.ofPlain (fun xb hu => ?_) rfl
  have hf : Fits [(4, 0x3), (6, 0xC), (5, 0x0), (5, 0x0), (12, i.toNat)] :=
    ⟨by decide, by decide, by decide, by decide, i.isLt, trivial⟩
  have he := word_pack _ rfl hf
  generalize word [(4, 0x3), (6, 0xC), (5, 0x0), (5, 0x0), (12, i.toNat)] = wd at *
  have q0 : fld wd 0 12 = i := fld_eq (part [_, _, _, _] he hf rfl rfl)
  have hc : readSlot xb wd = readSys 0xC xb wd := slot_sys (classOf he hf rfl) (part [_] he hf rfl rfl)
  have g0 : wd.toNat / 2 ^ 12 % 2 ^ 5 = 0x0 := part [_, _, _] he hf rfl rfl
  have g1 : wd.toNat / 2 ^ 17 % 2 ^ 5 = 0x0 := part [_, _] he hf rfl rfl
  rw [hc, read_brk, plain_eq hu, fixed_cons g0, fixed_cons g1, fixed_nil, q0]

theorem read_detn (xb : Ext) (wd : BitVec 32) : readSys 0xD xb wd =
    plain xb wd [(8, 4, 0x0, 3), (12, 5, 0x0, 3)] (.detn (fld wd 17 5) (fld wd 0 8)) := rfl

theorem Encodes.detn (d : BitVec 5) (c : BitVec 8) : Encodes.Statement (.detn d c) := by
  refine Encodes.ofPlain (fun xb hu => ?_) rfl
  have hf : Fits [(4, 0x3), (6, 0xD), (5, d.toNat), (5, 0x0), (4, 0x0), (8, c.toNat)] :=
    ⟨by decide, by decide, d.isLt, by decide, by decide, c.isLt, trivial⟩
  have he := word_pack _ rfl hf
  generalize word [(4, 0x3), (6, 0xD), (5, d.toNat), (5, 0x0), (4, 0x0), (8, c.toNat)] = wd at *
  have q0 : fld wd 17 5 = d := fld_eq (part [_, _] he hf rfl rfl)
  have q1 : fld wd 0 8 = c := fld_eq (part [_, _, _, _, _] he hf rfl rfl)
  have hc : readSlot xb wd = readSys 0xD xb wd := slot_sys (classOf he hf rfl) (part [_] he hf rfl rfl)
  have g0 : wd.toNat / 2 ^ 8 % 2 ^ 4 = 0x0 := part [_, _, _, _] he hf rfl rfl
  have g1 : wd.toNat / 2 ^ 12 % 2 ^ 5 = 0x0 := part [_, _, _] he hf rfl rfl
  rw [hc, read_detn, plain_eq hu, fixed_cons g0, fixed_cons g1, fixed_nil, q0, q1]

theorem read_dgst (xb : Ext) (wd : BitVec 32) (hb : fld wd 0 1 = 0) : readSys 0xE xb wd =
    plain xb wd [(0, 12, 0x0, 3), (12, 5, 0x0, 3)] (.dgst (fld wd 17 5)) := if_neg (by rw [hb]; decide)

theorem Encodes.dgst (d : BitVec 5) : Encodes.Statement (.dgst d) := by
  refine Encodes.ofPlain (fun xb hu => ?_) rfl
  have hf : Fits [(4, 0x3), (6, 0xE), (5, d.toNat), (5, 0x0), (12, 0x0)] :=
    ⟨by decide, by decide, d.isLt, by decide, by decide, trivial⟩
  have he := word_pack _ rfl hf
  generalize word [(4, 0x3), (6, 0xE), (5, d.toNat), (5, 0x0), (12, 0x0)] = wd at *
  have q0 : fld wd 17 5 = d := fld_eq (part [_, _] he hf rfl rfl)
  have hc : readSlot xb wd = readSys 0xE xb wd := slot_sys (classOf he hf rfl) (part [_] he hf rfl rfl)
  have hg : wd.toNat / 2 ^ 0 % 2 ^ 12 = 0x0 := part [_, _, _, _] he hf rfl rfl
  have hb : fld wd 0 1 = 0 := fld_eq (by rw [show (0 : BitVec 1).toNat = 0 from rfl]; omega)
  have g0 : wd.toNat / 2 ^ 0 % 2 ^ 12 = 0x0 := part [_, _, _, _] he hf rfl rfl
  have g1 : wd.toNat / 2 ^ 12 % 2 ^ 5 = 0x0 := part [_, _, _] he hf rfl rfl
  rw [hc, read_dgst xb wd hb, plain_eq hu, fixed_cons g0, fixed_cons g1, fixed_nil, q0]

theorem read_dgstFold (xb : Ext) (wd : BitVec 32) (hb : fld wd 0 1 = 1) : readSys 0xE xb wd =
    plain xb wd [(0, 12, 0x1, 3), (17, 5, 0x0, 3)] (.dgstFold (fld wd 12 5)) := if_pos hb

theorem Encodes.dgstFold (a : BitVec 5) : Encodes.Statement (.dgstFold a) := by
  refine Encodes.ofPlain (fun xb hu => ?_) rfl
  have hf : Fits [(4, 0x3), (6, 0xE), (5, 0x0), (5, a.toNat), (12, 0x1)] :=
    ⟨by decide, by decide, by decide, a.isLt, by decide, trivial⟩
  have he := word_pack _ rfl hf
  generalize word [(4, 0x3), (6, 0xE), (5, 0x0), (5, a.toNat), (12, 0x1)] = wd at *
  have q0 : fld wd 12 5 = a := fld_eq (part [_, _, _] he hf rfl rfl)
  have hc : readSlot xb wd = readSys 0xE xb wd := slot_sys (classOf he hf rfl) (part [_] he hf rfl rfl)
  have hg : wd.toNat / 2 ^ 0 % 2 ^ 12 = 0x1 := part [_, _, _, _] he hf rfl rfl
  have hb : fld wd 0 1 = 1 := fld_eq (by rw [show (1 : BitVec 1).toNat = 1 from rfl]; omega)
  have g0 : wd.toNat / 2 ^ 0 % 2 ^ 12 = 0x1 := part [_, _, _, _] he hf rfl rfl
  have g1 : wd.toNat / 2 ^ 17 % 2 ^ 5 = 0x0 := part [_, _] he hf rfl rfl
  rw [hc, read_dgstFold xb wd hb, plain_eq hu, fixed_cons g0, fixed_cons g1, fixed_nil, q0]

theorem read_vmov (xb : Ext) (wd : BitVec 32) : readRow 0x0 xb wd =
    fixed wd [(4, 6, 0x20, 5)] (.vmov (fld wd 16 6) (fld wd 10 6) (fld wd 0 4) xb) := rfl

theorem Encodes.vmov (d a : BitVec 6) (p : BitVec 4) (x : Ext) : Encodes.Statement (.vmov d a p x) := by
  refine Encodes.ofExt (f := fun xb => .vmov d a p xb) (fun xb => ?_) (fun _ => rfl) x
  have hf : Fits [(4, 0x4), (6, 0x0), (6, d.toNat), (6, a.toNat), (6, 0x20), (4, p.toNat)] :=
    ⟨by decide, by decide, d.isLt, a.isLt, by decide, p.isLt, trivial⟩
  have he := word_pack _ rfl hf
  generalize word [(4, 0x4), (6, 0x0), (6, d.toNat), (6, a.toNat), (6, 0x20), (4, p.toNat)] = wd at *
  have q0 : fld wd 16 6 = d := fld_eq (part [_, _] he hf rfl rfl)
  have q1 : fld wd 10 6 = a := fld_eq (part [_, _, _] he hf rfl rfl)
  have q2 : fld wd 0 4 = p := fld_eq (part [_, _, _, _, _] he hf rfl rfl)
  have hc : readSlot xb wd = readRow 0x0 xb wd := slot_row (classOf he hf rfl) (part [_] he hf rfl rfl)
  have g0 : wd.toNat / 2 ^ 4 % 2 ^ 6 = 0x20 := part [_, _, _, _] he hf rfl rfl
  rw [hc, read_vmov, fixed_cons g0, fixed_nil, q0, q1, q2]

theorem read_vadd (xb : Ext) (wd : BitVec 32) : readRow 0x1 xb wd =
    fixed wd [] (.vadd (fld wd 16 6) (fld wd 10 6) (fld wd 4 6) (fld wd 0 4) xb) := rfl

theorem Encodes.vadd (d a b : BitVec 6) (p : BitVec 4) (x : Ext) : Encodes.Statement (.vadd d a b p x) := by
  refine Encodes.ofExt (f := fun xb => .vadd d a b p xb) (fun xb => ?_) (fun _ => rfl) x
  have hf : Fits [(4, 0x4), (6, 0x1), (6, d.toNat), (6, a.toNat), (6, b.toNat), (4, p.toNat)] :=
    ⟨by decide, by decide, d.isLt, a.isLt, b.isLt, p.isLt, trivial⟩
  have he := word_pack _ rfl hf
  generalize word [(4, 0x4), (6, 0x1), (6, d.toNat), (6, a.toNat), (6, b.toNat), (4, p.toNat)] = wd at *
  have q0 : fld wd 16 6 = d := fld_eq (part [_, _] he hf rfl rfl)
  have q1 : fld wd 10 6 = a := fld_eq (part [_, _, _] he hf rfl rfl)
  have q2 : fld wd 4 6 = b := fld_eq (part [_, _, _, _] he hf rfl rfl)
  have q3 : fld wd 0 4 = p := fld_eq (part [_, _, _, _, _] he hf rfl rfl)
  have hc : readSlot xb wd = readRow 0x1 xb wd := slot_row (classOf he hf rfl) (part [_] he hf rfl rfl)
  rw [hc, read_vadd, fixed_nil, q0, q1, q2, q3]

theorem read_vsub (xb : Ext) (wd : BitVec 32) : readRow 0x2 xb wd =
    fixed wd [] (.vsub (fld wd 16 6) (fld wd 10 6) (fld wd 4 6) (fld wd 0 4) xb) := rfl

theorem Encodes.vsub (d a b : BitVec 6) (p : BitVec 4) (x : Ext) : Encodes.Statement (.vsub d a b p x) := by
  refine Encodes.ofExt (f := fun xb => .vsub d a b p xb) (fun xb => ?_) (fun _ => rfl) x
  have hf : Fits [(4, 0x4), (6, 0x2), (6, d.toNat), (6, a.toNat), (6, b.toNat), (4, p.toNat)] :=
    ⟨by decide, by decide, d.isLt, a.isLt, b.isLt, p.isLt, trivial⟩
  have he := word_pack _ rfl hf
  generalize word [(4, 0x4), (6, 0x2), (6, d.toNat), (6, a.toNat), (6, b.toNat), (4, p.toNat)] = wd at *
  have q0 : fld wd 16 6 = d := fld_eq (part [_, _] he hf rfl rfl)
  have q1 : fld wd 10 6 = a := fld_eq (part [_, _, _] he hf rfl rfl)
  have q2 : fld wd 4 6 = b := fld_eq (part [_, _, _, _] he hf rfl rfl)
  have q3 : fld wd 0 4 = p := fld_eq (part [_, _, _, _, _] he hf rfl rfl)
  have hc : readSlot xb wd = readRow 0x2 xb wd := slot_row (classOf he hf rfl) (part [_] he hf rfl rfl)
  rw [hc, read_vsub, fixed_nil, q0, q1, q2, q3]

theorem read_vmul (xb : Ext) (wd : BitVec 32) : readRow 0x3 xb wd =
    fixed wd [] (.vmul (fld wd 16 6) (fld wd 10 6) (fld wd 4 6) (fld wd 0 4) xb) := rfl

theorem Encodes.vmul (d a b : BitVec 6) (p : BitVec 4) (x : Ext) : Encodes.Statement (.vmul d a b p x) := by
  refine Encodes.ofExt (f := fun xb => .vmul d a b p xb) (fun xb => ?_) (fun _ => rfl) x
  have hf : Fits [(4, 0x4), (6, 0x3), (6, d.toNat), (6, a.toNat), (6, b.toNat), (4, p.toNat)] :=
    ⟨by decide, by decide, d.isLt, a.isLt, b.isLt, p.isLt, trivial⟩
  have he := word_pack _ rfl hf
  generalize word [(4, 0x4), (6, 0x3), (6, d.toNat), (6, a.toNat), (6, b.toNat), (4, p.toNat)] = wd at *
  have q0 : fld wd 16 6 = d := fld_eq (part [_, _] he hf rfl rfl)
  have q1 : fld wd 10 6 = a := fld_eq (part [_, _, _] he hf rfl rfl)
  have q2 : fld wd 4 6 = b := fld_eq (part [_, _, _, _] he hf rfl rfl)
  have q3 : fld wd 0 4 = p := fld_eq (part [_, _, _, _, _] he hf rfl rfl)
  have hc : readSlot xb wd = readRow 0x3 xb wd := slot_row (classOf he hf rfl) (part [_] he hf rfl rfl)
  rw [hc, read_vmul, fixed_nil, q0, q1, q2, q3]

theorem read_vmac (xb : Ext) (wd : BitVec 32) : readRow 0x4 xb wd =
    fixed wd [] (.vmac (fld wd 16 6) (fld wd 10 6) (fld wd 4 6) (fld wd 0 4) xb) := rfl

theorem Encodes.vmac (d a b : BitVec 6) (p : BitVec 4) (x : Ext) : Encodes.Statement (.vmac d a b p x) := by
  refine Encodes.ofExt (f := fun xb => .vmac d a b p xb) (fun xb => ?_) (fun _ => rfl) x
  have hf : Fits [(4, 0x4), (6, 0x4), (6, d.toNat), (6, a.toNat), (6, b.toNat), (4, p.toNat)] :=
    ⟨by decide, by decide, d.isLt, a.isLt, b.isLt, p.isLt, trivial⟩
  have he := word_pack _ rfl hf
  generalize word [(4, 0x4), (6, 0x4), (6, d.toNat), (6, a.toNat), (6, b.toNat), (4, p.toNat)] = wd at *
  have q0 : fld wd 16 6 = d := fld_eq (part [_, _] he hf rfl rfl)
  have q1 : fld wd 10 6 = a := fld_eq (part [_, _, _] he hf rfl rfl)
  have q2 : fld wd 4 6 = b := fld_eq (part [_, _, _, _] he hf rfl rfl)
  have q3 : fld wd 0 4 = p := fld_eq (part [_, _, _, _, _] he hf rfl rfl)
  have hc : readSlot xb wd = readRow 0x4 xb wd := slot_row (classOf he hf rfl) (part [_] he hf rfl rfl)
  rw [hc, read_vmac, fixed_nil, q0, q1, q2, q3]

theorem read_vadds (xb : Ext) (wd : BitVec 32) : readRow 0x5 xb wd =
    fixed wd [] (.vadds (fld wd 16 6) (fld wd 10 6) (fld wd 4 6) (fld wd 0 4) xb) := rfl

theorem Encodes.vadds (d a b : BitVec 6) (p : BitVec 4) (x : Ext) : Encodes.Statement (.vadds d a b p x) := by
  refine Encodes.ofExt (f := fun xb => .vadds d a b p xb) (fun xb => ?_) (fun _ => rfl) x
  have hf : Fits [(4, 0x4), (6, 0x5), (6, d.toNat), (6, a.toNat), (6, b.toNat), (4, p.toNat)] :=
    ⟨by decide, by decide, d.isLt, a.isLt, b.isLt, p.isLt, trivial⟩
  have he := word_pack _ rfl hf
  generalize word [(4, 0x4), (6, 0x5), (6, d.toNat), (6, a.toNat), (6, b.toNat), (4, p.toNat)] = wd at *
  have q0 : fld wd 16 6 = d := fld_eq (part [_, _] he hf rfl rfl)
  have q1 : fld wd 10 6 = a := fld_eq (part [_, _, _] he hf rfl rfl)
  have q2 : fld wd 4 6 = b := fld_eq (part [_, _, _, _] he hf rfl rfl)
  have q3 : fld wd 0 4 = p := fld_eq (part [_, _, _, _, _] he hf rfl rfl)
  have hc : readSlot xb wd = readRow 0x5 xb wd := slot_row (classOf he hf rfl) (part [_] he hf rfl rfl)
  rw [hc, read_vadds, fixed_nil, q0, q1, q2, q3]

theorem read_vsubs (xb : Ext) (wd : BitVec 32) : readRow 0x6 xb wd =
    fixed wd [] (.vsubs (fld wd 16 6) (fld wd 10 6) (fld wd 4 6) (fld wd 0 4) xb) := rfl

theorem Encodes.vsubs (d a b : BitVec 6) (p : BitVec 4) (x : Ext) : Encodes.Statement (.vsubs d a b p x) := by
  refine Encodes.ofExt (f := fun xb => .vsubs d a b p xb) (fun xb => ?_) (fun _ => rfl) x
  have hf : Fits [(4, 0x4), (6, 0x6), (6, d.toNat), (6, a.toNat), (6, b.toNat), (4, p.toNat)] :=
    ⟨by decide, by decide, d.isLt, a.isLt, b.isLt, p.isLt, trivial⟩
  have he := word_pack _ rfl hf
  generalize word [(4, 0x4), (6, 0x6), (6, d.toNat), (6, a.toNat), (6, b.toNat), (4, p.toNat)] = wd at *
  have q0 : fld wd 16 6 = d := fld_eq (part [_, _] he hf rfl rfl)
  have q1 : fld wd 10 6 = a := fld_eq (part [_, _, _] he hf rfl rfl)
  have q2 : fld wd 4 6 = b := fld_eq (part [_, _, _, _] he hf rfl rfl)
  have q3 : fld wd 0 4 = p := fld_eq (part [_, _, _, _, _] he hf rfl rfl)
  have hc : readSlot xb wd = readRow 0x6 xb wd := slot_row (classOf he hf rfl) (part [_] he hf rfl rfl)
  rw [hc, read_vsubs, fixed_nil, q0, q1, q2, q3]

theorem read_vmin (xb : Ext) (wd : BitVec 32) : readRow 0x7 xb wd =
    fixed wd [] (.vmin (fld wd 16 6) (fld wd 10 6) (fld wd 4 6) (fld wd 0 4) xb) := rfl

theorem Encodes.vmin (d a b : BitVec 6) (p : BitVec 4) (x : Ext) : Encodes.Statement (.vmin d a b p x) := by
  refine Encodes.ofExt (f := fun xb => .vmin d a b p xb) (fun xb => ?_) (fun _ => rfl) x
  have hf : Fits [(4, 0x4), (6, 0x7), (6, d.toNat), (6, a.toNat), (6, b.toNat), (4, p.toNat)] :=
    ⟨by decide, by decide, d.isLt, a.isLt, b.isLt, p.isLt, trivial⟩
  have he := word_pack _ rfl hf
  generalize word [(4, 0x4), (6, 0x7), (6, d.toNat), (6, a.toNat), (6, b.toNat), (4, p.toNat)] = wd at *
  have q0 : fld wd 16 6 = d := fld_eq (part [_, _] he hf rfl rfl)
  have q1 : fld wd 10 6 = a := fld_eq (part [_, _, _] he hf rfl rfl)
  have q2 : fld wd 4 6 = b := fld_eq (part [_, _, _, _] he hf rfl rfl)
  have q3 : fld wd 0 4 = p := fld_eq (part [_, _, _, _, _] he hf rfl rfl)
  have hc : readSlot xb wd = readRow 0x7 xb wd := slot_row (classOf he hf rfl) (part [_] he hf rfl rfl)
  rw [hc, read_vmin, fixed_nil, q0, q1, q2, q3]

theorem read_vmax (xb : Ext) (wd : BitVec 32) : readRow 0x8 xb wd =
    fixed wd [] (.vmax (fld wd 16 6) (fld wd 10 6) (fld wd 4 6) (fld wd 0 4) xb) := rfl

theorem Encodes.vmax (d a b : BitVec 6) (p : BitVec 4) (x : Ext) : Encodes.Statement (.vmax d a b p x) := by
  refine Encodes.ofExt (f := fun xb => .vmax d a b p xb) (fun xb => ?_) (fun _ => rfl) x
  have hf : Fits [(4, 0x4), (6, 0x8), (6, d.toNat), (6, a.toNat), (6, b.toNat), (4, p.toNat)] :=
    ⟨by decide, by decide, d.isLt, a.isLt, b.isLt, p.isLt, trivial⟩
  have he := word_pack _ rfl hf
  generalize word [(4, 0x4), (6, 0x8), (6, d.toNat), (6, a.toNat), (6, b.toNat), (4, p.toNat)] = wd at *
  have q0 : fld wd 16 6 = d := fld_eq (part [_, _] he hf rfl rfl)
  have q1 : fld wd 10 6 = a := fld_eq (part [_, _, _] he hf rfl rfl)
  have q2 : fld wd 4 6 = b := fld_eq (part [_, _, _, _] he hf rfl rfl)
  have q3 : fld wd 0 4 = p := fld_eq (part [_, _, _, _, _] he hf rfl rfl)
  have hc : readSlot xb wd = readRow 0x8 xb wd := slot_row (classOf he hf rfl) (part [_] he hf rfl rfl)
  rw [hc, read_vmax, fixed_nil, q0, q1, q2, q3]

theorem read_vabs (xb : Ext) (wd : BitVec 32) : readRow 0x9 xb wd =
    fixed wd [(4, 6, 0x20, 5)] (.vabs (fld wd 16 6) (fld wd 10 6) (fld wd 0 4) xb) := rfl

theorem Encodes.vabs (d a : BitVec 6) (p : BitVec 4) (x : Ext) : Encodes.Statement (.vabs d a p x) := by
  refine Encodes.ofExt (f := fun xb => .vabs d a p xb) (fun xb => ?_) (fun _ => rfl) x
  have hf : Fits [(4, 0x4), (6, 0x9), (6, d.toNat), (6, a.toNat), (6, 0x20), (4, p.toNat)] :=
    ⟨by decide, by decide, d.isLt, a.isLt, by decide, p.isLt, trivial⟩
  have he := word_pack _ rfl hf
  generalize word [(4, 0x4), (6, 0x9), (6, d.toNat), (6, a.toNat), (6, 0x20), (4, p.toNat)] = wd at *
  have q0 : fld wd 16 6 = d := fld_eq (part [_, _] he hf rfl rfl)
  have q1 : fld wd 10 6 = a := fld_eq (part [_, _, _] he hf rfl rfl)
  have q2 : fld wd 0 4 = p := fld_eq (part [_, _, _, _, _] he hf rfl rfl)
  have hc : readSlot xb wd = readRow 0x9 xb wd := slot_row (classOf he hf rfl) (part [_] he hf rfl rfl)
  have g0 : wd.toNat / 2 ^ 4 % 2 ^ 6 = 0x20 := part [_, _, _, _] he hf rfl rfl
  rw [hc, read_vabs, fixed_cons g0, fixed_nil, q0, q1, q2]

theorem read_vneg (xb : Ext) (wd : BitVec 32) : readRow 0xA xb wd =
    fixed wd [(4, 6, 0x20, 5)] (.vneg (fld wd 16 6) (fld wd 10 6) (fld wd 0 4) xb) := rfl

theorem Encodes.vneg (d a : BitVec 6) (p : BitVec 4) (x : Ext) : Encodes.Statement (.vneg d a p x) := by
  refine Encodes.ofExt (f := fun xb => .vneg d a p xb) (fun xb => ?_) (fun _ => rfl) x
  have hf : Fits [(4, 0x4), (6, 0xA), (6, d.toNat), (6, a.toNat), (6, 0x20), (4, p.toNat)] :=
    ⟨by decide, by decide, d.isLt, a.isLt, by decide, p.isLt, trivial⟩
  have he := word_pack _ rfl hf
  generalize word [(4, 0x4), (6, 0xA), (6, d.toNat), (6, a.toNat), (6, 0x20), (4, p.toNat)] = wd at *
  have q0 : fld wd 16 6 = d := fld_eq (part [_, _] he hf rfl rfl)
  have q1 : fld wd 10 6 = a := fld_eq (part [_, _, _] he hf rfl rfl)
  have q2 : fld wd 0 4 = p := fld_eq (part [_, _, _, _, _] he hf rfl rfl)
  have hc : readSlot xb wd = readRow 0xA xb wd := slot_row (classOf he hf rfl) (part [_] he hf rfl rfl)
  have g0 : wd.toNat / 2 ^ 4 % 2 ^ 6 = 0x20 := part [_, _, _, _] he hf rfl rfl
  rw [hc, read_vneg, fixed_cons g0, fixed_nil, q0, q1, q2]

theorem read_vand (xb : Ext) (wd : BitVec 32) : readRow 0xB xb wd =
    fixed wd [] (.vand (fld wd 16 6) (fld wd 10 6) (fld wd 4 6) (fld wd 0 4) xb) := rfl

theorem Encodes.vand (d a b : BitVec 6) (p : BitVec 4) (x : Ext) : Encodes.Statement (.vand d a b p x) := by
  refine Encodes.ofExt (f := fun xb => .vand d a b p xb) (fun xb => ?_) (fun _ => rfl) x
  have hf : Fits [(4, 0x4), (6, 0xB), (6, d.toNat), (6, a.toNat), (6, b.toNat), (4, p.toNat)] :=
    ⟨by decide, by decide, d.isLt, a.isLt, b.isLt, p.isLt, trivial⟩
  have he := word_pack _ rfl hf
  generalize word [(4, 0x4), (6, 0xB), (6, d.toNat), (6, a.toNat), (6, b.toNat), (4, p.toNat)] = wd at *
  have q0 : fld wd 16 6 = d := fld_eq (part [_, _] he hf rfl rfl)
  have q1 : fld wd 10 6 = a := fld_eq (part [_, _, _] he hf rfl rfl)
  have q2 : fld wd 4 6 = b := fld_eq (part [_, _, _, _] he hf rfl rfl)
  have q3 : fld wd 0 4 = p := fld_eq (part [_, _, _, _, _] he hf rfl rfl)
  have hc : readSlot xb wd = readRow 0xB xb wd := slot_row (classOf he hf rfl) (part [_] he hf rfl rfl)
  rw [hc, read_vand, fixed_nil, q0, q1, q2, q3]

theorem read_vor (xb : Ext) (wd : BitVec 32) : readRow 0xC xb wd =
    fixed wd [] (.vor (fld wd 16 6) (fld wd 10 6) (fld wd 4 6) (fld wd 0 4) xb) := rfl

theorem Encodes.vor (d a b : BitVec 6) (p : BitVec 4) (x : Ext) : Encodes.Statement (.vor d a b p x) := by
  refine Encodes.ofExt (f := fun xb => .vor d a b p xb) (fun xb => ?_) (fun _ => rfl) x
  have hf : Fits [(4, 0x4), (6, 0xC), (6, d.toNat), (6, a.toNat), (6, b.toNat), (4, p.toNat)] :=
    ⟨by decide, by decide, d.isLt, a.isLt, b.isLt, p.isLt, trivial⟩
  have he := word_pack _ rfl hf
  generalize word [(4, 0x4), (6, 0xC), (6, d.toNat), (6, a.toNat), (6, b.toNat), (4, p.toNat)] = wd at *
  have q0 : fld wd 16 6 = d := fld_eq (part [_, _] he hf rfl rfl)
  have q1 : fld wd 10 6 = a := fld_eq (part [_, _, _] he hf rfl rfl)
  have q2 : fld wd 4 6 = b := fld_eq (part [_, _, _, _] he hf rfl rfl)
  have q3 : fld wd 0 4 = p := fld_eq (part [_, _, _, _, _] he hf rfl rfl)
  have hc : readSlot xb wd = readRow 0xC xb wd := slot_row (classOf he hf rfl) (part [_] he hf rfl rfl)
  rw [hc, read_vor, fixed_nil, q0, q1, q2, q3]

theorem read_vxor (xb : Ext) (wd : BitVec 32) : readRow 0xD xb wd =
    fixed wd [] (.vxor (fld wd 16 6) (fld wd 10 6) (fld wd 4 6) (fld wd 0 4) xb) := rfl

theorem Encodes.vxor (d a b : BitVec 6) (p : BitVec 4) (x : Ext) : Encodes.Statement (.vxor d a b p x) := by
  refine Encodes.ofExt (f := fun xb => .vxor d a b p xb) (fun xb => ?_) (fun _ => rfl) x
  have hf : Fits [(4, 0x4), (6, 0xD), (6, d.toNat), (6, a.toNat), (6, b.toNat), (4, p.toNat)] :=
    ⟨by decide, by decide, d.isLt, a.isLt, b.isLt, p.isLt, trivial⟩
  have he := word_pack _ rfl hf
  generalize word [(4, 0x4), (6, 0xD), (6, d.toNat), (6, a.toNat), (6, b.toNat), (4, p.toNat)] = wd at *
  have q0 : fld wd 16 6 = d := fld_eq (part [_, _] he hf rfl rfl)
  have q1 : fld wd 10 6 = a := fld_eq (part [_, _, _] he hf rfl rfl)
  have q2 : fld wd 4 6 = b := fld_eq (part [_, _, _, _] he hf rfl rfl)
  have q3 : fld wd 0 4 = p := fld_eq (part [_, _, _, _, _] he hf rfl rfl)
  have hc : readSlot xb wd = readRow 0xD xb wd := slot_row (classOf he hf rfl) (part [_] he hf rfl rfl)
  rw [hc, read_vxor, fixed_nil, q0, q1, q2, q3]

theorem read_vshl (xb : Ext) (wd : BitVec 32) : readRow 0xE xb wd =
    fixed wd [] (.vshl (fld wd 16 6) (fld wd 10 6) (fld wd 4 6) (fld wd 0 4) xb) := rfl

theorem Encodes.vshl (d a b : BitVec 6) (p : BitVec 4) (x : Ext) : Encodes.Statement (.vshl d a b p x) := by
  refine Encodes.ofExt (f := fun xb => .vshl d a b p xb) (fun xb => ?_) (fun _ => rfl) x
  have hf : Fits [(4, 0x4), (6, 0xE), (6, d.toNat), (6, a.toNat), (6, b.toNat), (4, p.toNat)] :=
    ⟨by decide, by decide, d.isLt, a.isLt, b.isLt, p.isLt, trivial⟩
  have he := word_pack _ rfl hf
  generalize word [(4, 0x4), (6, 0xE), (6, d.toNat), (6, a.toNat), (6, b.toNat), (4, p.toNat)] = wd at *
  have q0 : fld wd 16 6 = d := fld_eq (part [_, _] he hf rfl rfl)
  have q1 : fld wd 10 6 = a := fld_eq (part [_, _, _] he hf rfl rfl)
  have q2 : fld wd 4 6 = b := fld_eq (part [_, _, _, _] he hf rfl rfl)
  have q3 : fld wd 0 4 = p := fld_eq (part [_, _, _, _, _] he hf rfl rfl)
  have hc : readSlot xb wd = readRow 0xE xb wd := slot_row (classOf he hf rfl) (part [_] he hf rfl rfl)
  rw [hc, read_vshl, fixed_nil, q0, q1, q2, q3]

theorem read_vshr (xb : Ext) (wd : BitVec 32) : readRow 0xF xb wd =
    fixed wd [] (.vshr (fld wd 16 6) (fld wd 10 6) (fld wd 4 6) (fld wd 0 4) xb) := rfl

theorem Encodes.vshr (d a b : BitVec 6) (p : BitVec 4) (x : Ext) : Encodes.Statement (.vshr d a b p x) := by
  refine Encodes.ofExt (f := fun xb => .vshr d a b p xb) (fun xb => ?_) (fun _ => rfl) x
  have hf : Fits [(4, 0x4), (6, 0xF), (6, d.toNat), (6, a.toNat), (6, b.toNat), (4, p.toNat)] :=
    ⟨by decide, by decide, d.isLt, a.isLt, b.isLt, p.isLt, trivial⟩
  have he := word_pack _ rfl hf
  generalize word [(4, 0x4), (6, 0xF), (6, d.toNat), (6, a.toNat), (6, b.toNat), (4, p.toNat)] = wd at *
  have q0 : fld wd 16 6 = d := fld_eq (part [_, _] he hf rfl rfl)
  have q1 : fld wd 10 6 = a := fld_eq (part [_, _, _] he hf rfl rfl)
  have q2 : fld wd 4 6 = b := fld_eq (part [_, _, _, _] he hf rfl rfl)
  have q3 : fld wd 0 4 = p := fld_eq (part [_, _, _, _, _] he hf rfl rfl)
  have hc : readSlot xb wd = readRow 0xF xb wd := slot_row (classOf he hf rfl) (part [_] he hf rfl rfl)
  rw [hc, read_vshr, fixed_nil, q0, q1, q2, q3]

theorem read_vsra (xb : Ext) (wd : BitVec 32) : readRow 0x10 xb wd =
    fixed wd [] (.vsra (fld wd 16 6) (fld wd 10 6) (fld wd 4 6) (fld wd 0 4) xb) := rfl

theorem Encodes.vsra (d a b : BitVec 6) (p : BitVec 4) (x : Ext) : Encodes.Statement (.vsra d a b p x) := by
  refine Encodes.ofExt (f := fun xb => .vsra d a b p xb) (fun xb => ?_) (fun _ => rfl) x
  have hf : Fits [(4, 0x4), (6, 0x10), (6, d.toNat), (6, a.toNat), (6, b.toNat), (4, p.toNat)] :=
    ⟨by decide, by decide, d.isLt, a.isLt, b.isLt, p.isLt, trivial⟩
  have he := word_pack _ rfl hf
  generalize word [(4, 0x4), (6, 0x10), (6, d.toNat), (6, a.toNat), (6, b.toNat), (4, p.toNat)] = wd at *
  have q0 : fld wd 16 6 = d := fld_eq (part [_, _] he hf rfl rfl)
  have q1 : fld wd 10 6 = a := fld_eq (part [_, _, _] he hf rfl rfl)
  have q2 : fld wd 4 6 = b := fld_eq (part [_, _, _, _] he hf rfl rfl)
  have q3 : fld wd 0 4 = p := fld_eq (part [_, _, _, _, _] he hf rfl rfl)
  have hc : readSlot xb wd = readRow 0x10 xb wd := slot_row (classOf he hf rfl) (part [_] he hf rfl rfl)
  rw [hc, read_vsra, fixed_nil, q0, q1, q2, q3]

theorem read_vmullo (xb : Ext) (wd : BitVec 32) : readRow 0x11 xb wd =
    fixed wd [] (.vmullo (fld wd 16 6) (fld wd 10 6) (fld wd 4 6) (fld wd 0 4) xb) := rfl

theorem Encodes.vmullo (d a b : BitVec 6) (p : BitVec 4) (x : Ext) : Encodes.Statement (.vmullo d a b p x) := by
  refine Encodes.ofExt (f := fun xb => .vmullo d a b p xb) (fun xb => ?_) (fun _ => rfl) x
  have hf : Fits [(4, 0x4), (6, 0x11), (6, d.toNat), (6, a.toNat), (6, b.toNat), (4, p.toNat)] :=
    ⟨by decide, by decide, d.isLt, a.isLt, b.isLt, p.isLt, trivial⟩
  have he := word_pack _ rfl hf
  generalize word [(4, 0x4), (6, 0x11), (6, d.toNat), (6, a.toNat), (6, b.toNat), (4, p.toNat)] = wd at *
  have q0 : fld wd 16 6 = d := fld_eq (part [_, _] he hf rfl rfl)
  have q1 : fld wd 10 6 = a := fld_eq (part [_, _, _] he hf rfl rfl)
  have q2 : fld wd 4 6 = b := fld_eq (part [_, _, _, _] he hf rfl rfl)
  have q3 : fld wd 0 4 = p := fld_eq (part [_, _, _, _, _] he hf rfl rfl)
  have hc : readSlot xb wd = readRow 0x11 xb wd := slot_row (classOf he hf rfl) (part [_] he hf rfl rfl)
  rw [hc, read_vmullo, fixed_nil, q0, q1, q2, q3]

theorem read_vmulhi (xb : Ext) (wd : BitVec 32) : readRow 0x12 xb wd =
    fixed wd [] (.vmulhi (fld wd 16 6) (fld wd 10 6) (fld wd 4 6) (fld wd 0 4) xb) := rfl

theorem Encodes.vmulhi (d a b : BitVec 6) (p : BitVec 4) (x : Ext) : Encodes.Statement (.vmulhi d a b p x) := by
  refine Encodes.ofExt (f := fun xb => .vmulhi d a b p xb) (fun xb => ?_) (fun _ => rfl) x
  have hf : Fits [(4, 0x4), (6, 0x12), (6, d.toNat), (6, a.toNat), (6, b.toNat), (4, p.toNat)] :=
    ⟨by decide, by decide, d.isLt, a.isLt, b.isLt, p.isLt, trivial⟩
  have he := word_pack _ rfl hf
  generalize word [(4, 0x4), (6, 0x12), (6, d.toNat), (6, a.toNat), (6, b.toNat), (4, p.toNat)] = wd at *
  have q0 : fld wd 16 6 = d := fld_eq (part [_, _] he hf rfl rfl)
  have q1 : fld wd 10 6 = a := fld_eq (part [_, _, _] he hf rfl rfl)
  have q2 : fld wd 4 6 = b := fld_eq (part [_, _, _, _] he hf rfl rfl)
  have q3 : fld wd 0 4 = p := fld_eq (part [_, _, _, _, _] he hf rfl rfl)
  have hc : readSlot xb wd = readRow 0x12 xb wd := slot_row (classOf he hf rfl) (part [_] he hf rfl rfl)
  rw [hc, read_vmulhi, fixed_nil, q0, q1, q2, q3]

theorem read_vpeq (xb : Ext) (wd : BitVec 32) : readRow 0x13 xb wd =
    fixed wd [] (.vpeq (fld wd 16 6) (fld wd 10 6) (fld wd 4 6) (fld wd 0 4) xb) := rfl

theorem Encodes.vpeq (d a b : BitVec 6) (p : BitVec 4) (x : Ext) : Encodes.Statement (.vpeq d a b p x) := by
  refine Encodes.ofExt (f := fun xb => .vpeq d a b p xb) (fun xb => ?_) (fun _ => rfl) x
  have hf : Fits [(4, 0x4), (6, 0x13), (6, d.toNat), (6, a.toNat), (6, b.toNat), (4, p.toNat)] :=
    ⟨by decide, by decide, d.isLt, a.isLt, b.isLt, p.isLt, trivial⟩
  have he := word_pack _ rfl hf
  generalize word [(4, 0x4), (6, 0x13), (6, d.toNat), (6, a.toNat), (6, b.toNat), (4, p.toNat)] = wd at *
  have q0 : fld wd 16 6 = d := fld_eq (part [_, _] he hf rfl rfl)
  have q1 : fld wd 10 6 = a := fld_eq (part [_, _, _] he hf rfl rfl)
  have q2 : fld wd 4 6 = b := fld_eq (part [_, _, _, _] he hf rfl rfl)
  have q3 : fld wd 0 4 = p := fld_eq (part [_, _, _, _, _] he hf rfl rfl)
  have hc : readSlot xb wd = readRow 0x13 xb wd := slot_row (classOf he hf rfl) (part [_] he hf rfl rfl)
  rw [hc, read_vpeq, fixed_nil, q0, q1, q2, q3]

theorem read_vpne (xb : Ext) (wd : BitVec 32) : readRow 0x14 xb wd =
    fixed wd [] (.vpne (fld wd 16 6) (fld wd 10 6) (fld wd 4 6) (fld wd 0 4) xb) := rfl

theorem Encodes.vpne (d a b : BitVec 6) (p : BitVec 4) (x : Ext) : Encodes.Statement (.vpne d a b p x) := by
  refine Encodes.ofExt (f := fun xb => .vpne d a b p xb) (fun xb => ?_) (fun _ => rfl) x
  have hf : Fits [(4, 0x4), (6, 0x14), (6, d.toNat), (6, a.toNat), (6, b.toNat), (4, p.toNat)] :=
    ⟨by decide, by decide, d.isLt, a.isLt, b.isLt, p.isLt, trivial⟩
  have he := word_pack _ rfl hf
  generalize word [(4, 0x4), (6, 0x14), (6, d.toNat), (6, a.toNat), (6, b.toNat), (4, p.toNat)] = wd at *
  have q0 : fld wd 16 6 = d := fld_eq (part [_, _] he hf rfl rfl)
  have q1 : fld wd 10 6 = a := fld_eq (part [_, _, _] he hf rfl rfl)
  have q2 : fld wd 4 6 = b := fld_eq (part [_, _, _, _] he hf rfl rfl)
  have q3 : fld wd 0 4 = p := fld_eq (part [_, _, _, _, _] he hf rfl rfl)
  have hc : readSlot xb wd = readRow 0x14 xb wd := slot_row (classOf he hf rfl) (part [_] he hf rfl rfl)
  rw [hc, read_vpne, fixed_nil, q0, q1, q2, q3]

theorem read_vplt (xb : Ext) (wd : BitVec 32) : readRow 0x15 xb wd =
    fixed wd [] (.vplt (fld wd 16 6) (fld wd 10 6) (fld wd 4 6) (fld wd 0 4) xb) := rfl

theorem Encodes.vplt (d a b : BitVec 6) (p : BitVec 4) (x : Ext) : Encodes.Statement (.vplt d a b p x) := by
  refine Encodes.ofExt (f := fun xb => .vplt d a b p xb) (fun xb => ?_) (fun _ => rfl) x
  have hf : Fits [(4, 0x4), (6, 0x15), (6, d.toNat), (6, a.toNat), (6, b.toNat), (4, p.toNat)] :=
    ⟨by decide, by decide, d.isLt, a.isLt, b.isLt, p.isLt, trivial⟩
  have he := word_pack _ rfl hf
  generalize word [(4, 0x4), (6, 0x15), (6, d.toNat), (6, a.toNat), (6, b.toNat), (4, p.toNat)] = wd at *
  have q0 : fld wd 16 6 = d := fld_eq (part [_, _] he hf rfl rfl)
  have q1 : fld wd 10 6 = a := fld_eq (part [_, _, _] he hf rfl rfl)
  have q2 : fld wd 4 6 = b := fld_eq (part [_, _, _, _] he hf rfl rfl)
  have q3 : fld wd 0 4 = p := fld_eq (part [_, _, _, _, _] he hf rfl rfl)
  have hc : readSlot xb wd = readRow 0x15 xb wd := slot_row (classOf he hf rfl) (part [_] he hf rfl rfl)
  rw [hc, read_vplt, fixed_nil, q0, q1, q2, q3]

theorem read_vple (xb : Ext) (wd : BitVec 32) : readRow 0x16 xb wd =
    fixed wd [] (.vple (fld wd 16 6) (fld wd 10 6) (fld wd 4 6) (fld wd 0 4) xb) := rfl

theorem Encodes.vple (d a b : BitVec 6) (p : BitVec 4) (x : Ext) : Encodes.Statement (.vple d a b p x) := by
  refine Encodes.ofExt (f := fun xb => .vple d a b p xb) (fun xb => ?_) (fun _ => rfl) x
  have hf : Fits [(4, 0x4), (6, 0x16), (6, d.toNat), (6, a.toNat), (6, b.toNat), (4, p.toNat)] :=
    ⟨by decide, by decide, d.isLt, a.isLt, b.isLt, p.isLt, trivial⟩
  have he := word_pack _ rfl hf
  generalize word [(4, 0x4), (6, 0x16), (6, d.toNat), (6, a.toNat), (6, b.toNat), (4, p.toNat)] = wd at *
  have q0 : fld wd 16 6 = d := fld_eq (part [_, _] he hf rfl rfl)
  have q1 : fld wd 10 6 = a := fld_eq (part [_, _, _] he hf rfl rfl)
  have q2 : fld wd 4 6 = b := fld_eq (part [_, _, _, _] he hf rfl rfl)
  have q3 : fld wd 0 4 = p := fld_eq (part [_, _, _, _, _] he hf rfl rfl)
  have hc : readSlot xb wd = readRow 0x16 xb wd := slot_row (classOf he hf rfl) (part [_] he hf rfl rfl)
  rw [hc, read_vple, fixed_nil, q0, q1, q2, q3]

theorem read_vsel (xb : Ext) (wd : BitVec 32) : readRow 0x17 xb wd =
    fixed wd [] (.vsel (fld wd 16 6) (fld wd 10 6) (fld wd 4 6) (fld wd 0 4) xb) := rfl

theorem Encodes.vsel (d a b : BitVec 6) (p : BitVec 4) (x : Ext) : Encodes.Statement (.vsel d a b p x) := by
  refine Encodes.ofExt (f := fun xb => .vsel d a b p xb) (fun xb => ?_) (fun _ => rfl) x
  have hf : Fits [(4, 0x4), (6, 0x17), (6, d.toNat), (6, a.toNat), (6, b.toNat), (4, p.toNat)] :=
    ⟨by decide, by decide, d.isLt, a.isLt, b.isLt, p.isLt, trivial⟩
  have he := word_pack _ rfl hf
  generalize word [(4, 0x4), (6, 0x17), (6, d.toNat), (6, a.toNat), (6, b.toNat), (4, p.toNat)] = wd at *
  have q0 : fld wd 16 6 = d := fld_eq (part [_, _] he hf rfl rfl)
  have q1 : fld wd 10 6 = a := fld_eq (part [_, _, _] he hf rfl rfl)
  have q2 : fld wd 4 6 = b := fld_eq (part [_, _, _, _] he hf rfl rfl)
  have q3 : fld wd 0 4 = p := fld_eq (part [_, _, _, _, _] he hf rfl rfl)
  have hc : readSlot xb wd = readRow 0x17 xb wd := slot_row (classOf he hf rfl) (part [_] he hf rfl rfl)
  rw [hc, read_vsel, fixed_nil, q0, q1, q2, q3]

theorem read_vrcp (xb : Ext) (wd : BitVec 32) : readRow 0x18 xb wd =
    fixed wd [(4, 6, 0x20, 5)] (.vrcp (fld wd 16 6) (fld wd 10 6) (fld wd 0 4) xb) := rfl

theorem Encodes.vrcp (d a : BitVec 6) (p : BitVec 4) (x : Ext) : Encodes.Statement (.vrcp d a p x) := by
  refine Encodes.ofExt (f := fun xb => .vrcp d a p xb) (fun xb => ?_) (fun _ => rfl) x
  have hf : Fits [(4, 0x4), (6, 0x18), (6, d.toNat), (6, a.toNat), (6, 0x20), (4, p.toNat)] :=
    ⟨by decide, by decide, d.isLt, a.isLt, by decide, p.isLt, trivial⟩
  have he := word_pack _ rfl hf
  generalize word [(4, 0x4), (6, 0x18), (6, d.toNat), (6, a.toNat), (6, 0x20), (4, p.toNat)] = wd at *
  have q0 : fld wd 16 6 = d := fld_eq (part [_, _] he hf rfl rfl)
  have q1 : fld wd 10 6 = a := fld_eq (part [_, _, _] he hf rfl rfl)
  have q2 : fld wd 0 4 = p := fld_eq (part [_, _, _, _, _] he hf rfl rfl)
  have hc : readSlot xb wd = readRow 0x18 xb wd := slot_row (classOf he hf rfl) (part [_] he hf rfl rfl)
  have g0 : wd.toNat / 2 ^ 4 % 2 ^ 6 = 0x20 := part [_, _, _, _] he hf rfl rfl
  rw [hc, read_vrcp, fixed_cons g0, fixed_nil, q0, q1, q2]

theorem read_vrsq (xb : Ext) (wd : BitVec 32) : readRow 0x19 xb wd =
    fixed wd [(4, 6, 0x20, 5)] (.vrsq (fld wd 16 6) (fld wd 10 6) (fld wd 0 4) xb) := rfl

theorem Encodes.vrsq (d a : BitVec 6) (p : BitVec 4) (x : Ext) : Encodes.Statement (.vrsq d a p x) := by
  refine Encodes.ofExt (f := fun xb => .vrsq d a p xb) (fun xb => ?_) (fun _ => rfl) x
  have hf : Fits [(4, 0x4), (6, 0x19), (6, d.toNat), (6, a.toNat), (6, 0x20), (4, p.toNat)] :=
    ⟨by decide, by decide, d.isLt, a.isLt, by decide, p.isLt, trivial⟩
  have he := word_pack _ rfl hf
  generalize word [(4, 0x4), (6, 0x19), (6, d.toNat), (6, a.toNat), (6, 0x20), (4, p.toNat)] = wd at *
  have q0 : fld wd 16 6 = d := fld_eq (part [_, _] he hf rfl rfl)
  have q1 : fld wd 10 6 = a := fld_eq (part [_, _, _] he hf rfl rfl)
  have q2 : fld wd 0 4 = p := fld_eq (part [_, _, _, _, _] he hf rfl rfl)
  have hc : readSlot xb wd = readRow 0x19 xb wd := slot_row (classOf he hf rfl) (part [_] he hf rfl rfl)
  have g0 : wd.toNat / 2 ^ 4 % 2 ^ 6 = 0x20 := part [_, _, _, _] he hf rfl rfl
  rw [hc, read_vrsq, fixed_cons g0, fixed_nil, q0, q1, q2]

theorem read_vexp2 (xb : Ext) (wd : BitVec 32) : readRow 0x1A xb wd =
    fixed wd [(4, 6, 0x20, 5)] (.vexp2 (fld wd 16 6) (fld wd 10 6) (fld wd 0 4) xb) := rfl

theorem Encodes.vexp2 (d a : BitVec 6) (p : BitVec 4) (x : Ext) : Encodes.Statement (.vexp2 d a p x) := by
  refine Encodes.ofExt (f := fun xb => .vexp2 d a p xb) (fun xb => ?_) (fun _ => rfl) x
  have hf : Fits [(4, 0x4), (6, 0x1A), (6, d.toNat), (6, a.toNat), (6, 0x20), (4, p.toNat)] :=
    ⟨by decide, by decide, d.isLt, a.isLt, by decide, p.isLt, trivial⟩
  have he := word_pack _ rfl hf
  generalize word [(4, 0x4), (6, 0x1A), (6, d.toNat), (6, a.toNat), (6, 0x20), (4, p.toNat)] = wd at *
  have q0 : fld wd 16 6 = d := fld_eq (part [_, _] he hf rfl rfl)
  have q1 : fld wd 10 6 = a := fld_eq (part [_, _, _] he hf rfl rfl)
  have q2 : fld wd 0 4 = p := fld_eq (part [_, _, _, _, _] he hf rfl rfl)
  have hc : readSlot xb wd = readRow 0x1A xb wd := slot_row (classOf he hf rfl) (part [_] he hf rfl rfl)
  have g0 : wd.toNat / 2 ^ 4 % 2 ^ 6 = 0x20 := part [_, _, _, _] he hf rfl rfl
  rw [hc, read_vexp2, fixed_cons g0, fixed_nil, q0, q1, q2]

theorem read_vlog2 (xb : Ext) (wd : BitVec 32) : readRow 0x1B xb wd =
    fixed wd [(4, 6, 0x20, 5)] (.vlog2 (fld wd 16 6) (fld wd 10 6) (fld wd 0 4) xb) := rfl

theorem Encodes.vlog2 (d a : BitVec 6) (p : BitVec 4) (x : Ext) : Encodes.Statement (.vlog2 d a p x) := by
  refine Encodes.ofExt (f := fun xb => .vlog2 d a p xb) (fun xb => ?_) (fun _ => rfl) x
  have hf : Fits [(4, 0x4), (6, 0x1B), (6, d.toNat), (6, a.toNat), (6, 0x20), (4, p.toNat)] :=
    ⟨by decide, by decide, d.isLt, a.isLt, by decide, p.isLt, trivial⟩
  have he := word_pack _ rfl hf
  generalize word [(4, 0x4), (6, 0x1B), (6, d.toNat), (6, a.toNat), (6, 0x20), (4, p.toNat)] = wd at *
  have q0 : fld wd 16 6 = d := fld_eq (part [_, _] he hf rfl rfl)
  have q1 : fld wd 10 6 = a := fld_eq (part [_, _, _] he hf rfl rfl)
  have q2 : fld wd 0 4 = p := fld_eq (part [_, _, _, _, _] he hf rfl rfl)
  have hc : readSlot xb wd = readRow 0x1B xb wd := slot_row (classOf he hf rfl) (part [_] he hf rfl rfl)
  have g0 : wd.toNat / 2 ^ 4 % 2 ^ 6 = 0x20 := part [_, _, _, _] he hf rfl rfl
  rw [hc, read_vlog2, fixed_cons g0, fixed_nil, q0, q1, q2]

theorem read_vrsum (xb : Ext) (wd : BitVec 32) : readRow 0x1C xb wd =
    fixed wd [(4, 6, 0x20, 5)] (.vrsum (fld wd 16 6) (fld wd 10 6) (fld wd 0 4) xb) := rfl

theorem Encodes.vrsum (d a : BitVec 6) (p : BitVec 4) (x : Ext) : Encodes.Statement (.vrsum d a p x) := by
  refine Encodes.ofExt (f := fun xb => .vrsum d a p xb) (fun xb => ?_) (fun _ => rfl) x
  have hf : Fits [(4, 0x4), (6, 0x1C), (6, d.toNat), (6, a.toNat), (6, 0x20), (4, p.toNat)] :=
    ⟨by decide, by decide, d.isLt, a.isLt, by decide, p.isLt, trivial⟩
  have he := word_pack _ rfl hf
  generalize word [(4, 0x4), (6, 0x1C), (6, d.toNat), (6, a.toNat), (6, 0x20), (4, p.toNat)] = wd at *
  have q0 : fld wd 16 6 = d := fld_eq (part [_, _] he hf rfl rfl)
  have q1 : fld wd 10 6 = a := fld_eq (part [_, _, _] he hf rfl rfl)
  have q2 : fld wd 0 4 = p := fld_eq (part [_, _, _, _, _] he hf rfl rfl)
  have hc : readSlot xb wd = readRow 0x1C xb wd := slot_row (classOf he hf rfl) (part [_] he hf rfl rfl)
  have g0 : wd.toNat / 2 ^ 4 % 2 ^ 6 = 0x20 := part [_, _, _, _] he hf rfl rfl
  rw [hc, read_vrsum, fixed_cons g0, fixed_nil, q0, q1, q2]

theorem read_vrmax (xb : Ext) (wd : BitVec 32) : readRow 0x1D xb wd =
    fixed wd [(4, 6, 0x20, 5)] (.vrmax (fld wd 16 6) (fld wd 10 6) (fld wd 0 4) xb) := rfl

theorem Encodes.vrmax (d a : BitVec 6) (p : BitVec 4) (x : Ext) : Encodes.Statement (.vrmax d a p x) := by
  refine Encodes.ofExt (f := fun xb => .vrmax d a p xb) (fun xb => ?_) (fun _ => rfl) x
  have hf : Fits [(4, 0x4), (6, 0x1D), (6, d.toNat), (6, a.toNat), (6, 0x20), (4, p.toNat)] :=
    ⟨by decide, by decide, d.isLt, a.isLt, by decide, p.isLt, trivial⟩
  have he := word_pack _ rfl hf
  generalize word [(4, 0x4), (6, 0x1D), (6, d.toNat), (6, a.toNat), (6, 0x20), (4, p.toNat)] = wd at *
  have q0 : fld wd 16 6 = d := fld_eq (part [_, _] he hf rfl rfl)
  have q1 : fld wd 10 6 = a := fld_eq (part [_, _, _] he hf rfl rfl)
  have q2 : fld wd 0 4 = p := fld_eq (part [_, _, _, _, _] he hf rfl rfl)
  have hc : readSlot xb wd = readRow 0x1D xb wd := slot_row (classOf he hf rfl) (part [_] he hf rfl rfl)
  have g0 : wd.toNat / 2 ^ 4 % 2 ^ 6 = 0x20 := part [_, _, _, _] he hf rfl rfl
  rw [hc, read_vrmax, fixed_cons g0, fixed_nil, q0, q1, q2]

theorem read_vrmin (xb : Ext) (wd : BitVec 32) : readRow 0x1E xb wd =
    fixed wd [(4, 6, 0x20, 5)] (.vrmin (fld wd 16 6) (fld wd 10 6) (fld wd 0 4) xb) := rfl

theorem Encodes.vrmin (d a : BitVec 6) (p : BitVec 4) (x : Ext) : Encodes.Statement (.vrmin d a p x) := by
  refine Encodes.ofExt (f := fun xb => .vrmin d a p xb) (fun xb => ?_) (fun _ => rfl) x
  have hf : Fits [(4, 0x4), (6, 0x1E), (6, d.toNat), (6, a.toNat), (6, 0x20), (4, p.toNat)] :=
    ⟨by decide, by decide, d.isLt, a.isLt, by decide, p.isLt, trivial⟩
  have he := word_pack _ rfl hf
  generalize word [(4, 0x4), (6, 0x1E), (6, d.toNat), (6, a.toNat), (6, 0x20), (4, p.toNat)] = wd at *
  have q0 : fld wd 16 6 = d := fld_eq (part [_, _] he hf rfl rfl)
  have q1 : fld wd 10 6 = a := fld_eq (part [_, _, _] he hf rfl rfl)
  have q2 : fld wd 0 4 = p := fld_eq (part [_, _, _, _, _] he hf rfl rfl)
  have hc : readSlot xb wd = readRow 0x1E xb wd := slot_row (classOf he hf rfl) (part [_] he hf rfl rfl)
  have g0 : wd.toNat / 2 ^ 4 % 2 ^ 6 = 0x20 := part [_, _, _, _] he hf rfl rfl
  rw [hc, read_vrmin, fixed_cons g0, fixed_nil, q0, q1, q2]

theorem read_vperm (xb : Ext) (wd : BitVec 32) : readRow 0x1F xb wd =
    fixed wd [] (.vperm (fld wd 16 6) (fld wd 10 6) (fld wd 4 6) (fld wd 0 4) xb) := rfl

theorem Encodes.vperm (d a b : BitVec 6) (p : BitVec 4) (x : Ext) : Encodes.Statement (.vperm d a b p x) := by
  refine Encodes.ofExt (f := fun xb => .vperm d a b p xb) (fun xb => ?_) (fun _ => rfl) x
  have hf : Fits [(4, 0x4), (6, 0x1F), (6, d.toNat), (6, a.toNat), (6, b.toNat), (4, p.toNat)] :=
    ⟨by decide, by decide, d.isLt, a.isLt, b.isLt, p.isLt, trivial⟩
  have he := word_pack _ rfl hf
  generalize word [(4, 0x4), (6, 0x1F), (6, d.toNat), (6, a.toNat), (6, b.toNat), (4, p.toNat)] = wd at *
  have q0 : fld wd 16 6 = d := fld_eq (part [_, _] he hf rfl rfl)
  have q1 : fld wd 10 6 = a := fld_eq (part [_, _, _] he hf rfl rfl)
  have q2 : fld wd 4 6 = b := fld_eq (part [_, _, _, _] he hf rfl rfl)
  have q3 : fld wd 0 4 = p := fld_eq (part [_, _, _, _, _] he hf rfl rfl)
  have hc : readSlot xb wd = readRow 0x1F xb wd := slot_row (classOf he hf rfl) (part [_] he hf rfl rfl)
  rw [hc, read_vperm, fixed_nil, q0, q1, q2, q3]

theorem read_vlsh (xb : Ext) (wd : BitVec 32) : readRow 0x20 xb wd =
    fixed wd [] (.vlsh (fld wd 16 6) (fld wd 10 6) (fld wd 4 6) (fld wd 0 4) xb) := rfl

theorem Encodes.vlsh (d a b : BitVec 6) (p : BitVec 4) (x : Ext) : Encodes.Statement (.vlsh d a b p x) := by
  refine Encodes.ofExt (f := fun xb => .vlsh d a b p xb) (fun xb => ?_) (fun _ => rfl) x
  have hf : Fits [(4, 0x4), (6, 0x20), (6, d.toNat), (6, a.toNat), (6, b.toNat), (4, p.toNat)] :=
    ⟨by decide, by decide, d.isLt, a.isLt, b.isLt, p.isLt, trivial⟩
  have he := word_pack _ rfl hf
  generalize word [(4, 0x4), (6, 0x20), (6, d.toNat), (6, a.toNat), (6, b.toNat), (4, p.toNat)] = wd at *
  have q0 : fld wd 16 6 = d := fld_eq (part [_, _] he hf rfl rfl)
  have q1 : fld wd 10 6 = a := fld_eq (part [_, _, _] he hf rfl rfl)
  have q2 : fld wd 4 6 = b := fld_eq (part [_, _, _, _] he hf rfl rfl)
  have q3 : fld wd 0 4 = p := fld_eq (part [_, _, _, _, _] he hf rfl rfl)
  have hc : readSlot xb wd = readRow 0x20 xb wd := slot_row (classOf he hf rfl) (part [_] he hf rfl rfl)
  rw [hc, read_vlsh, fixed_nil, q0, q1, q2, q3]

theorem read_vbcst (xb : Ext) (wd : BitVec 32) : readRow 0x21 xb wd =
    fixed wd [] (.vbcst (fld wd 16 6) (fld wd 10 6) (fld wd 4 6) (fld wd 0 4) xb) := rfl

theorem Encodes.vbcst (d a b : BitVec 6) (p : BitVec 4) (x : Ext) : Encodes.Statement (.vbcst d a b p x) := by
  refine Encodes.ofExt (f := fun xb => .vbcst d a b p xb) (fun xb => ?_) (fun _ => rfl) x
  have hf : Fits [(4, 0x4), (6, 0x21), (6, d.toNat), (6, a.toNat), (6, b.toNat), (4, p.toNat)] :=
    ⟨by decide, by decide, d.isLt, a.isLt, b.isLt, p.isLt, trivial⟩
  have he := word_pack _ rfl hf
  generalize word [(4, 0x4), (6, 0x21), (6, d.toNat), (6, a.toNat), (6, b.toNat), (4, p.toNat)] = wd at *
  have q0 : fld wd 16 6 = d := fld_eq (part [_, _] he hf rfl rfl)
  have q1 : fld wd 10 6 = a := fld_eq (part [_, _, _] he hf rfl rfl)
  have q2 : fld wd 4 6 = b := fld_eq (part [_, _, _, _] he hf rfl rfl)
  have q3 : fld wd 0 4 = p := fld_eq (part [_, _, _, _, _] he hf rfl rfl)
  have hc : readSlot xb wd = readRow 0x21 xb wd := slot_row (classOf he hf rfl) (part [_] he hf rfl rfl)
  rw [hc, read_vbcst, fixed_nil, q0, q1, q2, q3]

theorem read_vpopc (xb : Ext) (wd : BitVec 32) : readRow 0x22 xb wd =
    fixed wd [(4, 6, 0x20, 5)] (.vpopc (fld wd 16 6) (fld wd 10 6) (fld wd 0 4) xb) := rfl

theorem Encodes.vpopc (d a : BitVec 6) (p : BitVec 4) (x : Ext) : Encodes.Statement (.vpopc d a p x) := by
  refine Encodes.ofExt (f := fun xb => .vpopc d a p xb) (fun xb => ?_) (fun _ => rfl) x
  have hf : Fits [(4, 0x4), (6, 0x22), (6, d.toNat), (6, a.toNat), (6, 0x20), (4, p.toNat)] :=
    ⟨by decide, by decide, d.isLt, a.isLt, by decide, p.isLt, trivial⟩
  have he := word_pack _ rfl hf
  generalize word [(4, 0x4), (6, 0x22), (6, d.toNat), (6, a.toNat), (6, 0x20), (4, p.toNat)] = wd at *
  have q0 : fld wd 16 6 = d := fld_eq (part [_, _] he hf rfl rfl)
  have q1 : fld wd 10 6 = a := fld_eq (part [_, _, _] he hf rfl rfl)
  have q2 : fld wd 0 4 = p := fld_eq (part [_, _, _, _, _] he hf rfl rfl)
  have hc : readSlot xb wd = readRow 0x22 xb wd := slot_row (classOf he hf rfl) (part [_] he hf rfl rfl)
  have g0 : wd.toNat / 2 ^ 4 % 2 ^ 6 = 0x20 := part [_, _, _, _] he hf rfl rfl
  rw [hc, read_vpopc, fixed_cons g0, fixed_nil, q0, q1, q2]

theorem read_vclz (xb : Ext) (wd : BitVec 32) : readRow 0x23 xb wd =
    fixed wd [(4, 6, 0x20, 5)] (.vclz (fld wd 16 6) (fld wd 10 6) (fld wd 0 4) xb) := rfl

theorem Encodes.vclz (d a : BitVec 6) (p : BitVec 4) (x : Ext) : Encodes.Statement (.vclz d a p x) := by
  refine Encodes.ofExt (f := fun xb => .vclz d a p xb) (fun xb => ?_) (fun _ => rfl) x
  have hf : Fits [(4, 0x4), (6, 0x23), (6, d.toNat), (6, a.toNat), (6, 0x20), (4, p.toNat)] :=
    ⟨by decide, by decide, d.isLt, a.isLt, by decide, p.isLt, trivial⟩
  have he := word_pack _ rfl hf
  generalize word [(4, 0x4), (6, 0x23), (6, d.toNat), (6, a.toNat), (6, 0x20), (4, p.toNat)] = wd at *
  have q0 : fld wd 16 6 = d := fld_eq (part [_, _] he hf rfl rfl)
  have q1 : fld wd 10 6 = a := fld_eq (part [_, _, _] he hf rfl rfl)
  have q2 : fld wd 0 4 = p := fld_eq (part [_, _, _, _, _] he hf rfl rfl)
  have hc : readSlot xb wd = readRow 0x23 xb wd := slot_row (classOf he hf rfl) (part [_] he hf rfl rfl)
  have g0 : wd.toNat / 2 ^ 4 % 2 ^ 6 = 0x20 := part [_, _, _, _] he hf rfl rfl
  rw [hc, read_vclz, fixed_cons g0, fixed_nil, q0, q1, q2]

theorem read_vrint (xb : Ext) (wd : BitVec 32) : readRow 0x24 xb wd =
    fixed wd [(4, 6, 0x20, 5)] (.vrint (fld wd 16 6) (fld wd 10 6) (fld wd 0 4) xb) := rfl

theorem Encodes.vrint (d a : BitVec 6) (p : BitVec 4) (x : Ext) : Encodes.Statement (.vrint d a p x) := by
  refine Encodes.ofExt (f := fun xb => .vrint d a p xb) (fun xb => ?_) (fun _ => rfl) x
  have hf : Fits [(4, 0x4), (6, 0x24), (6, d.toNat), (6, a.toNat), (6, 0x20), (4, p.toNat)] :=
    ⟨by decide, by decide, d.isLt, a.isLt, by decide, p.isLt, trivial⟩
  have he := word_pack _ rfl hf
  generalize word [(4, 0x4), (6, 0x24), (6, d.toNat), (6, a.toNat), (6, 0x20), (4, p.toNat)] = wd at *
  have q0 : fld wd 16 6 = d := fld_eq (part [_, _] he hf rfl rfl)
  have q1 : fld wd 10 6 = a := fld_eq (part [_, _, _] he hf rfl rfl)
  have q2 : fld wd 0 4 = p := fld_eq (part [_, _, _, _, _] he hf rfl rfl)
  have hc : readSlot xb wd = readRow 0x24 xb wd := slot_row (classOf he hf rfl) (part [_] he hf rfl rfl)
  have g0 : wd.toNat / 2 ^ 4 % 2 ^ 6 = 0x20 := part [_, _, _, _] he hf rfl rfl
  rw [hc, read_vrint, fixed_cons g0, fixed_nil, q0, q1, q2]

theorem read_vcvt (xb : Ext) (wd : BitVec 32) : readRowx 0x0 xb wd =
    fixed wd [(4, 1, 0x0, 3)] (.vcvt (fld wd 16 6) (fld wd 10 6) (fld wd 6 4) (fld wd 5 1) (fld wd 0 4) xb) := rfl

theorem Encodes.vcvt (d a : BitVec 6) (f : BitVec 4) (e : BitVec 1) (p : BitVec 4) (x : Ext) : Encodes.Statement (.vcvt d a f e p x) := by
  refine Encodes.ofExt (f := fun xb => .vcvt d a f e p xb) (fun xb => ?_) (fun _ => rfl) x
  have hf : Fits [(4, 0x5), (6, 0x0), (6, d.toNat), (6, a.toNat), (4, f.toNat), (1, e.toNat), (1, 0x0), (4, p.toNat)] :=
    ⟨by decide, by decide, d.isLt, a.isLt, f.isLt, e.isLt, by decide, p.isLt, trivial⟩
  have he := word_pack _ rfl hf
  generalize word [(4, 0x5), (6, 0x0), (6, d.toNat), (6, a.toNat), (4, f.toNat), (1, e.toNat), (1, 0x0), (4, p.toNat)] = wd at *
  have q0 : fld wd 16 6 = d := fld_eq (part [_, _] he hf rfl rfl)
  have q1 : fld wd 10 6 = a := fld_eq (part [_, _, _] he hf rfl rfl)
  have q2 : fld wd 6 4 = f := fld_eq (part [_, _, _, _] he hf rfl rfl)
  have q3 : fld wd 5 1 = e := fld_eq (part [_, _, _, _, _] he hf rfl rfl)
  have q4 : fld wd 0 4 = p := fld_eq (part [_, _, _, _, _, _, _] he hf rfl rfl)
  have hc : readSlot xb wd = readRowx 0x0 xb wd := slot_rowx (classOf he hf rfl) (part [_] he hf rfl rfl)
  have g0 : wd.toNat / 2 ^ 4 % 2 ^ 1 = 0x0 := part [_, _, _, _, _, _] he hf rfl rfl
  rw [hc, read_vcvt, fixed_cons g0, fixed_nil, q0, q1, q2, q3, q4]

theorem read_vsplat (xb : Ext) (wd : BitVec 32) : readRowx 0x1 xb wd =
    fixed wd [(10, 6, 0x0, 3)] (.vsplat (fld wd 16 6) (fld wd 4 6) (fld wd 0 4) xb) := rfl

theorem Encodes.vsplat (d i : BitVec 6) (p : BitVec 4) (x : Ext) : Encodes.Statement (.vsplat d i p x) := by
  refine Encodes.ofExt (f := fun xb => .vsplat d i p xb) (fun xb => ?_) (fun _ => rfl) x
  have hf : Fits [(4, 0x5), (6, 0x1), (6, d.toNat), (6, 0x0), (6, i.toNat), (4, p.toNat)] :=
    ⟨by decide, by decide, d.isLt, by decide, i.isLt, p.isLt, trivial⟩
  have he := word_pack _ rfl hf
  generalize word [(4, 0x5), (6, 0x1), (6, d.toNat), (6, 0x0), (6, i.toNat), (4, p.toNat)] = wd at *
  have q0 : fld wd 16 6 = d := fld_eq (part [_, _] he hf rfl rfl)
  have q1 : fld wd 4 6 = i := fld_eq (part [_, _, _, _] he hf rfl rfl)
  have q2 : fld wd 0 4 = p := fld_eq (part [_, _, _, _, _] he hf rfl rfl)
  have hc : readSlot xb wd = readRowx 0x1 xb wd := slot_rowx (classOf he hf rfl) (part [_] he hf rfl rfl)
  have g0 : wd.toNat / 2 ^ 10 % 2 ^ 6 = 0x0 := part [_, _, _] he hf rfl rfl
  rw [hc, read_vsplat, fixed_cons g0, fixed_nil, q0, q1, q2]

theorem read_vsplats (xb : Ext) (wd : BitVec 32) : readRowx 0x2 xb wd =
    fixed wd [(6, 4, 0x0, 3), (10, 6, 0x21, 5)] (.vsplats (fld wd 16 6) (fld wd 5 1) (fld wd 4 1) (fld wd 0 4) xb) := rfl

theorem Encodes.vsplats (d : BitVec 6) (e u : BitVec 1) (p : BitVec 4) (x : Ext) : Encodes.Statement (.vsplats d e u p x) := by
  refine Encodes.ofExt (f := fun xb => .vsplats d e u p xb) (fun xb => ?_) (fun _ => rfl) x
  have hf : Fits [(4, 0x5), (6, 0x2), (6, d.toNat), (6, 0x21), (4, 0x0), (1, e.toNat), (1, u.toNat), (4, p.toNat)] :=
    ⟨by decide, by decide, d.isLt, by decide, by decide, e.isLt, u.isLt, p.isLt, trivial⟩
  have he := word_pack _ rfl hf
  generalize word [(4, 0x5), (6, 0x2), (6, d.toNat), (6, 0x21), (4, 0x0), (1, e.toNat), (1, u.toNat), (4, p.toNat)] = wd at *
  have q0 : fld wd 16 6 = d := fld_eq (part [_, _] he hf rfl rfl)
  have q1 : fld wd 5 1 = e := fld_eq (part [_, _, _, _, _] he hf rfl rfl)
  have q2 : fld wd 4 1 = u := fld_eq (part [_, _, _, _, _, _] he hf rfl rfl)
  have q3 : fld wd 0 4 = p := fld_eq (part [_, _, _, _, _, _, _] he hf rfl rfl)
  have hc : readSlot xb wd = readRowx 0x2 xb wd := slot_rowx (classOf he hf rfl) (part [_] he hf rfl rfl)
  have g0 : wd.toNat / 2 ^ 6 % 2 ^ 4 = 0x0 := part [_, _, _, _] he hf rfl rfl
  have g1 : wd.toNat / 2 ^ 10 % 2 ^ 6 = 0x21 := part [_, _, _] he hf rfl rfl
  rw [hc, read_vsplats, fixed_cons g0, fixed_cons g1, fixed_nil, q0, q1, q2, q3]

theorem read_vaddi (xb : Ext) (wd : BitVec 32) : readRowx 0x3 xb wd =
    fixed wd [] (.vaddi (fld wd 16 6) (fld wd 10 6) (fld wd 4 6) (fld wd 0 4) xb) := rfl

theorem Encodes.vaddi (d a i : BitVec 6) (p : BitVec 4) (x : Ext) : Encodes.Statement (.vaddi d a i p x) := by
  refine Encodes.ofExt (f := fun xb => .vaddi d a i p xb) (fun xb => ?_) (fun _ => rfl) x
  have hf : Fits [(4, 0x5), (6, 0x3), (6, d.toNat), (6, a.toNat), (6, i.toNat), (4, p.toNat)] :=
    ⟨by decide, by decide, d.isLt, a.isLt, i.isLt, p.isLt, trivial⟩
  have he := word_pack _ rfl hf
  generalize word [(4, 0x5), (6, 0x3), (6, d.toNat), (6, a.toNat), (6, i.toNat), (4, p.toNat)] = wd at *
  have q0 : fld wd 16 6 = d := fld_eq (part [_, _] he hf rfl rfl)
  have q1 : fld wd 10 6 = a := fld_eq (part [_, _, _] he hf rfl rfl)
  have q2 : fld wd 4 6 = i := fld_eq (part [_, _, _, _] he hf rfl rfl)
  have q3 : fld wd 0 4 = p := fld_eq (part [_, _, _, _, _] he hf rfl rfl)
  have hc : readSlot xb wd = readRowx 0x3 xb wd := slot_rowx (classOf he hf rfl) (part [_] he hf rfl rfl)
  rw [hc, read_vaddi, fixed_nil, q0, q1, q2, q3]

theorem read_vshli (xb : Ext) (wd : BitVec 32) : readRowx 0x4 xb wd =
    fixed wd [] (.vshli (fld wd 16 6) (fld wd 10 6) (fld wd 4 6) (fld wd 0 4) xb) := rfl

theorem Encodes.vshli (d a i : BitVec 6) (p : BitVec 4) (x : Ext) : Encodes.Statement (.vshli d a i p x) := by
  refine Encodes.ofExt (f := fun xb => .vshli d a i p xb) (fun xb => ?_) (fun _ => rfl) x
  have hf : Fits [(4, 0x5), (6, 0x4), (6, d.toNat), (6, a.toNat), (6, i.toNat), (4, p.toNat)] :=
    ⟨by decide, by decide, d.isLt, a.isLt, i.isLt, p.isLt, trivial⟩
  have he := word_pack _ rfl hf
  generalize word [(4, 0x5), (6, 0x4), (6, d.toNat), (6, a.toNat), (6, i.toNat), (4, p.toNat)] = wd at *
  have q0 : fld wd 16 6 = d := fld_eq (part [_, _] he hf rfl rfl)
  have q1 : fld wd 10 6 = a := fld_eq (part [_, _, _] he hf rfl rfl)
  have q2 : fld wd 4 6 = i := fld_eq (part [_, _, _, _] he hf rfl rfl)
  have q3 : fld wd 0 4 = p := fld_eq (part [_, _, _, _, _] he hf rfl rfl)
  have hc : readSlot xb wd = readRowx 0x4 xb wd := slot_rowx (classOf he hf rfl) (part [_] he hf rfl rfl)
  rw [hc, read_vshli, fixed_nil, q0, q1, q2, q3]

theorem read_vshri (xb : Ext) (wd : BitVec 32) : readRowx 0x5 xb wd =
    fixed wd [] (.vshri (fld wd 16 6) (fld wd 10 6) (fld wd 4 6) (fld wd 0 4) xb) := rfl

theorem Encodes.vshri (d a i : BitVec 6) (p : BitVec 4) (x : Ext) : Encodes.Statement (.vshri d a i p x) := by
  refine Encodes.ofExt (f := fun xb => .vshri d a i p xb) (fun xb => ?_) (fun _ => rfl) x
  have hf : Fits [(4, 0x5), (6, 0x5), (6, d.toNat), (6, a.toNat), (6, i.toNat), (4, p.toNat)] :=
    ⟨by decide, by decide, d.isLt, a.isLt, i.isLt, p.isLt, trivial⟩
  have he := word_pack _ rfl hf
  generalize word [(4, 0x5), (6, 0x5), (6, d.toNat), (6, a.toNat), (6, i.toNat), (4, p.toNat)] = wd at *
  have q0 : fld wd 16 6 = d := fld_eq (part [_, _] he hf rfl rfl)
  have q1 : fld wd 10 6 = a := fld_eq (part [_, _, _] he hf rfl rfl)
  have q2 : fld wd 4 6 = i := fld_eq (part [_, _, _, _] he hf rfl rfl)
  have q3 : fld wd 0 4 = p := fld_eq (part [_, _, _, _, _] he hf rfl rfl)
  have hc : readSlot xb wd = readRowx 0x5 xb wd := slot_rowx (classOf he hf rfl) (part [_] he hf rfl rfl)
  rw [hc, read_vshri, fixed_nil, q0, q1, q2, q3]

theorem read_viota (xb : Ext) (wd : BitVec 32) : readRowx 0x6 xb wd =
    fixed wd [(10, 6, 0x0, 3)] (.viota (fld wd 16 6) (fld wd 4 6) (fld wd 0 4) xb) := rfl

theorem Encodes.viota (d i : BitVec 6) (p : BitVec 4) (x : Ext) : Encodes.Statement (.viota d i p x) := by
  refine Encodes.ofExt (f := fun xb => .viota d i p xb) (fun xb => ?_) (fun _ => rfl) x
  have hf : Fits [(4, 0x5), (6, 0x6), (6, d.toNat), (6, 0x0), (6, i.toNat), (4, p.toNat)] :=
    ⟨by decide, by decide, d.isLt, by decide, i.isLt, p.isLt, trivial⟩
  have he := word_pack _ rfl hf
  generalize word [(4, 0x5), (6, 0x6), (6, d.toNat), (6, 0x0), (6, i.toNat), (4, p.toNat)] = wd at *
  have q0 : fld wd 16 6 = d := fld_eq (part [_, _] he hf rfl rfl)
  have q1 : fld wd 4 6 = i := fld_eq (part [_, _, _, _] he hf rfl rfl)
  have q2 : fld wd 0 4 = p := fld_eq (part [_, _, _, _, _] he hf rfl rfl)
  have hc : readSlot xb wd = readRowx 0x6 xb wd := slot_rowx (classOf he hf rfl) (part [_] he hf rfl rfl)
  have g0 : wd.toNat / 2 ^ 10 % 2 ^ 6 = 0x0 := part [_, _, _] he hf rfl rfl
  rw [hc, read_viota, fixed_cons g0, fixed_nil, q0, q1, q2]

theorem read_vcur (xb : Ext) (wd : BitVec 32) : readRowx 0x7 xb wd =
    plain xb wd [(0, 6, 0x0, 3)] (.vcur (fld wd 19 3) (fld wd 12 7) (fld wd 8 4) (fld wd 6 2)) := rfl

theorem Encodes.vcur (c : BitVec 3) (t : BitVec 7) (r : BitVec 4) (s : BitVec 2) : Encodes.Statement (.vcur c t r s) := by
  refine Encodes.ofPlain (fun xb hu => ?_) rfl
  have hf : Fits [(4, 0x5), (6, 0x7), (3, c.toNat), (7, t.toNat), (4, r.toNat), (2, s.toNat), (6, 0x0)] :=
    ⟨by decide, by decide, c.isLt, t.isLt, r.isLt, s.isLt, by decide, trivial⟩
  have he := word_pack _ rfl hf
  generalize word [(4, 0x5), (6, 0x7), (3, c.toNat), (7, t.toNat), (4, r.toNat), (2, s.toNat), (6, 0x0)] = wd at *
  have q0 : fld wd 19 3 = c := fld_eq (part [_, _] he hf rfl rfl)
  have q1 : fld wd 12 7 = t := fld_eq (part [_, _, _] he hf rfl rfl)
  have q2 : fld wd 8 4 = r := fld_eq (part [_, _, _, _] he hf rfl rfl)
  have q3 : fld wd 6 2 = s := fld_eq (part [_, _, _, _, _] he hf rfl rfl)
  have hc : readSlot xb wd = readRowx 0x7 xb wd := slot_rowx (classOf he hf rfl) (part [_] he hf rfl rfl)
  have g0 : wd.toNat / 2 ^ 0 % 2 ^ 6 = 0x0 := part [_, _, _, _, _, _] he hf rfl rfl
  rw [hc, read_vcur, plain_eq hu, fixed_cons g0, fixed_nil, q0, q1, q2, q3]

theorem read_vcurs (xb : Ext) (wd : BitVec 32) : readRowx 0x8 xb wd =
    fixed wd [(0, 4, 0x0, 3), (4, 6, 0x0, 3), (10, 6, 0x21, 5)] (.vcurs (fld wd 16 6) xb) := rfl

theorem Encodes.vcurs (d : BitVec 6) (x : Ext) : Encodes.Statement (.vcurs d x) := by
  refine Encodes.ofExt (f := fun xb => .vcurs d xb) (fun xb => ?_) (fun _ => rfl) x
  have hf : Fits [(4, 0x5), (6, 0x8), (6, d.toNat), (6, 0x21), (6, 0x0), (4, 0x0)] :=
    ⟨by decide, by decide, d.isLt, by decide, by decide, by decide, trivial⟩
  have he := word_pack _ rfl hf
  generalize word [(4, 0x5), (6, 0x8), (6, d.toNat), (6, 0x21), (6, 0x0), (4, 0x0)] = wd at *
  have q0 : fld wd 16 6 = d := fld_eq (part [_, _] he hf rfl rfl)
  have hc : readSlot xb wd = readRowx 0x8 xb wd := slot_rowx (classOf he hf rfl) (part [_] he hf rfl rfl)
  have g0 : wd.toNat / 2 ^ 0 % 2 ^ 4 = 0x0 := part [_, _, _, _, _] he hf rfl rfl
  have g1 : wd.toNat / 2 ^ 4 % 2 ^ 6 = 0x0 := part [_, _, _, _] he hf rfl rfl
  have g2 : wd.toNat / 2 ^ 10 % 2 ^ 6 = 0x21 := part [_, _, _] he hf rfl rfl
  rw [hc, read_vcurs, fixed_cons g0, fixed_cons g1, fixed_cons g2, fixed_nil, q0]

theorem read_vextr (xb : Ext) (wd : BitVec 32) : readRowx 0x9 xb wd =
    fixed wd [] (.vextr (fld wd 16 6) (fld wd 10 6) (fld wd 4 6) (fld wd 0 4) xb) := rfl

theorem Encodes.vextr (d a l : BitVec 6) (p : BitVec 4) (x : Ext) : Encodes.Statement (.vextr d a l p x) := by
  refine Encodes.ofExt (f := fun xb => .vextr d a l p xb) (fun xb => ?_) (fun _ => rfl) x
  have hf : Fits [(4, 0x5), (6, 0x9), (6, d.toNat), (6, a.toNat), (6, l.toNat), (4, p.toNat)] :=
    ⟨by decide, by decide, d.isLt, a.isLt, l.isLt, p.isLt, trivial⟩
  have he := word_pack _ rfl hf
  generalize word [(4, 0x5), (6, 0x9), (6, d.toNat), (6, a.toNat), (6, l.toNat), (4, p.toNat)] = wd at *
  have q0 : fld wd 16 6 = d := fld_eq (part [_, _] he hf rfl rfl)
  have q1 : fld wd 10 6 = a := fld_eq (part [_, _, _] he hf rfl rfl)
  have q2 : fld wd 4 6 = l := fld_eq (part [_, _, _, _] he hf rfl rfl)
  have q3 : fld wd 0 4 = p := fld_eq (part [_, _, _, _, _] he hf rfl rfl)
  have hc : readSlot xb wd = readRowx 0x9 xb wd := slot_rowx (classOf he hf rfl) (part [_] he hf rfl rfl)
  rw [hc, read_vextr, fixed_nil, q0, q1, q2, q3]

theorem read_vinsr (xb : Ext) (wd : BitVec 32) : readRowx 0xA xb wd =
    fixed wd [] (.vinsr (fld wd 16 6) (fld wd 10 6) (fld wd 4 6) (fld wd 0 4) xb) := rfl

theorem Encodes.vinsr (d a l : BitVec 6) (p : BitVec 4) (x : Ext) : Encodes.Statement (.vinsr d a l p x) := by
  refine Encodes.ofExt (f := fun xb => .vinsr d a l p xb) (fun xb => ?_) (fun _ => rfl) x
  have hf : Fits [(4, 0x5), (6, 0xA), (6, d.toNat), (6, a.toNat), (6, l.toNat), (4, p.toNat)] :=
    ⟨by decide, by decide, d.isLt, a.isLt, l.isLt, p.isLt, trivial⟩
  have he := word_pack _ rfl hf
  generalize word [(4, 0x5), (6, 0xA), (6, d.toNat), (6, a.toNat), (6, l.toNat), (4, p.toNat)] = wd at *
  have q0 : fld wd 16 6 = d := fld_eq (part [_, _] he hf rfl rfl)
  have q1 : fld wd 10 6 = a := fld_eq (part [_, _, _] he hf rfl rfl)
  have q2 : fld wd 4 6 = l := fld_eq (part [_, _, _, _] he hf rfl rfl)
  have q3 : fld wd 0 4 = p := fld_eq (part [_, _, _, _, _] he hf rfl rfl)
  have hc : readSlot xb wd = readRowx 0xA xb wd := slot_rowx (classOf he hf rfl) (part [_] he hf rfl rfl)
  rw [hc, read_vinsr, fixed_nil, q0, q1, q2, q3]

theorem read_talloc (xb : Ext) (wd : BitVec 32) : readRowx 0xB xb wd =
    fixed wd [(0, 4, 0x0, 3), (10, 6, 0x0, 3), (16, 6, 0x0, 3)] (.talloc (fld wd 4 6) xb) := rfl

theorem Encodes.talloc (n : BitVec 6) (x : Ext) : Encodes.Statement (.talloc n x) := by
  refine Encodes.ofExt (f := fun xb => .talloc n xb) (fun xb => ?_) (fun _ => rfl) x
  have hf : Fits [(4, 0x5), (6, 0xB), (6, 0x0), (6, 0x0), (6, n.toNat), (4, 0x0)] :=
    ⟨by decide, by decide, by decide, by decide, n.isLt, by decide, trivial⟩
  have he := word_pack _ rfl hf
  generalize word [(4, 0x5), (6, 0xB), (6, 0x0), (6, 0x0), (6, n.toNat), (4, 0x0)] = wd at *
  have q0 : fld wd 4 6 = n := fld_eq (part [_, _, _, _] he hf rfl rfl)
  have hc : readSlot xb wd = readRowx 0xB xb wd := slot_rowx (classOf he hf rfl) (part [_] he hf rfl rfl)
  have g0 : wd.toNat / 2 ^ 0 % 2 ^ 4 = 0x0 := part [_, _, _, _, _] he hf rfl rfl
  have g1 : wd.toNat / 2 ^ 10 % 2 ^ 6 = 0x0 := part [_, _, _] he hf rfl rfl
  have g2 : wd.toNat / 2 ^ 16 % 2 ^ 6 = 0x0 := part [_, _] he hf rfl rfl
  rw [hc, read_talloc, fixed_cons g0, fixed_cons g1, fixed_cons g2, fixed_nil, q0]

theorem read_trel (xb : Ext) (wd : BitVec 32) : readRowx 0xC xb wd =
    fixed wd [(0, 4, 0x0, 3), (10, 6, 0x0, 3), (16, 6, 0x0, 3)] (.trel (fld wd 4 6) xb) := rfl

theorem Encodes.trel (k : BitVec 6) (x : Ext) : Encodes.Statement (.trel k x) := by
  refine Encodes.ofExt (f := fun xb => .trel k xb) (fun xb => ?_) (fun _ => rfl) x
  have hf : Fits [(4, 0x5), (6, 0xC), (6, 0x0), (6, 0x0), (6, k.toNat), (4, 0x0)] :=
    ⟨by decide, by decide, by decide, by decide, k.isLt, by decide, trivial⟩
  have he := word_pack _ rfl hf
  generalize word [(4, 0x5), (6, 0xC), (6, 0x0), (6, 0x0), (6, k.toNat), (4, 0x0)] = wd at *
  have q0 : fld wd 4 6 = k := fld_eq (part [_, _, _, _] he hf rfl rfl)
  have hc : readSlot xb wd = readRowx 0xC xb wd := slot_rowx (classOf he hf rfl) (part [_] he hf rfl rfl)
  have g0 : wd.toNat / 2 ^ 0 % 2 ^ 4 = 0x0 := part [_, _, _, _, _] he hf rfl rfl
  have g1 : wd.toNat / 2 ^ 10 % 2 ^ 6 = 0x0 := part [_, _, _] he hf rfl rfl
  have g2 : wd.toNat / 2 ^ 16 % 2 ^ 6 = 0x0 := part [_, _] he hf rfl rfl
  rw [hc, read_trel, fixed_cons g0, fixed_cons g1, fixed_cons g2, fixed_nil, q0]

theorem read_tzero (xb : Ext) (wd : BitVec 32) : readRowx 0xD xb wd =
    fixed wd [(0, 4, 0x0, 3), (10, 6, 0x0, 3), (16, 6, 0x0, 3)] (.tzero (fld wd 4 6) xb) := rfl

theorem Encodes.tzero (k : BitVec 6) (x : Ext) : Encodes.Statement (.tzero k x) := by
  refine Encodes.ofExt (f := fun xb => .tzero k xb) (fun xb => ?_) (fun _ => rfl) x
  have hf : Fits [(4, 0x5), (6, 0xD), (6, 0x0), (6, 0x0), (6, k.toNat), (4, 0x0)] :=
    ⟨by decide, by decide, by decide, by decide, k.isLt, by decide, trivial⟩
  have he := word_pack _ rfl hf
  generalize word [(4, 0x5), (6, 0xD), (6, 0x0), (6, 0x0), (6, k.toNat), (4, 0x0)] = wd at *
  have q0 : fld wd 4 6 = k := fld_eq (part [_, _, _, _] he hf rfl rfl)
  have hc : readSlot xb wd = readRowx 0xD xb wd := slot_rowx (classOf he hf rfl) (part [_] he hf rfl rfl)
  have g0 : wd.toNat / 2 ^ 0 % 2 ^ 4 = 0x0 := part [_, _, _, _, _] he hf rfl rfl
  have g1 : wd.toNat / 2 ^ 10 % 2 ^ 6 = 0x0 := part [_, _, _] he hf rfl rfl
  have g2 : wd.toNat / 2 ^ 16 % 2 ^ 6 = 0x0 := part [_, _] he hf rfl rfl
  rw [hc, read_tzero, fixed_cons g0, fixed_cons g1, fixed_cons g2, fixed_nil, q0]

theorem read_vtrit (xb : Ext) (wd : BitVec 32) : readRowx 0xE xb wd =
    fixed wd [] (.vtrit (fld wd 16 6) (fld wd 10 6) (fld wd 4 6) (fld wd 0 4) xb) := rfl

theorem Encodes.vtrit (d a k : BitVec 6) (p : BitVec 4) (x : Ext) : Encodes.Statement (.vtrit d a k p x) := by
  refine Encodes.ofExt (f := fun xb => .vtrit d a k p xb) (fun xb => ?_) (fun _ => rfl) x
  have hf : Fits [(4, 0x5), (6, 0xE), (6, d.toNat), (6, a.toNat), (6, k.toNat), (4, p.toNat)] :=
    ⟨by decide, by decide, d.isLt, a.isLt, k.isLt, p.isLt, trivial⟩
  have he := word_pack _ rfl hf
  generalize word [(4, 0x5), (6, 0xE), (6, d.toNat), (6, a.toNat), (6, k.toNat), (4, p.toNat)] = wd at *
  have q0 : fld wd 16 6 = d := fld_eq (part [_, _] he hf rfl rfl)
  have q1 : fld wd 10 6 = a := fld_eq (part [_, _, _] he hf rfl rfl)
  have q2 : fld wd 4 6 = k := fld_eq (part [_, _, _, _] he hf rfl rfl)
  have q3 : fld wd 0 4 = p := fld_eq (part [_, _, _, _, _] he hf rfl rfl)
  have hc : readSlot xb wd = readRowx 0xE xb wd := slot_rowx (classOf he hf rfl) (part [_] he hf rfl rfl)
  rw [hc, read_vtrit, fixed_nil, q0, q1, q2, q3]

theorem read_wbfill (xb : Ext) (wd : BitVec 32) : readMtx 0x0 xb wd =
    fixed wd [(3, 1, 0x0, 3), (4, 3, 0x0, 3), (17, 5, 0x0, 3)] (.wbfill (fld wd 11 6) (fld wd 7 4) (fld wd 0 3) xb) := rfl

theorem Encodes.wbfill (s : BitVec 6) (w : BitVec 4) (n : BitVec 3) (x : Ext) : Encodes.Statement (.wbfill s w n x) := by
  refine Encodes.ofExt (f := fun xb => .wbfill s w n xb) (fun xb => ?_) (fun _ => rfl) x
  have hf : Fits [(4, 0x6), (6, 0x0), (5, 0x0), (6, s.toNat), (4, w.toNat), (3, 0x0), (1, 0x0), (3, n.toNat)] :=
    ⟨by decide, by decide, by decide, s.isLt, w.isLt, by decide, by decide, n.isLt, trivial⟩
  have he := word_pack _ rfl hf
  generalize word [(4, 0x6), (6, 0x0), (5, 0x0), (6, s.toNat), (4, w.toNat), (3, 0x0), (1, 0x0), (3, n.toNat)] = wd at *
  have q0 : fld wd 11 6 = s := fld_eq (part [_, _, _] he hf rfl rfl)
  have q1 : fld wd 7 4 = w := fld_eq (part [_, _, _, _] he hf rfl rfl)
  have q2 : fld wd 0 3 = n := fld_eq (part [_, _, _, _, _, _, _] he hf rfl rfl)
  have hc : readSlot xb wd = readMtx 0x0 xb wd := slot_mtx (classOf he hf rfl) (part [_] he hf rfl rfl)
  have g0 : wd.toNat / 2 ^ 3 % 2 ^ 1 = 0x0 := part [_, _, _, _, _, _] he hf rfl rfl
  have g1 : wd.toNat / 2 ^ 4 % 2 ^ 3 = 0x0 := part [_, _, _, _, _] he hf rfl rfl
  have g2 : wd.toNat / 2 ^ 17 % 2 ^ 5 = 0x0 := part [_, _] he hf rfl rfl
  rw [hc, read_wbfill, fixed_cons g0, fixed_cons g1, fixed_cons g2, fixed_nil, q0, q1, q2]

theorem read_mldw (xb : Ext) (wd : BitVec 32) : readMtx 0x1 xb wd =
    plain xb wd [(0, 3, 0x0, 3), (3, 1, 0x0, 3), (11, 6, 0x0, 3), (17, 5, 0x0, 3)] (.mldw (fld wd 7 4) (fld wd 4 3)) := rfl

theorem Encodes.mldw (w : BitVec 4) (k : BitVec 3) : Encodes.Statement (.mldw w k) := by
  refine Encodes.ofPlain (fun xb hu => ?_) rfl
  have hf : Fits [(4, 0x6), (6, 0x1), (5, 0x0), (6, 0x0), (4, w.toNat), (3, k.toNat), (1, 0x0), (3, 0x0)] :=
    ⟨by decide, by decide, by decide, by decide, w.isLt, k.isLt, by decide, by decide, trivial⟩
  have he := word_pack _ rfl hf
  generalize word [(4, 0x6), (6, 0x1), (5, 0x0), (6, 0x0), (4, w.toNat), (3, k.toNat), (1, 0x0), (3, 0x0)] = wd at *
  have q0 : fld wd 7 4 = w := fld_eq (part [_, _, _, _] he hf rfl rfl)
  have q1 : fld wd 4 3 = k := fld_eq (part [_, _, _, _, _] he hf rfl rfl)
  have hc : readSlot xb wd = readMtx 0x1 xb wd := slot_mtx (classOf he hf rfl) (part [_] he hf rfl rfl)
  have g0 : wd.toNat / 2 ^ 0 % 2 ^ 3 = 0x0 := part [_, _, _, _, _, _, _] he hf rfl rfl
  have g1 : wd.toNat / 2 ^ 3 % 2 ^ 1 = 0x0 := part [_, _, _, _, _, _] he hf rfl rfl
  have g2 : wd.toNat / 2 ^ 11 % 2 ^ 6 = 0x0 := part [_, _, _] he hf rfl rfl
  have g3 : wd.toNat / 2 ^ 17 % 2 ^ 5 = 0x0 := part [_, _] he hf rfl rfl
  rw [hc, read_mldw, plain_eq hu, fixed_cons g0, fixed_cons g1, fixed_cons g2, fixed_cons g3, fixed_nil, q0, q1]

theorem read_mma (xb : Ext) (wd : BitVec 32) : readMtx 0x2 xb wd =
    fixed wd [] (.mma (fld wd 17 5) (fld wd 11 6) (fld wd 7 4) (fld wd 4 3) (fld wd 3 1) (fld wd 0 3) xb) := rfl

theorem Encodes.mma (z : BitVec 5) (s : BitVec 6) (w : BitVec 4) (k : BitVec 3) (p : BitVec 1) (n : BitVec 3) (x : Ext) : Encodes.Statement (.mma z s w k p n x) := by
  refine Encodes.ofExt (f := fun xb => .mma z s w k p n xb) (fun xb => ?_) (fun _ => rfl) x
  have hf : Fits [(4, 0x6), (6, 0x2), (5, z.toNat), (6, s.toNat), (4, w.toNat), (3, k.toNat), (1, p.toNat), (3, n.toNat)] :=
    ⟨by decide, by decide, z.isLt, s.isLt, w.isLt, k.isLt, p.isLt, n.isLt, trivial⟩
  have he := word_pack _ rfl hf
  generalize word [(4, 0x6), (6, 0x2), (5, z.toNat), (6, s.toNat), (4, w.toNat), (3, k.toNat), (1, p.toNat), (3, n.toNat)] = wd at *
  have q0 : fld wd 17 5 = z := fld_eq (part [_, _] he hf rfl rfl)
  have q1 : fld wd 11 6 = s := fld_eq (part [_, _, _] he hf rfl rfl)
  have q2 : fld wd 7 4 = w := fld_eq (part [_, _, _, _] he hf rfl rfl)
  have q3 : fld wd 4 3 = k := fld_eq (part [_, _, _, _, _] he hf rfl rfl)
  have q4 : fld wd 3 1 = p := fld_eq (part [_, _, _, _, _, _] he hf rfl rfl)
  have q5 : fld wd 0 3 = n := fld_eq (part [_, _, _, _, _, _, _] he hf rfl rfl)
  have hc : readSlot xb wd = readMtx 0x2 xb wd := slot_mtx (classOf he hf rfl) (part [_] he hf rfl rfl)
  rw [hc, read_mma, fixed_nil, q0, q1, q2, q3, q4, q5]

theorem read_mmaz (xb : Ext) (wd : BitVec 32) : readMtx 0x3 xb wd =
    fixed wd [] (.mmaz (fld wd 17 5) (fld wd 11 6) (fld wd 7 4) (fld wd 4 3) (fld wd 3 1) (fld wd 0 3) xb) := rfl

theorem Encodes.mmaz (z : BitVec 5) (s : BitVec 6) (w : BitVec 4) (k : BitVec 3) (p : BitVec 1) (n : BitVec 3) (x : Ext) : Encodes.Statement (.mmaz z s w k p n x) := by
  refine Encodes.ofExt (f := fun xb => .mmaz z s w k p n xb) (fun xb => ?_) (fun _ => rfl) x
  have hf : Fits [(4, 0x6), (6, 0x3), (5, z.toNat), (6, s.toNat), (4, w.toNat), (3, k.toNat), (1, p.toNat), (3, n.toNat)] :=
    ⟨by decide, by decide, z.isLt, s.isLt, w.isLt, k.isLt, p.isLt, n.isLt, trivial⟩
  have he := word_pack _ rfl hf
  generalize word [(4, 0x6), (6, 0x3), (5, z.toNat), (6, s.toNat), (4, w.toNat), (3, k.toNat), (1, p.toNat), (3, n.toNat)] = wd at *
  have q0 : fld wd 17 5 = z := fld_eq (part [_, _] he hf rfl rfl)
  have q1 : fld wd 11 6 = s := fld_eq (part [_, _, _] he hf rfl rfl)
  have q2 : fld wd 7 4 = w := fld_eq (part [_, _, _, _] he hf rfl rfl)
  have q3 : fld wd 4 3 = k := fld_eq (part [_, _, _, _, _] he hf rfl rfl)
  have q4 : fld wd 3 1 = p := fld_eq (part [_, _, _, _, _, _] he hf rfl rfl)
  have q5 : fld wd 0 3 = n := fld_eq (part [_, _, _, _, _, _, _] he hf rfl rfl)
  have hc : readSlot xb wd = readMtx 0x3 xb wd := slot_mtx (classOf he hf rfl) (part [_] he hf rfl rfl)
  rw [hc, read_mmaz, fixed_nil, q0, q1, q2, q3, q4, q5]

theorem read_mbmap (xb : Ext) (wd : BitVec 32) : readMtx 0x4 xb wd =
    fixed wd [(0, 3, 0x0, 3), (3, 1, 0x0, 3), (4, 3, 0x0, 3), (17, 5, 0x0, 3)] (.mbmap (fld wd 11 6) (fld wd 7 4) xb) := rfl

theorem Encodes.mbmap (s : BitVec 6) (w : BitVec 4) (x : Ext) : Encodes.Statement (.mbmap s w x) := by
  refine Encodes.ofExt (f := fun xb => .mbmap s w xb) (fun xb => ?_) (fun _ => rfl) x
  have hf : Fits [(4, 0x6), (6, 0x4), (5, 0x0), (6, s.toNat), (4, w.toNat), (3, 0x0), (1, 0x0), (3, 0x0)] :=
    ⟨by decide, by decide, by decide, s.isLt, w.isLt, by decide, by decide, by decide, trivial⟩
  have he := word_pack _ rfl hf
  generalize word [(4, 0x6), (6, 0x4), (5, 0x0), (6, s.toNat), (4, w.toNat), (3, 0x0), (1, 0x0), (3, 0x0)] = wd at *
  have q0 : fld wd 11 6 = s := fld_eq (part [_, _, _] he hf rfl rfl)
  have q1 : fld wd 7 4 = w := fld_eq (part [_, _, _, _] he hf rfl rfl)
  have hc : readSlot xb wd = readMtx 0x4 xb wd := slot_mtx (classOf he hf rfl) (part [_] he hf rfl rfl)
  have g0 : wd.toNat / 2 ^ 0 % 2 ^ 3 = 0x0 := part [_, _, _, _, _, _, _] he hf rfl rfl
  have g1 : wd.toNat / 2 ^ 3 % 2 ^ 1 = 0x0 := part [_, _, _, _, _, _] he hf rfl rfl
  have g2 : wd.toNat / 2 ^ 4 % 2 ^ 3 = 0x0 := part [_, _, _, _, _] he hf rfl rfl
  have g3 : wd.toNat / 2 ^ 17 % 2 ^ 5 = 0x0 := part [_, _] he hf rfl rfl
  rw [hc, read_mbmap, fixed_cons g0, fixed_cons g1, fixed_cons g2, fixed_cons g3, fixed_nil, q0, q1]

theorem read_anorm (xb : Ext) (wd : BitVec 32) : readMtx 0x5 xb wd =
    fixed wd [(0, 3, 0x0, 3), (3, 1, 0x0, 3), (4, 3, 0x0, 3), (7, 4, 0x0, 3)] (.anorm (fld wd 17 5) (fld wd 11 6) xb) := rfl

theorem Encodes.anorm (z : BitVec 5) (s : BitVec 6) (x : Ext) : Encodes.Statement (.anorm z s x) := by
  refine Encodes.ofExt (f := fun xb => .anorm z s xb) (fun xb => ?_) (fun _ => rfl) x
  have hf : Fits [(4, 0x6), (6, 0x5), (5, z.toNat), (6, s.toNat), (4, 0x0), (3, 0x0), (1, 0x0), (3, 0x0)] :=
    ⟨by decide, by decide, z.isLt, s.isLt, by decide, by decide, by decide, by decide, trivial⟩
  have he := word_pack _ rfl hf
  generalize word [(4, 0x6), (6, 0x5), (5, z.toNat), (6, s.toNat), (4, 0x0), (3, 0x0), (1, 0x0), (3, 0x0)] = wd at *
  have q0 : fld wd 17 5 = z := fld_eq (part [_, _] he hf rfl rfl)
  have q1 : fld wd 11 6 = s := fld_eq (part [_, _, _] he hf rfl rfl)
  have hc : readSlot xb wd = readMtx 0x5 xb wd := slot_mtx (classOf he hf rfl) (part [_] he hf rfl rfl)
  have g0 : wd.toNat / 2 ^ 0 % 2 ^ 3 = 0x0 := part [_, _, _, _, _, _, _] he hf rfl rfl
  have g1 : wd.toNat / 2 ^ 3 % 2 ^ 1 = 0x0 := part [_, _, _, _, _, _] he hf rfl rfl
  have g2 : wd.toNat / 2 ^ 4 % 2 ^ 3 = 0x0 := part [_, _, _, _, _] he hf rfl rfl
  have g3 : wd.toNat / 2 ^ 7 % 2 ^ 4 = 0x0 := part [_, _, _, _] he hf rfl rfl
  rw [hc, read_anorm, fixed_cons g0, fixed_cons g1, fixed_cons g2, fixed_cons g3, fixed_nil, q0, q1]

theorem read_ard (xb : Ext) (wd : BitVec 32) : readMtx 0x6 xb wd =
    plain xb wd [] (.ard (fld wd 17 5) (fld wd 11 6) (fld wd 4 7) (fld wd 3 1) (fld wd 0 3)) := rfl

theorem Encodes.ard (z : BitVec 5) (d : BitVec 6) (r : BitVec 7) (e : BitVec 1) (n : BitVec 3) : Encodes.Statement (.ard z d r e n) := by
  refine Encodes.ofPlain (fun xb hu => ?_) rfl
  have hf : Fits [(4, 0x6), (6, 0x6), (5, z.toNat), (6, d.toNat), (7, r.toNat), (1, e.toNat), (3, n.toNat)] :=
    ⟨by decide, by decide, z.isLt, d.isLt, r.isLt, e.isLt, n.isLt, trivial⟩
  have he := word_pack _ rfl hf
  generalize word [(4, 0x6), (6, 0x6), (5, z.toNat), (6, d.toNat), (7, r.toNat), (1, e.toNat), (3, n.toNat)] = wd at *
  have q0 : fld wd 17 5 = z := fld_eq (part [_, _] he hf rfl rfl)
  have q1 : fld wd 11 6 = d := fld_eq (part [_, _, _] he hf rfl rfl)
  have q2 : fld wd 4 7 = r := fld_eq (part [_, _, _, _] he hf rfl rfl)
  have q3 : fld wd 3 1 = e := fld_eq (part [_, _, _, _, _] he hf rfl rfl)
  have q4 : fld wd 0 3 = n := fld_eq (part [_, _, _, _, _, _] he hf rfl rfl)
  have hc : readSlot xb wd = readMtx 0x6 xb wd := slot_mtx (classOf he hf rfl) (part [_] he hf rfl rfl)
  rw [hc, read_ard, plain_eq hu, fixed_nil, q0, q1, q2, q3, q4]

theorem read_awr (xb : Ext) (wd : BitVec 32) : readMtx 0x7 xb wd =
    fixed wd [] (.awr (fld wd 17 5) (fld wd 11 6) (fld wd 4 7) (fld wd 3 1) (fld wd 0 3) xb) := rfl

theorem Encodes.awr (z : BitVec 5) (s : BitVec 6) (r : BitVec 7) (g : BitVec 1) (n : BitVec 3) (x : Ext) : Encodes.Statement (.awr z s r g n x) := by
  refine Encodes.ofExt (f := fun xb => .awr z s r g n xb) (fun xb => ?_) (fun _ => rfl) x
  have hf : Fits [(4, 0x6), (6, 0x7), (5, z.toNat), (6, s.toNat), (7, r.toNat), (1, g.toNat), (3, n.toNat)] :=
    ⟨by decide, by decide, z.isLt, s.isLt, r.isLt, g.isLt, n.isLt, trivial⟩
  have he := word_pack _ rfl hf
  generalize word [(4, 0x6), (6, 0x7), (5, z.toNat), (6, s.toNat), (7, r.toNat), (1, g.toNat), (3, n.toNat)] = wd at *
  have q0 : fld wd 17 5 = z := fld_eq (part [_, _] he hf rfl rfl)
  have q1 : fld wd 11 6 = s := fld_eq (part [_, _, _] he hf rfl rfl)
  have q2 : fld wd 4 7 = r := fld_eq (part [_, _, _, _] he hf rfl rfl)
  have q3 : fld wd 3 1 = g := fld_eq (part [_, _, _, _, _] he hf rfl rfl)
  have q4 : fld wd 0 3 = n := fld_eq (part [_, _, _, _, _, _] he hf rfl rfl)
  have hc : readSlot xb wd = readMtx 0x7 xb wd := slot_mtx (classOf he hf rfl) (part [_] he hf rfl rfl)
  rw [hc, read_awr, fixed_nil, q0, q1, q2, q3, q4]

theorem read_aexpWrite (xb : Ext) (wd : BitVec 32) (hb : fld wd 5 1 = 0) : readMtx 0x8 xb wd =
    fixed wd [(0, 3, 0x0, 3), (3, 1, 0x0, 3), (5, 2, 0x0, 5), (7, 4, 0x0, 3)] (.aexpWrite (fld wd 17 5) (fld wd 11 6) (fld wd 4 1) xb) := if_neg (by rw [hb]; decide)

theorem Encodes.aexpWrite (z : BitVec 5) (s : BitVec 6) (y : BitVec 1) (x : Ext) : Encodes.Statement (.aexpWrite z s y x) := by
  refine Encodes.ofExt (f := fun xb => .aexpWrite z s y xb) (fun xb => ?_) (fun _ => rfl) x
  have hf : Fits [(4, 0x6), (6, 0x8), (5, z.toNat), (6, s.toNat), (4, 0x0), (2, 0x0), (1, y.toNat), (1, 0x0), (3, 0x0)] :=
    ⟨by decide, by decide, z.isLt, s.isLt, by decide, by decide, y.isLt, by decide, by decide, trivial⟩
  have he := word_pack _ rfl hf
  generalize word [(4, 0x6), (6, 0x8), (5, z.toNat), (6, s.toNat), (4, 0x0), (2, 0x0), (1, y.toNat), (1, 0x0), (3, 0x0)] = wd at *
  have q0 : fld wd 17 5 = z := fld_eq (part [_, _] he hf rfl rfl)
  have q1 : fld wd 11 6 = s := fld_eq (part [_, _, _] he hf rfl rfl)
  have q2 : fld wd 4 1 = y := fld_eq (part [_, _, _, _, _, _] he hf rfl rfl)
  have hc : readSlot xb wd = readMtx 0x8 xb wd := slot_mtx (classOf he hf rfl) (part [_] he hf rfl rfl)
  have hg : wd.toNat / 2 ^ 5 % 2 ^ 2 = 0x0 := part [_, _, _, _, _] he hf rfl rfl
  have hb : fld wd 5 1 = 0 := fld_eq (by rw [show (0 : BitVec 1).toNat = 0 from rfl]; omega)
  have g0 : wd.toNat / 2 ^ 0 % 2 ^ 3 = 0x0 := part [_, _, _, _, _, _, _, _] he hf rfl rfl
  have g1 : wd.toNat / 2 ^ 3 % 2 ^ 1 = 0x0 := part [_, _, _, _, _, _, _] he hf rfl rfl
  have g2 : wd.toNat / 2 ^ 5 % 2 ^ 2 = 0x0 := part [_, _, _, _, _] he hf rfl rfl
  have g3 : wd.toNat / 2 ^ 7 % 2 ^ 4 = 0x0 := part [_, _, _, _] he hf rfl rfl
  rw [hc, read_aexpWrite xb wd hb, fixed_cons g0, fixed_cons g1, fixed_cons g2, fixed_cons g3, fixed_nil, q0, q1, q2]

theorem read_aexpRead (xb : Ext) (wd : BitVec 32) (hb : fld wd 5 1 = 1) : readMtx 0x8 xb wd =
    plain xb wd [(0, 3, 0x0, 3), (3, 1, 0x0, 3), (5, 2, 0x1, 5), (7, 4, 0x0, 3)] (.aexpRead (fld wd 17 5) (fld wd 11 6) (fld wd 4 1)) := if_pos hb

theorem Encodes.aexpRead (z : BitVec 5) (d : BitVec 6) (y : BitVec 1) : Encodes.Statement (.aexpRead z d y) := by
  refine Encodes.ofPlain (fun xb hu => ?_) rfl
  have hf : Fits [(4, 0x6), (6, 0x8), (5, z.toNat), (6, d.toNat), (4, 0x0), (2, 0x1), (1, y.toNat), (1, 0x0), (3, 0x0)] :=
    ⟨by decide, by decide, z.isLt, d.isLt, by decide, by decide, y.isLt, by decide, by decide, trivial⟩
  have he := word_pack _ rfl hf
  generalize word [(4, 0x6), (6, 0x8), (5, z.toNat), (6, d.toNat), (4, 0x0), (2, 0x1), (1, y.toNat), (1, 0x0), (3, 0x0)] = wd at *
  have q0 : fld wd 17 5 = z := fld_eq (part [_, _] he hf rfl rfl)
  have q1 : fld wd 11 6 = d := fld_eq (part [_, _, _] he hf rfl rfl)
  have q2 : fld wd 4 1 = y := fld_eq (part [_, _, _, _, _, _] he hf rfl rfl)
  have hc : readSlot xb wd = readMtx 0x8 xb wd := slot_mtx (classOf he hf rfl) (part [_] he hf rfl rfl)
  have hg : wd.toNat / 2 ^ 5 % 2 ^ 2 = 0x1 := part [_, _, _, _, _] he hf rfl rfl
  have hb : fld wd 5 1 = 1 := fld_eq (by rw [show (1 : BitVec 1).toNat = 1 from rfl]; omega)
  have g0 : wd.toNat / 2 ^ 0 % 2 ^ 3 = 0x0 := part [_, _, _, _, _, _, _, _] he hf rfl rfl
  have g1 : wd.toNat / 2 ^ 3 % 2 ^ 1 = 0x0 := part [_, _, _, _, _, _, _] he hf rfl rfl
  have g2 : wd.toNat / 2 ^ 5 % 2 ^ 2 = 0x1 := part [_, _, _, _, _] he hf rfl rfl
  have g3 : wd.toNat / 2 ^ 7 % 2 ^ 4 = 0x0 := part [_, _, _, _] he hf rfl rfl
  rw [hc, read_aexpRead xb wd hb, plain_eq hu, fixed_cons g0, fixed_cons g1, fixed_cons g2, fixed_cons g3, fixed_nil, q0, q1, q2]

theorem read_agrd (xb : Ext) (wd : BitVec 32) : readMtx 0x9 xb wd =
    plain xb wd [(0, 3, 0x0, 3)] (.agrd (fld wd 17 5) (fld wd 11 6) (fld wd 4 7) (fld wd 3 1)) := rfl

theorem Encodes.agrd (z : BitVec 5) (d : BitVec 6) (r : BitVec 7) (m : BitVec 1) : Encodes.Statement (.agrd z d r m) := by
  refine Encodes.ofPlain (fun xb hu => ?_) rfl
  have hf : Fits [(4, 0x6), (6, 0x9), (5, z.toNat), (6, d.toNat), (7, r.toNat), (1, m.toNat), (3, 0x0)] :=
    ⟨by decide, by decide, z.isLt, d.isLt, r.isLt, m.isLt, by decide, trivial⟩
  have he := word_pack _ rfl hf
  generalize word [(4, 0x6), (6, 0x9), (5, z.toNat), (6, d.toNat), (7, r.toNat), (1, m.toNat), (3, 0x0)] = wd at *
  have q0 : fld wd 17 5 = z := fld_eq (part [_, _] he hf rfl rfl)
  have q1 : fld wd 11 6 = d := fld_eq (part [_, _, _] he hf rfl rfl)
  have q2 : fld wd 4 7 = r := fld_eq (part [_, _, _, _] he hf rfl rfl)
  have q3 : fld wd 3 1 = m := fld_eq (part [_, _, _, _, _] he hf rfl rfl)
  have hc : readSlot xb wd = readMtx 0x9 xb wd := slot_mtx (classOf he hf rfl) (part [_] he hf rfl rfl)
  have g0 : wd.toNat / 2 ^ 0 % 2 ^ 3 = 0x0 := part [_, _, _, _, _, _] he hf rfl rfl
  rw [hc, read_agrd, plain_eq hu, fixed_cons g0, fixed_nil, q0, q1, q2, q3]

theorem read_azero (xb : Ext) (wd : BitVec 32) : readMtx 0xA xb wd =
    plain xb wd [(0, 3, 0x0, 3), (3, 1, 0x0, 3), (4, 3, 0x0, 3), (7, 4, 0x0, 3), (11, 6, 0x0, 3)] (.azero (fld wd 17 5)) := rfl

theorem Encodes.azero (z : BitVec 5) : Encodes.Statement (.azero z) := by
  refine Encodes.ofPlain (fun xb hu => ?_) rfl
  have hf : Fits [(4, 0x6), (6, 0xA), (5, z.toNat), (6, 0x0), (4, 0x0), (3, 0x0), (1, 0x0), (3, 0x0)] :=
    ⟨by decide, by decide, z.isLt, by decide, by decide, by decide, by decide, by decide, trivial⟩
  have he := word_pack _ rfl hf
  generalize word [(4, 0x6), (6, 0xA), (5, z.toNat), (6, 0x0), (4, 0x0), (3, 0x0), (1, 0x0), (3, 0x0)] = wd at *
  have q0 : fld wd 17 5 = z := fld_eq (part [_, _] he hf rfl rfl)
  have hc : readSlot xb wd = readMtx 0xA xb wd := slot_mtx (classOf he hf rfl) (part [_] he hf rfl rfl)
  have g0 : wd.toNat / 2 ^ 0 % 2 ^ 3 = 0x0 := part [_, _, _, _, _, _, _] he hf rfl rfl
  have g1 : wd.toNat / 2 ^ 3 % 2 ^ 1 = 0x0 := part [_, _, _, _, _, _] he hf rfl rfl
  have g2 : wd.toNat / 2 ^ 4 % 2 ^ 3 = 0x0 := part [_, _, _, _, _] he hf rfl rfl
  have g3 : wd.toNat / 2 ^ 7 % 2 ^ 4 = 0x0 := part [_, _, _, _] he hf rfl rfl
  have g4 : wd.toNat / 2 ^ 11 % 2 ^ 6 = 0x0 := part [_, _, _] he hf rfl rfl
  rw [hc, read_azero, plain_eq hu, fixed_cons g0, fixed_cons g1, fixed_cons g2, fixed_cons g3, fixed_cons g4, fixed_nil, q0]

theorem read_mstat (xb : Ext) (wd : BitVec 32) : readMtx 0xB xb wd =
    plain xb wd [(0, 3, 0x0, 3), (4, 3, 0x0, 3)] (.mstat (fld wd 17 5) (fld wd 11 6) (fld wd 7 4) (fld wd 3 1)) := rfl

theorem Encodes.mstat (z : BitVec 5) (d : BitVec 6) (w : BitVec 4) (c : BitVec 1) : Encodes.Statement (.mstat z d w c) := by
  refine Encodes.ofPlain (fun xb hu => ?_) rfl
  have hf : Fits [(4, 0x6), (6, 0xB), (5, z.toNat), (6, d.toNat), (4, w.toNat), (3, 0x0), (1, c.toNat), (3, 0x0)] :=
    ⟨by decide, by decide, z.isLt, d.isLt, w.isLt, by decide, c.isLt, by decide, trivial⟩
  have he := word_pack _ rfl hf
  generalize word [(4, 0x6), (6, 0xB), (5, z.toNat), (6, d.toNat), (4, w.toNat), (3, 0x0), (1, c.toNat), (3, 0x0)] = wd at *
  have q0 : fld wd 17 5 = z := fld_eq (part [_, _] he hf rfl rfl)
  have q1 : fld wd 11 6 = d := fld_eq (part [_, _, _] he hf rfl rfl)
  have q2 : fld wd 7 4 = w := fld_eq (part [_, _, _, _] he hf rfl rfl)
  have q3 : fld wd 3 1 = c := fld_eq (part [_, _, _, _, _, _] he hf rfl rfl)
  have hc : readSlot xb wd = readMtx 0xB xb wd := slot_mtx (classOf he hf rfl) (part [_] he hf rfl rfl)
  have g0 : wd.toNat / 2 ^ 0 % 2 ^ 3 = 0x0 := part [_, _, _, _, _, _, _] he hf rfl rfl
  have g1 : wd.toNat / 2 ^ 4 % 2 ^ 3 = 0x0 := part [_, _, _, _, _] he hf rfl rfl
  rw [hc, read_mstat, plain_eq hu, fixed_cons g0, fixed_cons g1, fixed_nil, q0, q1, q2, q3]

theorem read_mwait (xb : Ext) (wd : BitVec 32) : readMtx 0xC xb wd =
    plain xb wd [(0, 3, 0x0, 3), (3, 1, 0x0, 3), (11, 6, 0x0, 3)] (.mwait (fld wd 17 5) (fld wd 7 4) (fld wd 4 3)) := rfl

theorem Encodes.mwait (z : BitVec 5) (w : BitVec 4) (s : BitVec 3) : Encodes.Statement (.mwait z w s) := by
  refine Encodes.ofPlain (fun xb hu => ?_) rfl
  have hf : Fits [(4, 0x6), (6, 0xC), (5, z.toNat), (6, 0x0), (4, w.toNat), (3, s.toNat), (1, 0x0), (3, 0x0)] :=
    ⟨by decide, by decide, z.isLt, by decide, w.isLt, s.isLt, by decide, by decide, trivial⟩
  have he := word_pack _ rfl hf
  generalize word [(4, 0x6), (6, 0xC), (5, z.toNat), (6, 0x0), (4, w.toNat), (3, s.toNat), (1, 0x0), (3, 0x0)] = wd at *
  have q0 : fld wd 17 5 = z := fld_eq (part [_, _] he hf rfl rfl)
  have q1 : fld wd 7 4 = w := fld_eq (part [_, _, _, _] he hf rfl rfl)
  have q2 : fld wd 4 3 = s := fld_eq (part [_, _, _, _, _] he hf rfl rfl)
  have hc : readSlot xb wd = readMtx 0xC xb wd := slot_mtx (classOf he hf rfl) (part [_] he hf rfl rfl)
  have g0 : wd.toNat / 2 ^ 0 % 2 ^ 3 = 0x0 := part [_, _, _, _, _, _, _] he hf rfl rfl
  have g1 : wd.toNat / 2 ^ 3 % 2 ^ 1 = 0x0 := part [_, _, _, _, _, _] he hf rfl rfl
  have g2 : wd.toNat / 2 ^ 11 % 2 ^ 6 = 0x0 := part [_, _, _] he hf rfl rfl
  rw [hc, read_mwait, plain_eq hu, fixed_cons g0, fixed_cons g1, fixed_cons g2, fixed_nil, q0, q1, q2]

theorem read_hopen (xb : Ext) (wd : BitVec 32) : readHead 0x0 xb wd =
    fixed wd [(0, 4, 0x0, 5), (9, 3, 0x0, 3)] (.hopen (fld wd 18 4) (fld wd 12 6) (fld wd 8 1) (fld wd 7 1) (fld wd 4 3) xb) := rfl

theorem Encodes.hopen (h : BitVec 4) (t : BitVec 6) (b a : BitVec 1) (w : BitVec 3) (x : Ext) : Encodes.Statement (.hopen h t b a w x) := by
  refine Encodes.ofExt (f := fun xb => .hopen h t b a w xb) (fun xb => ?_) (fun _ => rfl) x
  have hf : Fits [(4, 0x7), (6, 0x0), (4, h.toNat), (6, t.toNat), (3, 0x0), (1, b.toNat), (1, a.toNat), (3, w.toNat), (4, 0x0)] :=
    ⟨by decide, by decide, h.isLt, t.isLt, by decide, b.isLt, a.isLt, w.isLt, by decide, trivial⟩
  have he := word_pack _ rfl hf
  generalize word [(4, 0x7), (6, 0x0), (4, h.toNat), (6, t.toNat), (3, 0x0), (1, b.toNat), (1, a.toNat), (3, w.toNat), (4, 0x0)] = wd at *
  have q0 : fld wd 18 4 = h := fld_eq (part [_, _] he hf rfl rfl)
  have q1 : fld wd 12 6 = t := fld_eq (part [_, _, _] he hf rfl rfl)
  have q2 : fld wd 8 1 = b := fld_eq (part [_, _, _, _, _] he hf rfl rfl)
  have q3 : fld wd 7 1 = a := fld_eq (part [_, _, _, _, _, _] he hf rfl rfl)
  have q4 : fld wd 4 3 = w := fld_eq (part [_, _, _, _, _, _, _] he hf rfl rfl)
  have hc : readSlot xb wd = readHead 0x0 xb wd := slot_head (classOf he hf rfl) (part [_] he hf rfl rfl)
  have g0 : wd.toNat / 2 ^ 0 % 2 ^ 4 = 0x0 := part [_, _, _, _, _, _, _, _] he hf rfl rfl
  have g1 : wd.toNat / 2 ^ 9 % 2 ^ 3 = 0x0 := part [_, _, _, _] he hf rfl rfl
  rw [hc, read_hopen, fixed_cons g0, fixed_cons g1, fixed_nil, q0, q1, q2, q3, q4]

theorem read_hclose (xb : Ext) (wd : BitVec 32) : readHead 0x1 xb wd =
    plain xb wd [(0, 4, 0x0, 5), (9, 3, 0x0, 3), (12, 6, 0x0, 3)] (.hclose (fld wd 18 4) (fld wd 4 5)) := rfl

theorem Encodes.hclose (h : BitVec 4) (d : BitVec 5) : Encodes.Statement (.hclose h d) := by
  refine Encodes.ofPlain (fun xb hu => ?_) rfl
  have hf : Fits [(4, 0x7), (6, 0x1), (4, h.toNat), (6, 0x0), (3, 0x0), (5, d.toNat), (4, 0x0)] :=
    ⟨by decide, by decide, h.isLt, by decide, by decide, d.isLt, by decide, trivial⟩
  have he := word_pack _ rfl hf
  generalize word [(4, 0x7), (6, 0x1), (4, h.toNat), (6, 0x0), (3, 0x0), (5, d.toNat), (4, 0x0)] = wd at *
  have q0 : fld wd 18 4 = h := fld_eq (part [_, _] he hf rfl rfl)
  have q1 : fld wd 4 5 = d := fld_eq (part [_, _, _, _, _] he hf rfl rfl)
  have hc : readSlot xb wd = readHead 0x1 xb wd := slot_head (classOf he hf rfl) (part [_] he hf rfl rfl)
  have g0 : wd.toNat / 2 ^ 0 % 2 ^ 4 = 0x0 := part [_, _, _, _, _, _] he hf rfl rfl
  have g1 : wd.toNat / 2 ^ 9 % 2 ^ 3 = 0x0 := part [_, _, _, _] he hf rfl rfl
  have g2 : wd.toNat / 2 ^ 12 % 2 ^ 6 = 0x0 := part [_, _, _] he hf rfl rfl
  rw [hc, read_hclose, plain_eq hu, fixed_cons g0, fixed_cons g1, fixed_cons g2, fixed_nil, q0, q1]

theorem read_hrd (xb : Ext) (wd : BitVec 32) : readHead 0x2 xb wd =
    plain xb wd [(4, 3, 0x0, 3), (7, 1, 0x0, 3), (8, 1, 0x0, 3), (9, 3, 0x0, 3)] (.hrd (fld wd 18 4) (fld wd 12 6) (fld wd 0 4)) := rfl

theorem Encodes.hrd (h : BitVec 4) (o : BitVec 6) (p : BitVec 4) : Encodes.Statement (.hrd h o p) := by
  refine Encodes.ofPlain (fun xb hu => ?_) rfl
  have hf : Fits [(4, 0x7), (6, 0x2), (4, h.toNat), (6, o.toNat), (3, 0x0), (1, 0x0), (1, 0x0), (3, 0x0), (4, p.toNat)] :=
    ⟨by decide, by decide, h.isLt, o.isLt, by decide, by decide, by decide, by decide, p.isLt, trivial⟩
  have he := word_pack _ rfl hf
  generalize word [(4, 0x7), (6, 0x2), (4, h.toNat), (6, o.toNat), (3, 0x0), (1, 0x0), (1, 0x0), (3, 0x0), (4, p.toNat)] = wd at *
  have q0 : fld wd 18 4 = h := fld_eq (part [_, _] he hf rfl rfl)
  have q1 : fld wd 12 6 = o := fld_eq (part [_, _, _] he hf rfl rfl)
  have q2 : fld wd 0 4 = p := fld_eq (part [_, _, _, _, _, _, _, _] he hf rfl rfl)
  have hc : readSlot xb wd = readHead 0x2 xb wd := slot_head (classOf he hf rfl) (part [_] he hf rfl rfl)
  have g0 : wd.toNat / 2 ^ 4 % 2 ^ 3 = 0x0 := part [_, _, _, _, _, _, _] he hf rfl rfl
  have g1 : wd.toNat / 2 ^ 7 % 2 ^ 1 = 0x0 := part [_, _, _, _, _, _] he hf rfl rfl
  have g2 : wd.toNat / 2 ^ 8 % 2 ^ 1 = 0x0 := part [_, _, _, _, _] he hf rfl rfl
  have g3 : wd.toNat / 2 ^ 9 % 2 ^ 3 = 0x0 := part [_, _, _, _] he hf rfl rfl
  rw [hc, read_hrd, plain_eq hu, fixed_cons g0, fixed_cons g1, fixed_cons g2, fixed_cons g3, fixed_nil, q0, q1, q2]

theorem read_hwr (xb : Ext) (wd : BitVec 32) : readHead 0x3 xb wd =
    fixed wd [(4, 3, 0x0, 3), (7, 1, 0x0, 3), (8, 1, 0x0, 3), (9, 3, 0x0, 3)] (.hwr (fld wd 18 4) (fld wd 12 6) (fld wd 0 4) xb) := rfl

theorem Encodes.hwr (h : BitVec 4) (o : BitVec 6) (p : BitVec 4) (x : Ext) : Encodes.Statement (.hwr h o p x) := by
  refine Encodes.ofExt (f := fun xb => .hwr h o p xb) (fun xb => ?_) (fun _ => rfl) x
  have hf : Fits [(4, 0x7), (6, 0x3), (4, h.toNat), (6, o.toNat), (3, 0x0), (1, 0x0), (1, 0x0), (3, 0x0), (4, p.toNat)] :=
    ⟨by decide, by decide, h.isLt, o.isLt, by decide, by decide, by decide, by decide, p.isLt, trivial⟩
  have he := word_pack _ rfl hf
  generalize word [(4, 0x7), (6, 0x3), (4, h.toNat), (6, o.toNat), (3, 0x0), (1, 0x0), (1, 0x0), (3, 0x0), (4, p.toNat)] = wd at *
  have q0 : fld wd 18 4 = h := fld_eq (part [_, _] he hf rfl rfl)
  have q1 : fld wd 12 6 = o := fld_eq (part [_, _, _] he hf rfl rfl)
  have q2 : fld wd 0 4 = p := fld_eq (part [_, _, _, _, _, _, _, _] he hf rfl rfl)
  have hc : readSlot xb wd = readHead 0x3 xb wd := slot_head (classOf he hf rfl) (part [_] he hf rfl rfl)
  have g0 : wd.toNat / 2 ^ 4 % 2 ^ 3 = 0x0 := part [_, _, _, _, _, _, _] he hf rfl rfl
  have g1 : wd.toNat / 2 ^ 7 % 2 ^ 1 = 0x0 := part [_, _, _, _, _, _] he hf rfl rfl
  have g2 : wd.toNat / 2 ^ 8 % 2 ^ 1 = 0x0 := part [_, _, _, _, _] he hf rfl rfl
  have g3 : wd.toNat / 2 ^ 9 % 2 ^ 3 = 0x0 := part [_, _, _, _] he hf rfl rfl
  rw [hc, read_hwr, fixed_cons g0, fixed_cons g1, fixed_cons g2, fixed_cons g3, fixed_nil, q0, q1, q2]

theorem read_hupd (xb : Ext) (wd : BitVec 32) : readHead 0x4 xb wd =
    fixed wd [(4, 3, 0x0, 3), (7, 1, 0x0, 3), (8, 1, 0x0, 3), (9, 3, 0x0, 3)] (.hupd (fld wd 18 4) (fld wd 12 6) (fld wd 0 4) xb) := rfl

theorem Encodes.hupd (h : BitVec 4) (o : BitVec 6) (p : BitVec 4) (x : Ext) : Encodes.Statement (.hupd h o p x) := by
  refine Encodes.ofExt (f := fun xb => .hupd h o p xb) (fun xb => ?_) (fun _ => rfl) x
  have hf : Fits [(4, 0x7), (6, 0x4), (4, h.toNat), (6, o.toNat), (3, 0x0), (1, 0x0), (1, 0x0), (3, 0x0), (4, p.toNat)] :=
    ⟨by decide, by decide, h.isLt, o.isLt, by decide, by decide, by decide, by decide, p.isLt, trivial⟩
  have he := word_pack _ rfl hf
  generalize word [(4, 0x7), (6, 0x4), (4, h.toNat), (6, o.toNat), (3, 0x0), (1, 0x0), (1, 0x0), (3, 0x0), (4, p.toNat)] = wd at *
  have q0 : fld wd 18 4 = h := fld_eq (part [_, _] he hf rfl rfl)
  have q1 : fld wd 12 6 = o := fld_eq (part [_, _, _] he hf rfl rfl)
  have q2 : fld wd 0 4 = p := fld_eq (part [_, _, _, _, _, _, _, _] he hf rfl rfl)
  have hc : readSlot xb wd = readHead 0x4 xb wd := slot_head (classOf he hf rfl) (part [_] he hf rfl rfl)
  have g0 : wd.toNat / 2 ^ 4 % 2 ^ 3 = 0x0 := part [_, _, _, _, _, _, _] he hf rfl rfl
  have g1 : wd.toNat / 2 ^ 7 % 2 ^ 1 = 0x0 := part [_, _, _, _, _, _] he hf rfl rfl
  have g2 : wd.toNat / 2 ^ 8 % 2 ^ 1 = 0x0 := part [_, _, _, _, _] he hf rfl rfl
  have g3 : wd.toNat / 2 ^ 9 % 2 ^ 3 = 0x0 := part [_, _, _, _] he hf rfl rfl
  rw [hc, read_hupd, fixed_cons g0, fixed_cons g1, fixed_cons g2, fixed_cons g3, fixed_nil, q0, q1, q2]

theorem read_hstep (xb : Ext) (wd : BitVec 32) : readHead 0x5 xb wd =
    fixed wd [(0, 4, 0x0, 5), (12, 6, 0x0, 3)] (.hstep (fld wd 18 4) (fld wd 4 8) xb) := rfl

theorem Encodes.hstep (h : BitVec 4) (i : BitVec 8) (x : Ext) : Encodes.Statement (.hstep h i x) := by
  refine Encodes.ofExt (f := fun xb => .hstep h i xb) (fun xb => ?_) (fun _ => rfl) x
  have hf : Fits [(4, 0x7), (6, 0x5), (4, h.toNat), (6, 0x0), (8, i.toNat), (4, 0x0)] :=
    ⟨by decide, by decide, h.isLt, by decide, i.isLt, by decide, trivial⟩
  have he := word_pack _ rfl hf
  generalize word [(4, 0x7), (6, 0x5), (4, h.toNat), (6, 0x0), (8, i.toNat), (4, 0x0)] = wd at *
  have q0 : fld wd 18 4 = h := fld_eq (part [_, _] he hf rfl rfl)
  have q1 : fld wd 4 8 = i := fld_eq (part [_, _, _, _] he hf rfl rfl)
  have hc : readSlot xb wd = readHead 0x5 xb wd := slot_head (classOf he hf rfl) (part [_] he hf rfl rfl)
  have g0 : wd.toNat / 2 ^ 0 % 2 ^ 4 = 0x0 := part [_, _, _, _, _] he hf rfl rfl
  have g1 : wd.toNat / 2 ^ 12 % 2 ^ 6 = 0x0 := part [_, _, _] he hf rfl rfl
  rw [hc, read_hstep, fixed_cons g0, fixed_cons g1, fixed_nil, q0, q1]

theorem read_hskip (xb : Ext) (wd : BitVec 32) : readHead 0x6 xb wd =
    fixed wd [(0, 4, 0x0, 5), (4, 3, 0x0, 3), (7, 1, 0x0, 3), (8, 1, 0x0, 3), (9, 3, 0x0, 3), (12, 6, 0x21, 5)] (.hskip (fld wd 18 4) xb) := rfl

theorem Encodes.hskip (h : BitVec 4) (x : Ext) : Encodes.Statement (.hskip h x) := by
  refine Encodes.ofExt (f := fun xb => .hskip h xb) (fun xb => ?_) (fun _ => rfl) x
  have hf : Fits [(4, 0x7), (6, 0x6), (4, h.toNat), (6, 0x21), (3, 0x0), (1, 0x0), (1, 0x0), (3, 0x0), (4, 0x0)] :=
    ⟨by decide, by decide, h.isLt, by decide, by decide, by decide, by decide, by decide, by decide, trivial⟩
  have he := word_pack _ rfl hf
  generalize word [(4, 0x7), (6, 0x6), (4, h.toNat), (6, 0x21), (3, 0x0), (1, 0x0), (1, 0x0), (3, 0x0), (4, 0x0)] = wd at *
  have q0 : fld wd 18 4 = h := fld_eq (part [_, _] he hf rfl rfl)
  have hc : readSlot xb wd = readHead 0x6 xb wd := slot_head (classOf he hf rfl) (part [_] he hf rfl rfl)
  have g0 : wd.toNat / 2 ^ 0 % 2 ^ 4 = 0x0 := part [_, _, _, _, _, _, _, _] he hf rfl rfl
  have g1 : wd.toNat / 2 ^ 4 % 2 ^ 3 = 0x0 := part [_, _, _, _, _, _, _] he hf rfl rfl
  have g2 : wd.toNat / 2 ^ 7 % 2 ^ 1 = 0x0 := part [_, _, _, _, _, _] he hf rfl rfl
  have g3 : wd.toNat / 2 ^ 8 % 2 ^ 1 = 0x0 := part [_, _, _, _, _] he hf rfl rfl
  have g4 : wd.toNat / 2 ^ 9 % 2 ^ 3 = 0x0 := part [_, _, _, _] he hf rfl rfl
  have g5 : wd.toNat / 2 ^ 12 % 2 ^ 6 = 0x21 := part [_, _, _] he hf rfl rfl
  rw [hc, read_hskip, fixed_cons g0, fixed_cons g1, fixed_cons g2, fixed_cons g3, fixed_cons g4, fixed_cons g5, fixed_nil, q0]

theorem read_hmark (xb : Ext) (wd : BitVec 32) : readHead 0x7 xb wd =
    plain xb wd [(0, 4, 0x0, 5), (4, 3, 0x0, 3), (7, 1, 0x0, 3), (8, 1, 0x0, 3), (9, 3, 0x0, 3), (12, 6, 0x0, 3)] (.hmark (fld wd 18 4)) := rfl

theorem Encodes.hmark (h : BitVec 4) : Encodes.Statement (.hmark h) := by
  refine Encodes.ofPlain (fun xb hu => ?_) rfl
  have hf : Fits [(4, 0x7), (6, 0x7), (4, h.toNat), (6, 0x0), (3, 0x0), (1, 0x0), (1, 0x0), (3, 0x0), (4, 0x0)] :=
    ⟨by decide, by decide, h.isLt, by decide, by decide, by decide, by decide, by decide, by decide, trivial⟩
  have he := word_pack _ rfl hf
  generalize word [(4, 0x7), (6, 0x7), (4, h.toNat), (6, 0x0), (3, 0x0), (1, 0x0), (1, 0x0), (3, 0x0), (4, 0x0)] = wd at *
  have q0 : fld wd 18 4 = h := fld_eq (part [_, _] he hf rfl rfl)
  have hc : readSlot xb wd = readHead 0x7 xb wd := slot_head (classOf he hf rfl) (part [_] he hf rfl rfl)
  have g0 : wd.toNat / 2 ^ 0 % 2 ^ 4 = 0x0 := part [_, _, _, _, _, _, _, _] he hf rfl rfl
  have g1 : wd.toNat / 2 ^ 4 % 2 ^ 3 = 0x0 := part [_, _, _, _, _, _, _] he hf rfl rfl
  have g2 : wd.toNat / 2 ^ 7 % 2 ^ 1 = 0x0 := part [_, _, _, _, _, _] he hf rfl rfl
  have g3 : wd.toNat / 2 ^ 8 % 2 ^ 1 = 0x0 := part [_, _, _, _, _] he hf rfl rfl
  have g4 : wd.toNat / 2 ^ 9 % 2 ^ 3 = 0x0 := part [_, _, _, _] he hf rfl rfl
  have g5 : wd.toNat / 2 ^ 12 % 2 ^ 6 = 0x0 := part [_, _, _] he hf rfl rfl
  rw [hc, read_hmark, plain_eq hu, fixed_cons g0, fixed_cons g1, fixed_cons g2, fixed_cons g3, fixed_cons g4, fixed_cons g5, fixed_nil, q0]

theorem read_hrwd (xb : Ext) (wd : BitVec 32) : readHead 0x8 xb wd =
    plain xb wd [(0, 4, 0x0, 5), (5, 2, 0x0, 3), (7, 1, 0x0, 3), (8, 1, 0x0, 3), (9, 3, 0x0, 3), (12, 6, 0x0, 3)] (.hrwd (fld wd 18 4) (fld wd 4 1)) := rfl

theorem Encodes.hrwd (h : BitVec 4) (y : BitVec 1) : Encodes.Statement (.hrwd h y) := by
  refine Encodes.ofPlain (fun xb hu => ?_) rfl
  have hf : Fits [(4, 0x7), (6, 0x8), (4, h.toNat), (6, 0x0), (3, 0x0), (1, 0x0), (1, 0x0), (2, 0x0), (1, y.toNat), (4, 0x0)] :=
    ⟨by decide, by decide, h.isLt, by decide, by decide, by decide, by decide, by decide, y.isLt, by decide, trivial⟩
  have he := word_pack _ rfl hf
  generalize word [(4, 0x7), (6, 0x8), (4, h.toNat), (6, 0x0), (3, 0x0), (1, 0x0), (1, 0x0), (2, 0x0), (1, y.toNat), (4, 0x0)] = wd at *
  have q0 : fld wd 18 4 = h := fld_eq (part [_, _] he hf rfl rfl)
  have q1 : fld wd 4 1 = y := fld_eq (part [_, _, _, _, _, _, _, _] he hf rfl rfl)
  have hc : readSlot xb wd = readHead 0x8 xb wd := slot_head (classOf he hf rfl) (part [_] he hf rfl rfl)
  have g0 : wd.toNat / 2 ^ 0 % 2 ^ 4 = 0x0 := part [_, _, _, _, _, _, _, _, _] he hf rfl rfl
  have g1 : wd.toNat / 2 ^ 5 % 2 ^ 2 = 0x0 := part [_, _, _, _, _, _, _] he hf rfl rfl
  have g2 : wd.toNat / 2 ^ 7 % 2 ^ 1 = 0x0 := part [_, _, _, _, _, _] he hf rfl rfl
  have g3 : wd.toNat / 2 ^ 8 % 2 ^ 1 = 0x0 := part [_, _, _, _, _] he hf rfl rfl
  have g4 : wd.toNat / 2 ^ 9 % 2 ^ 3 = 0x0 := part [_, _, _, _] he hf rfl rfl
  have g5 : wd.toNat / 2 ^ 12 % 2 ^ 6 = 0x0 := part [_, _, _] he hf rfl rfl
  rw [hc, read_hrwd, plain_eq hu, fixed_cons g0, fixed_cons g1, fixed_cons g2, fixed_cons g3, fixed_cons g4, fixed_cons g5, fixed_nil, q0, q1]

theorem read_hdrop (xb : Ext) (wd : BitVec 32) : readHead 0x9 xb wd =
    plain xb wd [(0, 4, 0x0, 5), (4, 3, 0x0, 3), (7, 1, 0x0, 3), (8, 1, 0x0, 3), (9, 3, 0x0, 3), (12, 6, 0x0, 3)] (.hdrop (fld wd 18 4)) := rfl

theorem Encodes.hdrop (h : BitVec 4) : Encodes.Statement (.hdrop h) := by
  refine Encodes.ofPlain (fun xb hu => ?_) rfl
  have hf : Fits [(4, 0x7), (6, 0x9), (4, h.toNat), (6, 0x0), (3, 0x0), (1, 0x0), (1, 0x0), (3, 0x0), (4, 0x0)] :=
    ⟨by decide, by decide, h.isLt, by decide, by decide, by decide, by decide, by decide, by decide, trivial⟩
  have he := word_pack _ rfl hf
  generalize word [(4, 0x7), (6, 0x9), (4, h.toNat), (6, 0x0), (3, 0x0), (1, 0x0), (1, 0x0), (3, 0x0), (4, 0x0)] = wd at *
  have q0 : fld wd 18 4 = h := fld_eq (part [_, _] he hf rfl rfl)
  have hc : readSlot xb wd = readHead 0x9 xb wd := slot_head (classOf he hf rfl) (part [_] he hf rfl rfl)
  have g0 : wd.toNat / 2 ^ 0 % 2 ^ 4 = 0x0 := part [_, _, _, _, _, _, _, _] he hf rfl rfl
  have g1 : wd.toNat / 2 ^ 4 % 2 ^ 3 = 0x0 := part [_, _, _, _, _, _, _] he hf rfl rfl
  have g2 : wd.toNat / 2 ^ 7 % 2 ^ 1 = 0x0 := part [_, _, _, _, _, _] he hf rfl rfl
  have g3 : wd.toNat / 2 ^ 8 % 2 ^ 1 = 0x0 := part [_, _, _, _, _] he hf rfl rfl
  have g4 : wd.toNat / 2 ^ 9 % 2 ^ 3 = 0x0 := part [_, _, _, _] he hf rfl rfl
  have g5 : wd.toNat / 2 ^ 12 % 2 ^ 6 = 0x0 := part [_, _, _] he hf rfl rfl
  rw [hc, read_hdrop, plain_eq hu, fixed_cons g0, fixed_cons g1, fixed_cons g2, fixed_cons g3, fixed_cons g4, fixed_cons g5, fixed_nil, q0]

theorem read_hpos (xb : Ext) (wd : BitVec 32) : readHead 0xA xb wd =
    plain xb wd [(0, 4, 0x0, 5), (9, 3, 0x0, 3), (12, 6, 0x0, 3)] (.hpos (fld wd 18 4) (fld wd 4 5)) := rfl

theorem Encodes.hpos (h : BitVec 4) (d : BitVec 5) : Encodes.Statement (.hpos h d) := by
  refine Encodes.ofPlain (fun xb hu => ?_) rfl
  have hf : Fits [(4, 0x7), (6, 0xA), (4, h.toNat), (6, 0x0), (3, 0x0), (5, d.toNat), (4, 0x0)] :=
    ⟨by decide, by decide, h.isLt, by decide, by decide, d.isLt, by decide, trivial⟩
  have he := word_pack _ rfl hf
  generalize word [(4, 0x7), (6, 0xA), (4, h.toNat), (6, 0x0), (3, 0x0), (5, d.toNat), (4, 0x0)] = wd at *
  have q0 : fld wd 18 4 = h := fld_eq (part [_, _] he hf rfl rfl)
  have q1 : fld wd 4 5 = d := fld_eq (part [_, _, _, _, _] he hf rfl rfl)
  have hc : readSlot xb wd = readHead 0xA xb wd := slot_head (classOf he hf rfl) (part [_] he hf rfl rfl)
  have g0 : wd.toNat / 2 ^ 0 % 2 ^ 4 = 0x0 := part [_, _, _, _, _, _] he hf rfl rfl
  have g1 : wd.toNat / 2 ^ 9 % 2 ^ 3 = 0x0 := part [_, _, _, _] he hf rfl rfl
  have g2 : wd.toNat / 2 ^ 12 % 2 ^ 6 = 0x0 := part [_, _, _] he hf rfl rfl
  rw [hc, read_hpos, plain_eq hu, fixed_cons g0, fixed_cons g1, fixed_cons g2, fixed_nil, q0, q1]

theorem read_hrev (xb : Ext) (wd : BitVec 32) : readHead 0xB xb wd =
    plain xb wd [(0, 4, 0x0, 5), (4, 3, 0x0, 3), (7, 1, 0x0, 3), (8, 1, 0x0, 3), (9, 3, 0x0, 3), (12, 6, 0x0, 3)] (.hrev (fld wd 18 4)) := rfl

theorem Encodes.hrev (h : BitVec 4) : Encodes.Statement (.hrev h) := by
  refine Encodes.ofPlain (fun xb hu => ?_) rfl
  have hf : Fits [(4, 0x7), (6, 0xB), (4, h.toNat), (6, 0x0), (3, 0x0), (1, 0x0), (1, 0x0), (3, 0x0), (4, 0x0)] :=
    ⟨by decide, by decide, h.isLt, by decide, by decide, by decide, by decide, by decide, by decide, trivial⟩
  have he := word_pack _ rfl hf
  generalize word [(4, 0x7), (6, 0xB), (4, h.toNat), (6, 0x0), (3, 0x0), (1, 0x0), (1, 0x0), (3, 0x0), (4, 0x0)] = wd at *
  have q0 : fld wd 18 4 = h := fld_eq (part [_, _] he hf rfl rfl)
  have hc : readSlot xb wd = readHead 0xB xb wd := slot_head (classOf he hf rfl) (part [_] he hf rfl rfl)
  have g0 : wd.toNat / 2 ^ 0 % 2 ^ 4 = 0x0 := part [_, _, _, _, _, _, _, _] he hf rfl rfl
  have g1 : wd.toNat / 2 ^ 4 % 2 ^ 3 = 0x0 := part [_, _, _, _, _, _, _] he hf rfl rfl
  have g2 : wd.toNat / 2 ^ 7 % 2 ^ 1 = 0x0 := part [_, _, _, _, _, _] he hf rfl rfl
  have g3 : wd.toNat / 2 ^ 8 % 2 ^ 1 = 0x0 := part [_, _, _, _, _] he hf rfl rfl
  have g4 : wd.toNat / 2 ^ 9 % 2 ^ 3 = 0x0 := part [_, _, _, _] he hf rfl rfl
  have g5 : wd.toNat / 2 ^ 12 % 2 ^ 6 = 0x0 := part [_, _, _] he hf rfl rfl
  rw [hc, read_hrev, plain_eq hu, fixed_cons g0, fixed_cons g1, fixed_cons g2, fixed_cons g3, fixed_cons g4, fixed_cons g5, fixed_nil, q0]

theorem read_hnew (xb : Ext) (wd : BitVec 32) : readHead 0xC xb wd =
    fixed wd [(0, 4, 0x0, 5), (7, 1, 0x0, 5), (8, 1, 0x0, 5), (9, 3, 0x0, 3)] (.hnew (fld wd 18 4) (fld wd 12 6) (fld wd 4 3) xb) := rfl

theorem Encodes.hnew (h : BitVec 4) (t : BitVec 6) (w : BitVec 3) (x : Ext) : Encodes.Statement (.hnew h t w x) := by
  refine Encodes.ofExt (f := fun xb => .hnew h t w xb) (fun xb => ?_) (fun _ => rfl) x
  have hf : Fits [(4, 0x7), (6, 0xC), (4, h.toNat), (6, t.toNat), (3, 0x0), (1, 0x0), (1, 0x0), (3, w.toNat), (4, 0x0)] :=
    ⟨by decide, by decide, h.isLt, t.isLt, by decide, by decide, by decide, w.isLt, by decide, trivial⟩
  have he := word_pack _ rfl hf
  generalize word [(4, 0x7), (6, 0xC), (4, h.toNat), (6, t.toNat), (3, 0x0), (1, 0x0), (1, 0x0), (3, w.toNat), (4, 0x0)] = wd at *
  have q0 : fld wd 18 4 = h := fld_eq (part [_, _] he hf rfl rfl)
  have q1 : fld wd 12 6 = t := fld_eq (part [_, _, _] he hf rfl rfl)
  have q2 : fld wd 4 3 = w := fld_eq (part [_, _, _, _, _, _, _] he hf rfl rfl)
  have hc : readSlot xb wd = readHead 0xC xb wd := slot_head (classOf he hf rfl) (part [_] he hf rfl rfl)
  have g0 : wd.toNat / 2 ^ 0 % 2 ^ 4 = 0x0 := part [_, _, _, _, _, _, _, _] he hf rfl rfl
  have g1 : wd.toNat / 2 ^ 7 % 2 ^ 1 = 0x0 := part [_, _, _, _, _, _] he hf rfl rfl
  have g2 : wd.toNat / 2 ^ 8 % 2 ^ 1 = 0x0 := part [_, _, _, _, _] he hf rfl rfl
  have g3 : wd.toNat / 2 ^ 9 % 2 ^ 3 = 0x0 := part [_, _, _, _] he hf rfl rfl
  rw [hc, read_hnew, fixed_cons g0, fixed_cons g1, fixed_cons g2, fixed_cons g3, fixed_nil, q0, q1, q2]

theorem read_hseal (xb : Ext) (wd : BitVec 32) : readHead 0xD xb wd =
    plain xb wd [(0, 4, 0x0, 5), (9, 3, 0x0, 3), (12, 6, 0x0, 3)] (.hseal (fld wd 18 4) (fld wd 4 5)) := rfl

theorem Encodes.hseal (h : BitVec 4) (d : BitVec 5) : Encodes.Statement (.hseal h d) := by
  refine Encodes.ofPlain (fun xb hu => ?_) rfl
  have hf : Fits [(4, 0x7), (6, 0xD), (4, h.toNat), (6, 0x0), (3, 0x0), (5, d.toNat), (4, 0x0)] :=
    ⟨by decide, by decide, h.isLt, by decide, by decide, d.isLt, by decide, trivial⟩
  have he := word_pack _ rfl hf
  generalize word [(4, 0x7), (6, 0xD), (4, h.toNat), (6, 0x0), (3, 0x0), (5, d.toNat), (4, 0x0)] = wd at *
  have q0 : fld wd 18 4 = h := fld_eq (part [_, _] he hf rfl rfl)
  have q1 : fld wd 4 5 = d := fld_eq (part [_, _, _, _, _] he hf rfl rfl)
  have hc : readSlot xb wd = readHead 0xD xb wd := slot_head (classOf he hf rfl) (part [_] he hf rfl rfl)
  have g0 : wd.toNat / 2 ^ 0 % 2 ^ 4 = 0x0 := part [_, _, _, _, _, _] he hf rfl rfl
  have g1 : wd.toNat / 2 ^ 9 % 2 ^ 3 = 0x0 := part [_, _, _, _] he hf rfl rfl
  have g2 : wd.toNat / 2 ^ 12 % 2 ^ 6 = 0x0 := part [_, _, _] he hf rfl rfl
  rw [hc, read_hseal, plain_eq hu, fixed_cons g0, fixed_cons g1, fixed_cons g2, fixed_nil, q0, q1]

theorem read_hlease (xb : Ext) (wd : BitVec 32) : readHead 0xE xb wd =
    fixed wd [(0, 4, 0x0, 5), (7, 1, 0x0, 5), (9, 3, 0x0, 3)] (.hlease (fld wd 18 4) (fld wd 12 6) (fld wd 8 1) (fld wd 4 3) xb) := rfl

theorem Encodes.hlease (h : BitVec 4) (t : BitVec 6) (b : BitVec 1) (w : BitVec 3) (x : Ext) : Encodes.Statement (.hlease h t b w x) := by
  refine Encodes.ofExt (f := fun xb => .hlease h t b w xb) (fun xb => ?_) (fun _ => rfl) x
  have hf : Fits [(4, 0x7), (6, 0xE), (4, h.toNat), (6, t.toNat), (3, 0x0), (1, b.toNat), (1, 0x0), (3, w.toNat), (4, 0x0)] :=
    ⟨by decide, by decide, h.isLt, t.isLt, by decide, b.isLt, by decide, w.isLt, by decide, trivial⟩
  have he := word_pack _ rfl hf
  generalize word [(4, 0x7), (6, 0xE), (4, h.toNat), (6, t.toNat), (3, 0x0), (1, b.toNat), (1, 0x0), (3, w.toNat), (4, 0x0)] = wd at *
  have q0 : fld wd 18 4 = h := fld_eq (part [_, _] he hf rfl rfl)
  have q1 : fld wd 12 6 = t := fld_eq (part [_, _, _] he hf rfl rfl)
  have q2 : fld wd 8 1 = b := fld_eq (part [_, _, _, _, _] he hf rfl rfl)
  have q3 : fld wd 4 3 = w := fld_eq (part [_, _, _, _, _, _, _] he hf rfl rfl)
  have hc : readSlot xb wd = readHead 0xE xb wd := slot_head (classOf he hf rfl) (part [_] he hf rfl rfl)
  have g0 : wd.toNat / 2 ^ 0 % 2 ^ 4 = 0x0 := part [_, _, _, _, _, _, _, _] he hf rfl rfl
  have g1 : wd.toNat / 2 ^ 7 % 2 ^ 1 = 0x0 := part [_, _, _, _, _, _] he hf rfl rfl
  have g2 : wd.toNat / 2 ^ 9 % 2 ^ 3 = 0x0 := part [_, _, _, _] he hf rfl rfl
  rw [hc, read_hlease, fixed_cons g0, fixed_cons g1, fixed_cons g2, fixed_nil, q0, q1, q2, q3]

theorem read_hfree (xb : Ext) (wd : BitVec 32) : readHead 0xF xb wd =
    fixed wd [(0, 4, 0x0, 5), (4, 3, 0x0, 3), (7, 1, 0x0, 3), (8, 1, 0x0, 3), (9, 3, 0x0, 3), (18, 4, 0x0, 3)] (.hfree (fld wd 12 6) xb) := rfl

theorem Encodes.hfree (t : BitVec 6) (x : Ext) : Encodes.Statement (.hfree t x) := by
  refine Encodes.ofExt (f := fun xb => .hfree t xb) (fun xb => ?_) (fun _ => rfl) x
  have hf : Fits [(4, 0x7), (6, 0xF), (4, 0x0), (6, t.toNat), (3, 0x0), (1, 0x0), (1, 0x0), (3, 0x0), (4, 0x0)] :=
    ⟨by decide, by decide, by decide, t.isLt, by decide, by decide, by decide, by decide, by decide, trivial⟩
  have he := word_pack _ rfl hf
  generalize word [(4, 0x7), (6, 0xF), (4, 0x0), (6, t.toNat), (3, 0x0), (1, 0x0), (1, 0x0), (3, 0x0), (4, 0x0)] = wd at *
  have q0 : fld wd 12 6 = t := fld_eq (part [_, _, _] he hf rfl rfl)
  have hc : readSlot xb wd = readHead 0xF xb wd := slot_head (classOf he hf rfl) (part [_] he hf rfl rfl)
  have g0 : wd.toNat / 2 ^ 0 % 2 ^ 4 = 0x0 := part [_, _, _, _, _, _, _, _] he hf rfl rfl
  have g1 : wd.toNat / 2 ^ 4 % 2 ^ 3 = 0x0 := part [_, _, _, _, _, _, _] he hf rfl rfl
  have g2 : wd.toNat / 2 ^ 7 % 2 ^ 1 = 0x0 := part [_, _, _, _, _, _] he hf rfl rfl
  have g3 : wd.toNat / 2 ^ 8 % 2 ^ 1 = 0x0 := part [_, _, _, _, _] he hf rfl rfl
  have g4 : wd.toNat / 2 ^ 9 % 2 ^ 3 = 0x0 := part [_, _, _, _] he hf rfl rfl
  have g5 : wd.toNat / 2 ^ 18 % 2 ^ 4 = 0x0 := part [_, _] he hf rfl rfl
  rw [hc, read_hfree, fixed_cons g0, fixed_cons g1, fixed_cons g2, fixed_cons g3, fixed_cons g4, fixed_cons g5, fixed_nil, q0]

theorem read_hwait (xb : Ext) (wd : BitVec 32) : readHead 0x10 xb wd =
    plain xb wd [(0, 4, 0x0, 5), (9, 3, 0x0, 3), (12, 6, 0x0, 3)] (.hwait (fld wd 18 4) (fld wd 4 5)) := rfl

theorem Encodes.hwait (h : BitVec 4) (d : BitVec 5) : Encodes.Statement (.hwait h d) := by
  refine Encodes.ofPlain (fun xb hu => ?_) rfl
  have hf : Fits [(4, 0x7), (6, 0x10), (4, h.toNat), (6, 0x0), (3, 0x0), (5, d.toNat), (4, 0x0)] :=
    ⟨by decide, by decide, h.isLt, by decide, by decide, d.isLt, by decide, trivial⟩
  have he := word_pack _ rfl hf
  generalize word [(4, 0x7), (6, 0x10), (4, h.toNat), (6, 0x0), (3, 0x0), (5, d.toNat), (4, 0x0)] = wd at *
  have q0 : fld wd 18 4 = h := fld_eq (part [_, _] he hf rfl rfl)
  have q1 : fld wd 4 5 = d := fld_eq (part [_, _, _, _, _] he hf rfl rfl)
  have hc : readSlot xb wd = readHead 0x10 xb wd := slot_head (classOf he hf rfl) (part [_] he hf rfl rfl)
  have g0 : wd.toNat / 2 ^ 0 % 2 ^ 4 = 0x0 := part [_, _, _, _, _, _] he hf rfl rfl
  have g1 : wd.toNat / 2 ^ 9 % 2 ^ 3 = 0x0 := part [_, _, _, _] he hf rfl rfl
  have g2 : wd.toNat / 2 ^ 12 % 2 ^ 6 = 0x0 := part [_, _, _] he hf rfl rfl
  rw [hc, read_hwait, plain_eq hu, fixed_cons g0, fixed_cons g1, fixed_cons g2, fixed_nil, q0, q1]

theorem read_wset (xb : Ext) (wd : BitVec 32) : readCopy 0x0 xb wd =
    plain xb wd [(0, 2, 0x0, 3), (2, 5, 0x0, 3)] (.wset (fld wd 17 5) (fld wd 12 5) (fld wd 7 5)) := rfl

theorem Encodes.wset (w a b : BitVec 5) : Encodes.Statement (.wset w a b) := by
  refine Encodes.ofPlain (fun xb hu => ?_) rfl
  have hf : Fits [(4, 0x8), (6, 0x0), (5, w.toNat), (5, a.toNat), (5, b.toNat), (5, 0x0), (2, 0x0)] :=
    ⟨by decide, by decide, w.isLt, a.isLt, b.isLt, by decide, by decide, trivial⟩
  have he := word_pack _ rfl hf
  generalize word [(4, 0x8), (6, 0x0), (5, w.toNat), (5, a.toNat), (5, b.toNat), (5, 0x0), (2, 0x0)] = wd at *
  have q0 : fld wd 17 5 = w := fld_eq (part [_, _] he hf rfl rfl)
  have q1 : fld wd 12 5 = a := fld_eq (part [_, _, _] he hf rfl rfl)
  have q2 : fld wd 7 5 = b := fld_eq (part [_, _, _, _] he hf rfl rfl)
  have hc : readSlot xb wd = readCopy 0x0 xb wd := slot_copy (classOf he hf rfl) (part [_] he hf rfl rfl)
  have g0 : wd.toNat / 2 ^ 0 % 2 ^ 2 = 0x0 := part [_, _, _, _, _, _] he hf rfl rfl
  have g1 : wd.toNat / 2 ^ 2 % 2 ^ 5 = 0x0 := part [_, _, _, _, _] he hf rfl rfl
  rw [hc, read_wset, plain_eq hu, fixed_cons g0, fixed_cons g1, fixed_nil, q0, q1, q2]

theorem read_wloop (xb : Ext) (wd : BitVec 32) : readCopy 0x1 xb wd =
    plain xb wd [(0, 2, 0x0, 3)] (.wloop (fld wd 17 5) (fld wd 12 5) (fld wd 7 5) (fld wd 2 5)) := rfl

theorem Encodes.wloop (w a b v : BitVec 5) : Encodes.Statement (.wloop w a b v) := by
  refine Encodes.ofPlain (fun xb hu => ?_) rfl
  have hf : Fits [(4, 0x8), (6, 0x1), (5, w.toNat), (5, a.toNat), (5, b.toNat), (5, v.toNat), (2, 0x0)] :=
    ⟨by decide, by decide, w.isLt, a.isLt, b.isLt, v.isLt, by decide, trivial⟩
  have he := word_pack _ rfl hf
  generalize word [(4, 0x8), (6, 0x1), (5, w.toNat), (5, a.toNat), (5, b.toNat), (5, v.toNat), (2, 0x0)] = wd at *
  have q0 : fld wd 17 5 = w := fld_eq (part [_, _] he hf rfl rfl)
  have q1 : fld wd 12 5 = a := fld_eq (part [_, _, _] he hf rfl rfl)
  have q2 : fld wd 7 5 = b := fld_eq (part [_, _, _, _] he hf rfl rfl)
  have q3 : fld wd 2 5 = v := fld_eq (part [_, _, _, _, _] he hf rfl rfl)
  have hc : readSlot xb wd = readCopy 0x1 xb wd := slot_copy (classOf he hf rfl) (part [_] he hf rfl rfl)
  have g0 : wd.toNat / 2 ^ 0 % 2 ^ 2 = 0x0 := part [_, _, _, _, _, _] he hf rfl rfl
  rw [hc, read_wloop, plain_eq hu, fixed_cons g0, fixed_nil, q0, q1, q2, q3]

theorem read_wrst (xb : Ext) (wd : BitVec 32) : readCopy 0x2 xb wd =
    plain xb wd [(0, 2, 0x0, 3), (2, 5, 0x0, 3), (7, 5, 0x0, 3), (12, 5, 0x0, 3)] (.wrst (fld wd 17 5)) := rfl

theorem Encodes.wrst (w : BitVec 5) : Encodes.Statement (.wrst w) := by
  refine Encodes.ofPlain (fun xb hu => ?_) rfl
  have hf : Fits [(4, 0x8), (6, 0x2), (5, w.toNat), (5, 0x0), (5, 0x0), (5, 0x0), (2, 0x0)] :=
    ⟨by decide, by decide, w.isLt, by decide, by decide, by decide, by decide, trivial⟩
  have he := word_pack _ rfl hf
  generalize word [(4, 0x8), (6, 0x2), (5, w.toNat), (5, 0x0), (5, 0x0), (5, 0x0), (2, 0x0)] = wd at *
  have q0 : fld wd 17 5 = w := fld_eq (part [_, _] he hf rfl rfl)
  have hc : readSlot xb wd = readCopy 0x2 xb wd := slot_copy (classOf he hf rfl) (part [_] he hf rfl rfl)
  have g0 : wd.toNat / 2 ^ 0 % 2 ^ 2 = 0x0 := part [_, _, _, _, _, _] he hf rfl rfl
  have g1 : wd.toNat / 2 ^ 2 % 2 ^ 5 = 0x0 := part [_, _, _, _, _] he hf rfl rfl
  have g2 : wd.toNat / 2 ^ 7 % 2 ^ 5 = 0x0 := part [_, _, _, _] he hf rfl rfl
  have g3 : wd.toNat / 2 ^ 12 % 2 ^ 5 = 0x0 := part [_, _, _] he hf rfl rfl
  rw [hc, read_wrst, plain_eq hu, fixed_cons g0, fixed_cons g1, fixed_cons g2, fixed_cons g3, fixed_nil, q0]

theorem read_kcopy (xb : Ext) (wd : BitVec 32) : readCopy 0x3 xb wd =
    plain xb wd [] (.kcopy (fld wd 17 5) (fld wd 12 5) (fld wd 7 5) (fld wd 2 5) (fld wd 0 2)) := rfl

theorem Encodes.kcopy (s d l t : BitVec 5) (e : BitVec 2) : Encodes.Statement (.kcopy s d l t e) := by
  refine Encodes.ofPlain (fun xb hu => ?_) rfl
  have hf : Fits [(4, 0x8), (6, 0x3), (5, s.toNat), (5, d.toNat), (5, l.toNat), (5, t.toNat), (2, e.toNat)] :=
    ⟨by decide, by decide, s.isLt, d.isLt, l.isLt, t.isLt, e.isLt, trivial⟩
  have he := word_pack _ rfl hf
  generalize word [(4, 0x8), (6, 0x3), (5, s.toNat), (5, d.toNat), (5, l.toNat), (5, t.toNat), (2, e.toNat)] = wd at *
  have q0 : fld wd 17 5 = s := fld_eq (part [_, _] he hf rfl rfl)
  have q1 : fld wd 12 5 = d := fld_eq (part [_, _, _] he hf rfl rfl)
  have q2 : fld wd 7 5 = l := fld_eq (part [_, _, _, _] he hf rfl rfl)
  have q3 : fld wd 2 5 = t := fld_eq (part [_, _, _, _, _] he hf rfl rfl)
  have q4 : fld wd 0 2 = e := fld_eq (part [_, _, _, _, _, _] he hf rfl rfl)
  have hc : readSlot xb wd = readCopy 0x3 xb wd := slot_copy (classOf he hf rfl) (part [_] he hf rfl rfl)
  rw [hc, read_kcopy, plain_eq hu, fixed_nil, q0, q1, q2, q3, q4]

theorem read_kcopyr (xb : Ext) (wd : BitVec 32) : readCopy 0x4 xb wd =
    plain xb wd [] (.kcopyr (fld wd 17 5) (fld wd 12 5) (fld wd 7 5) (fld wd 2 5) (fld wd 0 2)) := rfl

theorem Encodes.kcopyr (s d l t : BitVec 5) (e : BitVec 2) : Encodes.Statement (.kcopyr s d l t e) := by
  refine Encodes.ofPlain (fun xb hu => ?_) rfl
  have hf : Fits [(4, 0x8), (6, 0x4), (5, s.toNat), (5, d.toNat), (5, l.toNat), (5, t.toNat), (2, e.toNat)] :=
    ⟨by decide, by decide, s.isLt, d.isLt, l.isLt, t.isLt, e.isLt, trivial⟩
  have he := word_pack _ rfl hf
  generalize word [(4, 0x8), (6, 0x4), (5, s.toNat), (5, d.toNat), (5, l.toNat), (5, t.toNat), (2, e.toNat)] = wd at *
  have q0 : fld wd 17 5 = s := fld_eq (part [_, _] he hf rfl rfl)
  have q1 : fld wd 12 5 = d := fld_eq (part [_, _, _] he hf rfl rfl)
  have q2 : fld wd 7 5 = l := fld_eq (part [_, _, _, _] he hf rfl rfl)
  have q3 : fld wd 2 5 = t := fld_eq (part [_, _, _, _, _] he hf rfl rfl)
  have q4 : fld wd 0 2 = e := fld_eq (part [_, _, _, _, _, _] he hf rfl rfl)
  have hc : readSlot xb wd = readCopy 0x4 xb wd := slot_copy (classOf he hf rfl) (part [_] he hf rfl rfl)
  rw [hc, read_kcopyr, plain_eq hu, fixed_nil, q0, q1, q2, q3, q4]

theorem read_kgath (xb : Ext) (wd : BitVec 32) : readCopy 0x5 xb wd =
    plain xb wd [] (.kgath (fld wd 17 5) (fld wd 12 5) (fld wd 7 5) (fld wd 2 5) (fld wd 0 2)) := rfl

theorem Encodes.kgath (s d l t : BitVec 5) (e : BitVec 2) : Encodes.Statement (.kgath s d l t e) := by
  refine Encodes.ofPlain (fun xb hu => ?_) rfl
  have hf : Fits [(4, 0x8), (6, 0x5), (5, s.toNat), (5, d.toNat), (5, l.toNat), (5, t.toNat), (2, e.toNat)] :=
    ⟨by decide, by decide, s.isLt, d.isLt, l.isLt, t.isLt, e.isLt, trivial⟩
  have he := word_pack _ rfl hf
  generalize word [(4, 0x8), (6, 0x5), (5, s.toNat), (5, d.toNat), (5, l.toNat), (5, t.toNat), (2, e.toNat)] = wd at *
  have q0 : fld wd 17 5 = s := fld_eq (part [_, _] he hf rfl rfl)
  have q1 : fld wd 12 5 = d := fld_eq (part [_, _, _] he hf rfl rfl)
  have q2 : fld wd 7 5 = l := fld_eq (part [_, _, _, _] he hf rfl rfl)
  have q3 : fld wd 2 5 = t := fld_eq (part [_, _, _, _, _] he hf rfl rfl)
  have q4 : fld wd 0 2 = e := fld_eq (part [_, _, _, _, _, _] he hf rfl rfl)
  have hc : readSlot xb wd = readCopy 0x5 xb wd := slot_copy (classOf he hf rfl) (part [_] he hf rfl rfl)
  rw [hc, read_kgath, plain_eq hu, fixed_nil, q0, q1, q2, q3, q4]

theorem read_kscat (xb : Ext) (wd : BitVec 32) : readCopy 0x6 xb wd =
    plain xb wd [] (.kscat (fld wd 17 5) (fld wd 12 5) (fld wd 7 5) (fld wd 2 5) (fld wd 0 2)) := rfl

theorem Encodes.kscat (s d l t : BitVec 5) (e : BitVec 2) : Encodes.Statement (.kscat s d l t e) := by
  refine Encodes.ofPlain (fun xb hu => ?_) rfl
  have hf : Fits [(4, 0x8), (6, 0x6), (5, s.toNat), (5, d.toNat), (5, l.toNat), (5, t.toNat), (2, e.toNat)] :=
    ⟨by decide, by decide, s.isLt, d.isLt, l.isLt, t.isLt, e.isLt, trivial⟩
  have he := word_pack _ rfl hf
  generalize word [(4, 0x8), (6, 0x6), (5, s.toNat), (5, d.toNat), (5, l.toNat), (5, t.toNat), (2, e.toNat)] = wd at *
  have q0 : fld wd 17 5 = s := fld_eq (part [_, _] he hf rfl rfl)
  have q1 : fld wd 12 5 = d := fld_eq (part [_, _, _] he hf rfl rfl)
  have q2 : fld wd 7 5 = l := fld_eq (part [_, _, _, _] he hf rfl rfl)
  have q3 : fld wd 2 5 = t := fld_eq (part [_, _, _, _, _] he hf rfl rfl)
  have q4 : fld wd 0 2 = e := fld_eq (part [_, _, _, _, _, _] he hf rfl rfl)
  have hc : readSlot xb wd = readCopy 0x6 xb wd := slot_copy (classOf he hf rfl) (part [_] he hf rfl rfl)
  rw [hc, read_kscat, plain_eq hu, fixed_nil, q0, q1, q2, q3, q4]

theorem read_kfill (xb : Ext) (wd : BitVec 32) : readCopy 0x7 xb wd =
    plain xb wd [] (.kfill (fld wd 17 5) (fld wd 12 5) (fld wd 7 5) (fld wd 2 5) (fld wd 0 2)) := rfl

theorem Encodes.kfill (s d l t : BitVec 5) (e : BitVec 2) : Encodes.Statement (.kfill s d l t e) := by
  refine Encodes.ofPlain (fun xb hu => ?_) rfl
  have hf : Fits [(4, 0x8), (6, 0x7), (5, s.toNat), (5, d.toNat), (5, l.toNat), (5, t.toNat), (2, e.toNat)] :=
    ⟨by decide, by decide, s.isLt, d.isLt, l.isLt, t.isLt, e.isLt, trivial⟩
  have he := word_pack _ rfl hf
  generalize word [(4, 0x8), (6, 0x7), (5, s.toNat), (5, d.toNat), (5, l.toNat), (5, t.toNat), (2, e.toNat)] = wd at *
  have q0 : fld wd 17 5 = s := fld_eq (part [_, _] he hf rfl rfl)
  have q1 : fld wd 12 5 = d := fld_eq (part [_, _, _] he hf rfl rfl)
  have q2 : fld wd 7 5 = l := fld_eq (part [_, _, _, _] he hf rfl rfl)
  have q3 : fld wd 2 5 = t := fld_eq (part [_, _, _, _, _] he hf rfl rfl)
  have q4 : fld wd 0 2 = e := fld_eq (part [_, _, _, _, _, _] he hf rfl rfl)
  have hc : readSlot xb wd = readCopy 0x7 xb wd := slot_copy (classOf he hf rfl) (part [_] he hf rfl rfl)
  rw [hc, read_kfill, plain_eq hu, fixed_nil, q0, q1, q2, q3, q4]

theorem read_ktag (xb : Ext) (wd : BitVec 32) : readCopy 0x8 xb wd =
    plain xb wd [(0, 2, 0x0, 3), (2, 5, 0x0, 3), (7, 5, 0x0, 3)] (.ktag (fld wd 17 5) (fld wd 12 5)) := rfl

theorem Encodes.ktag (a b : BitVec 5) : Encodes.Statement (.ktag a b) := by
  refine Encodes.ofPlain (fun xb hu => ?_) rfl
  have hf : Fits [(4, 0x8), (6, 0x8), (5, a.toNat), (5, b.toNat), (5, 0x0), (5, 0x0), (2, 0x0)] :=
    ⟨by decide, by decide, a.isLt, b.isLt, by decide, by decide, by decide, trivial⟩
  have he := word_pack _ rfl hf
  generalize word [(4, 0x8), (6, 0x8), (5, a.toNat), (5, b.toNat), (5, 0x0), (5, 0x0), (2, 0x0)] = wd at *
  have q0 : fld wd 17 5 = a := fld_eq (part [_, _] he hf rfl rfl)
  have q1 : fld wd 12 5 = b := fld_eq (part [_, _, _] he hf rfl rfl)
  have hc : readSlot xb wd = readCopy 0x8 xb wd := slot_copy (classOf he hf rfl) (part [_] he hf rfl rfl)
  have g0 : wd.toNat / 2 ^ 0 % 2 ^ 2 = 0x0 := part [_, _, _, _, _, _] he hf rfl rfl
  have g1 : wd.toNat / 2 ^ 2 % 2 ^ 5 = 0x0 := part [_, _, _, _, _] he hf rfl rfl
  have g2 : wd.toNat / 2 ^ 7 % 2 ^ 5 = 0x0 := part [_, _, _, _] he hf rfl rfl
  rw [hc, read_ktag, plain_eq hu, fixed_cons g0, fixed_cons g1, fixed_cons g2, fixed_nil, q0, q1]

theorem read_kchk (xb : Ext) (wd : BitVec 32) : readCopy 0x9 xb wd =
    plain xb wd [(0, 2, 0x0, 3), (2, 5, 0x0, 3), (7, 5, 0x0, 3)] (.kchk (fld wd 17 5) (fld wd 12 5)) := rfl

theorem Encodes.kchk (a b : BitVec 5) : Encodes.Statement (.kchk a b) := by
  refine Encodes.ofPlain (fun xb hu => ?_) rfl
  have hf : Fits [(4, 0x8), (6, 0x9), (5, a.toNat), (5, b.toNat), (5, 0x0), (5, 0x0), (2, 0x0)] :=
    ⟨by decide, by decide, a.isLt, b.isLt, by decide, by decide, by decide, trivial⟩
  have he := word_pack _ rfl hf
  generalize word [(4, 0x8), (6, 0x9), (5, a.toNat), (5, b.toNat), (5, 0x0), (5, 0x0), (2, 0x0)] = wd at *
  have q0 : fld wd 17 5 = a := fld_eq (part [_, _] he hf rfl rfl)
  have q1 : fld wd 12 5 = b := fld_eq (part [_, _, _] he hf rfl rfl)
  have hc : readSlot xb wd = readCopy 0x9 xb wd := slot_copy (classOf he hf rfl) (part [_] he hf rfl rfl)
  have g0 : wd.toNat / 2 ^ 0 % 2 ^ 2 = 0x0 := part [_, _, _, _, _, _] he hf rfl rfl
  have g1 : wd.toNat / 2 ^ 2 % 2 ^ 5 = 0x0 := part [_, _, _, _, _] he hf rfl rfl
  have g2 : wd.toNat / 2 ^ 7 % 2 ^ 5 = 0x0 := part [_, _, _, _] he hf rfl rfl
  rw [hc, read_kchk, plain_eq hu, fixed_cons g0, fixed_cons g1, fixed_cons g2, fixed_nil, q0, q1]

theorem read_sld (xb : Ext) (wd : BitVec 32) : readCopy 0xA xb wd =
    plain xb wd [(2, 5, 0x0, 3), (7, 5, 0x0, 3)] (.sld (fld wd 17 5) (fld wd 12 5) (fld wd 0 2)) := rfl

theorem Encodes.sld (a d : BitVec 5) (z : BitVec 2) : Encodes.Statement (.sld a d z) := by
  refine Encodes.ofPlain (fun xb hu => ?_) rfl
  have hf : Fits [(4, 0x8), (6, 0xA), (5, a.toNat), (5, d.toNat), (5, 0x0), (5, 0x0), (2, z.toNat)] :=
    ⟨by decide, by decide, a.isLt, d.isLt, by decide, by decide, z.isLt, trivial⟩
  have he := word_pack _ rfl hf
  generalize word [(4, 0x8), (6, 0xA), (5, a.toNat), (5, d.toNat), (5, 0x0), (5, 0x0), (2, z.toNat)] = wd at *
  have q0 : fld wd 17 5 = a := fld_eq (part [_, _] he hf rfl rfl)
  have q1 : fld wd 12 5 = d := fld_eq (part [_, _, _] he hf rfl rfl)
  have q2 : fld wd 0 2 = z := fld_eq (part [_, _, _, _, _, _] he hf rfl rfl)
  have hc : readSlot xb wd = readCopy 0xA xb wd := slot_copy (classOf he hf rfl) (part [_] he hf rfl rfl)
  have g0 : wd.toNat / 2 ^ 2 % 2 ^ 5 = 0x0 := part [_, _, _, _, _] he hf rfl rfl
  have g1 : wd.toNat / 2 ^ 7 % 2 ^ 5 = 0x0 := part [_, _, _, _] he hf rfl rfl
  rw [hc, read_sld, plain_eq hu, fixed_cons g0, fixed_cons g1, fixed_nil, q0, q1, q2]

theorem read_sst (xb : Ext) (wd : BitVec 32) : readCopy 0xB xb wd =
    plain xb wd [(2, 5, 0x0, 3), (7, 5, 0x0, 3)] (.sst (fld wd 17 5) (fld wd 12 5) (fld wd 0 2)) := rfl

theorem Encodes.sst (a b : BitVec 5) (z : BitVec 2) : Encodes.Statement (.sst a b z) := by
  refine Encodes.ofPlain (fun xb hu => ?_) rfl
  have hf : Fits [(4, 0x8), (6, 0xB), (5, a.toNat), (5, b.toNat), (5, 0x0), (5, 0x0), (2, z.toNat)] :=
    ⟨by decide, by decide, a.isLt, b.isLt, by decide, by decide, z.isLt, trivial⟩
  have he := word_pack _ rfl hf
  generalize word [(4, 0x8), (6, 0xB), (5, a.toNat), (5, b.toNat), (5, 0x0), (5, 0x0), (2, z.toNat)] = wd at *
  have q0 : fld wd 17 5 = a := fld_eq (part [_, _] he hf rfl rfl)
  have q1 : fld wd 12 5 = b := fld_eq (part [_, _, _] he hf rfl rfl)
  have q2 : fld wd 0 2 = z := fld_eq (part [_, _, _, _, _, _] he hf rfl rfl)
  have hc : readSlot xb wd = readCopy 0xB xb wd := slot_copy (classOf he hf rfl) (part [_] he hf rfl rfl)
  have g0 : wd.toNat / 2 ^ 2 % 2 ^ 5 = 0x0 := part [_, _, _, _, _] he hf rfl rfl
  have g1 : wd.toNat / 2 ^ 7 % 2 ^ 5 = 0x0 := part [_, _, _, _] he hf rfl rfl
  rw [hc, read_sst, plain_eq hu, fixed_cons g0, fixed_cons g1, fixed_nil, q0, q1, q2]

theorem read_ltset (xb : Ext) (wd : BitVec 32) : readCopy 0xC xb wd =
    plain xb wd [(0, 2, 0x0, 3), (2, 5, 0x0, 3), (7, 5, 0x0, 3)] (.ltset (fld wd 17 5) (fld wd 12 5)) := rfl

theorem Encodes.ltset (a b : BitVec 5) : Encodes.Statement (.ltset a b) := by
  refine Encodes.ofPlain (fun xb hu => ?_) rfl
  have hf : Fits [(4, 0x8), (6, 0xC), (5, a.toNat), (5, b.toNat), (5, 0x0), (5, 0x0), (2, 0x0)] :=
    ⟨by decide, by decide, a.isLt, b.isLt, by decide, by decide, by decide, trivial⟩
  have he := word_pack _ rfl hf
  generalize word [(4, 0x8), (6, 0xC), (5, a.toNat), (5, b.toNat), (5, 0x0), (5, 0x0), (2, 0x0)] = wd at *
  have q0 : fld wd 17 5 = a := fld_eq (part [_, _] he hf rfl rfl)
  have q1 : fld wd 12 5 = b := fld_eq (part [_, _, _] he hf rfl rfl)
  have hc : readSlot xb wd = readCopy 0xC xb wd := slot_copy (classOf he hf rfl) (part [_] he hf rfl rfl)
  have g0 : wd.toNat / 2 ^ 0 % 2 ^ 2 = 0x0 := part [_, _, _, _, _, _] he hf rfl rfl
  have g1 : wd.toNat / 2 ^ 2 % 2 ^ 5 = 0x0 := part [_, _, _, _, _] he hf rfl rfl
  have g2 : wd.toNat / 2 ^ 7 % 2 ^ 5 = 0x0 := part [_, _, _, _] he hf rfl rfl
  rw [hc, read_ltset, plain_eq hu, fixed_cons g0, fixed_cons g1, fixed_cons g2, fixed_nil, q0, q1]

theorem read_kstat (xb : Ext) (wd : BitVec 32) : readCopy 0xD xb wd =
    plain xb wd [(2, 5, 0x0, 3), (7, 5, 0x0, 3), (17, 5, 0x0, 3)] (.kstat (fld wd 12 5) (fld wd 0 2)) := rfl

theorem Encodes.kstat (d : BitVec 5) (e : BitVec 2) : Encodes.Statement (.kstat d e) := by
  refine Encodes.ofPlain (fun xb hu => ?_) rfl
  have hf : Fits [(4, 0x8), (6, 0xD), (5, 0x0), (5, d.toNat), (5, 0x0), (5, 0x0), (2, e.toNat)] :=
    ⟨by decide, by decide, by decide, d.isLt, by decide, by decide, e.isLt, trivial⟩
  have he := word_pack _ rfl hf
  generalize word [(4, 0x8), (6, 0xD), (5, 0x0), (5, d.toNat), (5, 0x0), (5, 0x0), (2, e.toNat)] = wd at *
  have q0 : fld wd 12 5 = d := fld_eq (part [_, _, _] he hf rfl rfl)
  have q1 : fld wd 0 2 = e := fld_eq (part [_, _, _, _, _, _] he hf rfl rfl)
  have hc : readSlot xb wd = readCopy 0xD xb wd := slot_copy (classOf he hf rfl) (part [_] he hf rfl rfl)
  have g0 : wd.toNat / 2 ^ 2 % 2 ^ 5 = 0x0 := part [_, _, _, _, _] he hf rfl rfl
  have g1 : wd.toNat / 2 ^ 7 % 2 ^ 5 = 0x0 := part [_, _, _, _] he hf rfl rfl
  have g2 : wd.toNat / 2 ^ 17 % 2 ^ 5 = 0x0 := part [_, _] he hf rfl rfl
  rw [hc, read_kstat, plain_eq hu, fixed_cons g0, fixed_cons g1, fixed_cons g2, fixed_nil, q0, q1]

theorem read_ld (xb : Ext) (wd : BitVec 32) : readQmem 0x0 xb wd =
    fixed wd [(0, 1, 0x0, 3)] (.ld (fld wd 17 5) (fld wd 12 5) (fld wd 6 6) (fld wd 4 2) (fld wd 2 2) (fld wd 1 1) xb) := rfl

theorem Encodes.ld (d b : BitVec 5) (i : BitVec 6) (z c : BitVec 2) (s : BitVec 1) (x : Ext) : Encodes.Statement (.ld d b i z c s x) := by
  refine Encodes.ofExt (f := fun xb => .ld d b i z c s xb) (fun xb => ?_) (fun _ => rfl) x
  have hf : Fits [(4, 0x9), (6, 0x0), (5, d.toNat), (5, b.toNat), (6, i.toNat), (2, z.toNat), (2, c.toNat), (1, s.toNat), (1, 0x0)] :=
    ⟨by decide, by decide, d.isLt, b.isLt, i.isLt, z.isLt, c.isLt, s.isLt, by decide, trivial⟩
  have he := word_pack _ rfl hf
  generalize word [(4, 0x9), (6, 0x0), (5, d.toNat), (5, b.toNat), (6, i.toNat), (2, z.toNat), (2, c.toNat), (1, s.toNat), (1, 0x0)] = wd at *
  have q0 : fld wd 17 5 = d := fld_eq (part [_, _] he hf rfl rfl)
  have q1 : fld wd 12 5 = b := fld_eq (part [_, _, _] he hf rfl rfl)
  have q2 : fld wd 6 6 = i := fld_eq (part [_, _, _, _] he hf rfl rfl)
  have q3 : fld wd 4 2 = z := fld_eq (part [_, _, _, _, _] he hf rfl rfl)
  have q4 : fld wd 2 2 = c := fld_eq (part [_, _, _, _, _, _] he hf rfl rfl)
  have q5 : fld wd 1 1 = s := fld_eq (part [_, _, _, _, _, _, _] he hf rfl rfl)
  have hc : readSlot xb wd = readQmem 0x0 xb wd := slot_qmem (classOf he hf rfl) (part [_] he hf rfl rfl)
  have g0 : wd.toNat / 2 ^ 0 % 2 ^ 1 = 0x0 := part [_, _, _, _, _, _, _, _] he hf rfl rfl
  rw [hc, read_ld, fixed_cons g0, fixed_nil, q0, q1, q2, q3, q4, q5]

theorem read_st (xb : Ext) (wd : BitVec 32) : readQmem 0x1 xb wd =
    fixed wd [(0, 1, 0x0, 3)] (.st (fld wd 17 5) (fld wd 12 5) (fld wd 6 6) (fld wd 4 2) (fld wd 2 2) (fld wd 1 1) xb) := rfl

theorem Encodes.st (d b : BitVec 5) (i : BitVec 6) (z c : BitVec 2) (s : BitVec 1) (x : Ext) : Encodes.Statement (.st d b i z c s x) := by
  refine Encodes.ofExt (f := fun xb => .st d b i z c s xb) (fun xb => ?_) (fun _ => rfl) x
  have hf : Fits [(4, 0x9), (6, 0x1), (5, d.toNat), (5, b.toNat), (6, i.toNat), (2, z.toNat), (2, c.toNat), (1, s.toNat), (1, 0x0)] :=
    ⟨by decide, by decide, d.isLt, b.isLt, i.isLt, z.isLt, c.isLt, s.isLt, by decide, trivial⟩
  have he := word_pack _ rfl hf
  generalize word [(4, 0x9), (6, 0x1), (5, d.toNat), (5, b.toNat), (6, i.toNat), (2, z.toNat), (2, c.toNat), (1, s.toNat), (1, 0x0)] = wd at *
  have q0 : fld wd 17 5 = d := fld_eq (part [_, _] he hf rfl rfl)
  have q1 : fld wd 12 5 = b := fld_eq (part [_, _, _] he hf rfl rfl)
  have q2 : fld wd 6 6 = i := fld_eq (part [_, _, _, _] he hf rfl rfl)
  have q3 : fld wd 4 2 = z := fld_eq (part [_, _, _, _, _] he hf rfl rfl)
  have q4 : fld wd 2 2 = c := fld_eq (part [_, _, _, _, _, _] he hf rfl rfl)
  have q5 : fld wd 1 1 = s := fld_eq (part [_, _, _, _, _, _, _] he hf rfl rfl)
  have hc : readSlot xb wd = readQmem 0x1 xb wd := slot_qmem (classOf he hf rfl) (part [_] he hf rfl rfl)
  have g0 : wd.toNat / 2 ^ 0 % 2 ^ 1 = 0x0 := part [_, _, _, _, _, _, _, _] he hf rfl rfl
  rw [hc, read_st, fixed_cons g0, fixed_nil, q0, q1, q2, q3, q4, q5]

theorem read_lda (xb : Ext) (wd : BitVec 32) : readQmem 0x2 xb wd =
    fixed wd [(0, 1, 0x0, 3)] (.lda (fld wd 17 5) (fld wd 12 5) (fld wd 6 6) (fld wd 4 2) (fld wd 2 2) (fld wd 1 1) xb) := rfl

theorem Encodes.lda (d b : BitVec 5) (i : BitVec 6) (z c : BitVec 2) (s : BitVec 1) (x : Ext) : Encodes.Statement (.lda d b i z c s x) := by
  refine Encodes.ofExt (f := fun xb => .lda d b i z c s xb) (fun xb => ?_) (fun _ => rfl) x
  have hf : Fits [(4, 0x9), (6, 0x2), (5, d.toNat), (5, b.toNat), (6, i.toNat), (2, z.toNat), (2, c.toNat), (1, s.toNat), (1, 0x0)] :=
    ⟨by decide, by decide, d.isLt, b.isLt, i.isLt, z.isLt, c.isLt, s.isLt, by decide, trivial⟩
  have he := word_pack _ rfl hf
  generalize word [(4, 0x9), (6, 0x2), (5, d.toNat), (5, b.toNat), (6, i.toNat), (2, z.toNat), (2, c.toNat), (1, s.toNat), (1, 0x0)] = wd at *
  have q0 : fld wd 17 5 = d := fld_eq (part [_, _] he hf rfl rfl)
  have q1 : fld wd 12 5 = b := fld_eq (part [_, _, _] he hf rfl rfl)
  have q2 : fld wd 6 6 = i := fld_eq (part [_, _, _, _] he hf rfl rfl)
  have q3 : fld wd 4 2 = z := fld_eq (part [_, _, _, _, _] he hf rfl rfl)
  have q4 : fld wd 2 2 = c := fld_eq (part [_, _, _, _, _, _] he hf rfl rfl)
  have q5 : fld wd 1 1 = s := fld_eq (part [_, _, _, _, _, _, _] he hf rfl rfl)
  have hc : readSlot xb wd = readQmem 0x2 xb wd := slot_qmem (classOf he hf rfl) (part [_] he hf rfl rfl)
  have g0 : wd.toNat / 2 ^ 0 % 2 ^ 1 = 0x0 := part [_, _, _, _, _, _, _, _] he hf rfl rfl
  rw [hc, read_lda, fixed_cons g0, fixed_nil, q0, q1, q2, q3, q4, q5]

theorem read_stl (xb : Ext) (wd : BitVec 32) : readQmem 0x3 xb wd =
    fixed wd [(0, 1, 0x0, 3)] (.stl (fld wd 17 5) (fld wd 12 5) (fld wd 6 6) (fld wd 4 2) (fld wd 2 2) (fld wd 1 1) xb) := rfl

theorem Encodes.stl (d b : BitVec 5) (i : BitVec 6) (z c : BitVec 2) (s : BitVec 1) (x : Ext) : Encodes.Statement (.stl d b i z c s x) := by
  refine Encodes.ofExt (f := fun xb => .stl d b i z c s xb) (fun xb => ?_) (fun _ => rfl) x
  have hf : Fits [(4, 0x9), (6, 0x3), (5, d.toNat), (5, b.toNat), (6, i.toNat), (2, z.toNat), (2, c.toNat), (1, s.toNat), (1, 0x0)] :=
    ⟨by decide, by decide, d.isLt, b.isLt, i.isLt, z.isLt, c.isLt, s.isLt, by decide, trivial⟩
  have he := word_pack _ rfl hf
  generalize word [(4, 0x9), (6, 0x3), (5, d.toNat), (5, b.toNat), (6, i.toNat), (2, z.toNat), (2, c.toNat), (1, s.toNat), (1, 0x0)] = wd at *
  have q0 : fld wd 17 5 = d := fld_eq (part [_, _] he hf rfl rfl)
  have q1 : fld wd 12 5 = b := fld_eq (part [_, _, _] he hf rfl rfl)
  have q2 : fld wd 6 6 = i := fld_eq (part [_, _, _, _] he hf rfl rfl)
  have q3 : fld wd 4 2 = z := fld_eq (part [_, _, _, _, _] he hf rfl rfl)
  have q4 : fld wd 2 2 = c := fld_eq (part [_, _, _, _, _, _] he hf rfl rfl)
  have q5 : fld wd 1 1 = s := fld_eq (part [_, _, _, _, _, _, _] he hf rfl rfl)
  have hc : readSlot xb wd = readQmem 0x3 xb wd := slot_qmem (classOf he hf rfl) (part [_] he hf rfl rfl)
  have g0 : wd.toNat / 2 ^ 0 % 2 ^ 1 = 0x0 := part [_, _, _, _, _, _, _, _] he hf rfl rfl
  rw [hc, read_stl, fixed_cons g0, fixed_nil, q0, q1, q2, q3, q4, q5]

theorem read_ldv (xb : Ext) (wd : BitVec 32) : readQmem 0x4 xb wd =
    fixed wd [(0, 1, 0x0, 3), (1, 1, 0x0, 5), (2, 2, 0x0, 5)] (.ldv (fld wd 17 5) (fld wd 12 5) (fld wd 6 6) (fld wd 4 2) xb) := rfl

theorem Encodes.ldv (d b : BitVec 5) (i : BitVec 6) (z : BitVec 2) (x : Ext) : Encodes.Statement (.ldv d b i z x) := by
  refine Encodes.ofExt (f := fun xb => .ldv d b i z xb) (fun xb => ?_) (fun _ => rfl) x
  have hf : Fits [(4, 0x9), (6, 0x4), (5, d.toNat), (5, b.toNat), (6, i.toNat), (2, z.toNat), (2, 0x0), (1, 0x0), (1, 0x0)] :=
    ⟨by decide, by decide, d.isLt, b.isLt, i.isLt, z.isLt, by decide, by decide, by decide, trivial⟩
  have he := word_pack _ rfl hf
  generalize word [(4, 0x9), (6, 0x4), (5, d.toNat), (5, b.toNat), (6, i.toNat), (2, z.toNat), (2, 0x0), (1, 0x0), (1, 0x0)] = wd at *
  have q0 : fld wd 17 5 = d := fld_eq (part [_, _] he hf rfl rfl)
  have q1 : fld wd 12 5 = b := fld_eq (part [_, _, _] he hf rfl rfl)
  have q2 : fld wd 6 6 = i := fld_eq (part [_, _, _, _] he hf rfl rfl)
  have q3 : fld wd 4 2 = z := fld_eq (part [_, _, _, _, _] he hf rfl rfl)
  have hc : readSlot xb wd = readQmem 0x4 xb wd := slot_qmem (classOf he hf rfl) (part [_] he hf rfl rfl)
  have g0 : wd.toNat / 2 ^ 0 % 2 ^ 1 = 0x0 := part [_, _, _, _, _, _, _, _] he hf rfl rfl
  have g1 : wd.toNat / 2 ^ 1 % 2 ^ 1 = 0x0 := part [_, _, _, _, _, _, _] he hf rfl rfl
  have g2 : wd.toNat / 2 ^ 2 % 2 ^ 2 = 0x0 := part [_, _, _, _, _, _] he hf rfl rfl
  rw [hc, read_ldv, fixed_cons g0, fixed_cons g1, fixed_cons g2, fixed_nil, q0, q1, q2, q3]

theorem read_stv (xb : Ext) (wd : BitVec 32) : readQmem 0x5 xb wd =
    fixed wd [(0, 1, 0x0, 3), (1, 1, 0x0, 5), (2, 2, 0x0, 5)] (.stv (fld wd 17 5) (fld wd 12 5) (fld wd 6 6) (fld wd 4 2) xb) := rfl

theorem Encodes.stv (d b : BitVec 5) (i : BitVec 6) (z : BitVec 2) (x : Ext) : Encodes.Statement (.stv d b i z x) := by
  refine Encodes.ofExt (f := fun xb => .stv d b i z xb) (fun xb => ?_) (fun _ => rfl) x
  have hf : Fits [(4, 0x9), (6, 0x5), (5, d.toNat), (5, b.toNat), (6, i.toNat), (2, z.toNat), (2, 0x0), (1, 0x0), (1, 0x0)] :=
    ⟨by decide, by decide, d.isLt, b.isLt, i.isLt, z.isLt, by decide, by decide, by decide, trivial⟩
  have he := word_pack _ rfl hf
  generalize word [(4, 0x9), (6, 0x5), (5, d.toNat), (5, b.toNat), (6, i.toNat), (2, z.toNat), (2, 0x0), (1, 0x0), (1, 0x0)] = wd at *
  have q0 : fld wd 17 5 = d := fld_eq (part [_, _] he hf rfl rfl)
  have q1 : fld wd 12 5 = b := fld_eq (part [_, _, _] he hf rfl rfl)
  have q2 : fld wd 6 6 = i := fld_eq (part [_, _, _, _] he hf rfl rfl)
  have q3 : fld wd 4 2 = z := fld_eq (part [_, _, _, _, _] he hf rfl rfl)
  have hc : readSlot xb wd = readQmem 0x5 xb wd := slot_qmem (classOf he hf rfl) (part [_] he hf rfl rfl)
  have g0 : wd.toNat / 2 ^ 0 % 2 ^ 1 = 0x0 := part [_, _, _, _, _, _, _, _] he hf rfl rfl
  have g1 : wd.toNat / 2 ^ 1 % 2 ^ 1 = 0x0 := part [_, _, _, _, _, _, _] he hf rfl rfl
  have g2 : wd.toNat / 2 ^ 2 % 2 ^ 2 = 0x0 := part [_, _, _, _, _, _] he hf rfl rfl
  rw [hc, read_stv, fixed_cons g0, fixed_cons g1, fixed_cons g2, fixed_nil, q0, q1, q2, q3]

theorem read_amoadd (xb : Ext) (wd : BitVec 32) : readQmem 0x6 xb wd =
    fixed wd [(0, 1, 0x0, 3), (5, 1, 0x1, 5)] (.amoadd (fld wd 17 5) (fld wd 12 5) (fld wd 6 6) (fld wd 4 1) (fld wd 2 2) (fld wd 1 1) xb) := rfl

theorem Encodes.amoadd (d b : BitVec 5) (i : BitVec 6) (z : BitVec 1) (c : BitVec 2) (s : BitVec 1) (x : Ext) : Encodes.Statement (.amoadd d b i z c s x) := by
  refine Encodes.ofExt (f := fun xb => .amoadd d b i z c s xb) (fun xb => ?_) (fun _ => rfl) x
  have hf : Fits [(4, 0x9), (6, 0x6), (5, d.toNat), (5, b.toNat), (6, i.toNat), (1, 0x1), (1, z.toNat), (2, c.toNat), (1, s.toNat), (1, 0x0)] :=
    ⟨by decide, by decide, d.isLt, b.isLt, i.isLt, by decide, z.isLt, c.isLt, s.isLt, by decide, trivial⟩
  have he := word_pack _ rfl hf
  generalize word [(4, 0x9), (6, 0x6), (5, d.toNat), (5, b.toNat), (6, i.toNat), (1, 0x1), (1, z.toNat), (2, c.toNat), (1, s.toNat), (1, 0x0)] = wd at *
  have q0 : fld wd 17 5 = d := fld_eq (part [_, _] he hf rfl rfl)
  have q1 : fld wd 12 5 = b := fld_eq (part [_, _, _] he hf rfl rfl)
  have q2 : fld wd 6 6 = i := fld_eq (part [_, _, _, _] he hf rfl rfl)
  have q3 : fld wd 4 1 = z := fld_eq (part [_, _, _, _, _, _] he hf rfl rfl)
  have q4 : fld wd 2 2 = c := fld_eq (part [_, _, _, _, _, _, _] he hf rfl rfl)
  have q5 : fld wd 1 1 = s := fld_eq (part [_, _, _, _, _, _, _, _] he hf rfl rfl)
  have hc : readSlot xb wd = readQmem 0x6 xb wd := slot_qmem (classOf he hf rfl) (part [_] he hf rfl rfl)
  have g0 : wd.toNat / 2 ^ 0 % 2 ^ 1 = 0x0 := part [_, _, _, _, _, _, _, _, _] he hf rfl rfl
  have g1 : wd.toNat / 2 ^ 5 % 2 ^ 1 = 0x1 := part [_, _, _, _, _] he hf rfl rfl
  rw [hc, read_amoadd, fixed_cons g0, fixed_cons g1, fixed_nil, q0, q1, q2, q3, q4, q5]

theorem read_amoand (xb : Ext) (wd : BitVec 32) : readQmem 0x7 xb wd =
    fixed wd [(0, 1, 0x0, 3), (5, 1, 0x1, 5)] (.amoand (fld wd 17 5) (fld wd 12 5) (fld wd 6 6) (fld wd 4 1) (fld wd 2 2) (fld wd 1 1) xb) := rfl

theorem Encodes.amoand (d b : BitVec 5) (i : BitVec 6) (z : BitVec 1) (c : BitVec 2) (s : BitVec 1) (x : Ext) : Encodes.Statement (.amoand d b i z c s x) := by
  refine Encodes.ofExt (f := fun xb => .amoand d b i z c s xb) (fun xb => ?_) (fun _ => rfl) x
  have hf : Fits [(4, 0x9), (6, 0x7), (5, d.toNat), (5, b.toNat), (6, i.toNat), (1, 0x1), (1, z.toNat), (2, c.toNat), (1, s.toNat), (1, 0x0)] :=
    ⟨by decide, by decide, d.isLt, b.isLt, i.isLt, by decide, z.isLt, c.isLt, s.isLt, by decide, trivial⟩
  have he := word_pack _ rfl hf
  generalize word [(4, 0x9), (6, 0x7), (5, d.toNat), (5, b.toNat), (6, i.toNat), (1, 0x1), (1, z.toNat), (2, c.toNat), (1, s.toNat), (1, 0x0)] = wd at *
  have q0 : fld wd 17 5 = d := fld_eq (part [_, _] he hf rfl rfl)
  have q1 : fld wd 12 5 = b := fld_eq (part [_, _, _] he hf rfl rfl)
  have q2 : fld wd 6 6 = i := fld_eq (part [_, _, _, _] he hf rfl rfl)
  have q3 : fld wd 4 1 = z := fld_eq (part [_, _, _, _, _, _] he hf rfl rfl)
  have q4 : fld wd 2 2 = c := fld_eq (part [_, _, _, _, _, _, _] he hf rfl rfl)
  have q5 : fld wd 1 1 = s := fld_eq (part [_, _, _, _, _, _, _, _] he hf rfl rfl)
  have hc : readSlot xb wd = readQmem 0x7 xb wd := slot_qmem (classOf he hf rfl) (part [_] he hf rfl rfl)
  have g0 : wd.toNat / 2 ^ 0 % 2 ^ 1 = 0x0 := part [_, _, _, _, _, _, _, _, _] he hf rfl rfl
  have g1 : wd.toNat / 2 ^ 5 % 2 ^ 1 = 0x1 := part [_, _, _, _, _] he hf rfl rfl
  rw [hc, read_amoand, fixed_cons g0, fixed_cons g1, fixed_nil, q0, q1, q2, q3, q4, q5]

theorem read_amoor (xb : Ext) (wd : BitVec 32) : readQmem 0x8 xb wd =
    fixed wd [(0, 1, 0x0, 3), (5, 1, 0x1, 5)] (.amoor (fld wd 17 5) (fld wd 12 5) (fld wd 6 6) (fld wd 4 1) (fld wd 2 2) (fld wd 1 1) xb) := rfl

theorem Encodes.amoor (d b : BitVec 5) (i : BitVec 6) (z : BitVec 1) (c : BitVec 2) (s : BitVec 1) (x : Ext) : Encodes.Statement (.amoor d b i z c s x) := by
  refine Encodes.ofExt (f := fun xb => .amoor d b i z c s xb) (fun xb => ?_) (fun _ => rfl) x
  have hf : Fits [(4, 0x9), (6, 0x8), (5, d.toNat), (5, b.toNat), (6, i.toNat), (1, 0x1), (1, z.toNat), (2, c.toNat), (1, s.toNat), (1, 0x0)] :=
    ⟨by decide, by decide, d.isLt, b.isLt, i.isLt, by decide, z.isLt, c.isLt, s.isLt, by decide, trivial⟩
  have he := word_pack _ rfl hf
  generalize word [(4, 0x9), (6, 0x8), (5, d.toNat), (5, b.toNat), (6, i.toNat), (1, 0x1), (1, z.toNat), (2, c.toNat), (1, s.toNat), (1, 0x0)] = wd at *
  have q0 : fld wd 17 5 = d := fld_eq (part [_, _] he hf rfl rfl)
  have q1 : fld wd 12 5 = b := fld_eq (part [_, _, _] he hf rfl rfl)
  have q2 : fld wd 6 6 = i := fld_eq (part [_, _, _, _] he hf rfl rfl)
  have q3 : fld wd 4 1 = z := fld_eq (part [_, _, _, _, _, _] he hf rfl rfl)
  have q4 : fld wd 2 2 = c := fld_eq (part [_, _, _, _, _, _, _] he hf rfl rfl)
  have q5 : fld wd 1 1 = s := fld_eq (part [_, _, _, _, _, _, _, _] he hf rfl rfl)
  have hc : readSlot xb wd = readQmem 0x8 xb wd := slot_qmem (classOf he hf rfl) (part [_] he hf rfl rfl)
  have g0 : wd.toNat / 2 ^ 0 % 2 ^ 1 = 0x0 := part [_, _, _, _, _, _, _, _, _] he hf rfl rfl
  have g1 : wd.toNat / 2 ^ 5 % 2 ^ 1 = 0x1 := part [_, _, _, _, _] he hf rfl rfl
  rw [hc, read_amoor, fixed_cons g0, fixed_cons g1, fixed_nil, q0, q1, q2, q3, q4, q5]

theorem read_amoxor (xb : Ext) (wd : BitVec 32) : readQmem 0x9 xb wd =
    fixed wd [(0, 1, 0x0, 3), (5, 1, 0x1, 5)] (.amoxor (fld wd 17 5) (fld wd 12 5) (fld wd 6 6) (fld wd 4 1) (fld wd 2 2) (fld wd 1 1) xb) := rfl

theorem Encodes.amoxor (d b : BitVec 5) (i : BitVec 6) (z : BitVec 1) (c : BitVec 2) (s : BitVec 1) (x : Ext) : Encodes.Statement (.amoxor d b i z c s x) := by
  refine Encodes.ofExt (f := fun xb => .amoxor d b i z c s xb) (fun xb => ?_) (fun _ => rfl) x
  have hf : Fits [(4, 0x9), (6, 0x9), (5, d.toNat), (5, b.toNat), (6, i.toNat), (1, 0x1), (1, z.toNat), (2, c.toNat), (1, s.toNat), (1, 0x0)] :=
    ⟨by decide, by decide, d.isLt, b.isLt, i.isLt, by decide, z.isLt, c.isLt, s.isLt, by decide, trivial⟩
  have he := word_pack _ rfl hf
  generalize word [(4, 0x9), (6, 0x9), (5, d.toNat), (5, b.toNat), (6, i.toNat), (1, 0x1), (1, z.toNat), (2, c.toNat), (1, s.toNat), (1, 0x0)] = wd at *
  have q0 : fld wd 17 5 = d := fld_eq (part [_, _] he hf rfl rfl)
  have q1 : fld wd 12 5 = b := fld_eq (part [_, _, _] he hf rfl rfl)
  have q2 : fld wd 6 6 = i := fld_eq (part [_, _, _, _] he hf rfl rfl)
  have q3 : fld wd 4 1 = z := fld_eq (part [_, _, _, _, _, _] he hf rfl rfl)
  have q4 : fld wd 2 2 = c := fld_eq (part [_, _, _, _, _, _, _] he hf rfl rfl)
  have q5 : fld wd 1 1 = s := fld_eq (part [_, _, _, _, _, _, _, _] he hf rfl rfl)
  have hc : readSlot xb wd = readQmem 0x9 xb wd := slot_qmem (classOf he hf rfl) (part [_] he hf rfl rfl)
  have g0 : wd.toNat / 2 ^ 0 % 2 ^ 1 = 0x0 := part [_, _, _, _, _, _, _, _, _] he hf rfl rfl
  have g1 : wd.toNat / 2 ^ 5 % 2 ^ 1 = 0x1 := part [_, _, _, _, _] he hf rfl rfl
  rw [hc, read_amoxor, fixed_cons g0, fixed_cons g1, fixed_nil, q0, q1, q2, q3, q4, q5]

theorem read_amomin (xb : Ext) (wd : BitVec 32) : readQmem 0xA xb wd =
    fixed wd [(0, 1, 0x0, 3), (5, 1, 0x1, 5)] (.amomin (fld wd 17 5) (fld wd 12 5) (fld wd 6 6) (fld wd 4 1) (fld wd 2 2) (fld wd 1 1) xb) := rfl

theorem Encodes.amomin (d b : BitVec 5) (i : BitVec 6) (z : BitVec 1) (c : BitVec 2) (s : BitVec 1) (x : Ext) : Encodes.Statement (.amomin d b i z c s x) := by
  refine Encodes.ofExt (f := fun xb => .amomin d b i z c s xb) (fun xb => ?_) (fun _ => rfl) x
  have hf : Fits [(4, 0x9), (6, 0xA), (5, d.toNat), (5, b.toNat), (6, i.toNat), (1, 0x1), (1, z.toNat), (2, c.toNat), (1, s.toNat), (1, 0x0)] :=
    ⟨by decide, by decide, d.isLt, b.isLt, i.isLt, by decide, z.isLt, c.isLt, s.isLt, by decide, trivial⟩
  have he := word_pack _ rfl hf
  generalize word [(4, 0x9), (6, 0xA), (5, d.toNat), (5, b.toNat), (6, i.toNat), (1, 0x1), (1, z.toNat), (2, c.toNat), (1, s.toNat), (1, 0x0)] = wd at *
  have q0 : fld wd 17 5 = d := fld_eq (part [_, _] he hf rfl rfl)
  have q1 : fld wd 12 5 = b := fld_eq (part [_, _, _] he hf rfl rfl)
  have q2 : fld wd 6 6 = i := fld_eq (part [_, _, _, _] he hf rfl rfl)
  have q3 : fld wd 4 1 = z := fld_eq (part [_, _, _, _, _, _] he hf rfl rfl)
  have q4 : fld wd 2 2 = c := fld_eq (part [_, _, _, _, _, _, _] he hf rfl rfl)
  have q5 : fld wd 1 1 = s := fld_eq (part [_, _, _, _, _, _, _, _] he hf rfl rfl)
  have hc : readSlot xb wd = readQmem 0xA xb wd := slot_qmem (classOf he hf rfl) (part [_] he hf rfl rfl)
  have g0 : wd.toNat / 2 ^ 0 % 2 ^ 1 = 0x0 := part [_, _, _, _, _, _, _, _, _] he hf rfl rfl
  have g1 : wd.toNat / 2 ^ 5 % 2 ^ 1 = 0x1 := part [_, _, _, _, _] he hf rfl rfl
  rw [hc, read_amomin, fixed_cons g0, fixed_cons g1, fixed_nil, q0, q1, q2, q3, q4, q5]

theorem read_amomax (xb : Ext) (wd : BitVec 32) : readQmem 0xB xb wd =
    fixed wd [(0, 1, 0x0, 3), (5, 1, 0x1, 5)] (.amomax (fld wd 17 5) (fld wd 12 5) (fld wd 6 6) (fld wd 4 1) (fld wd 2 2) (fld wd 1 1) xb) := rfl

theorem Encodes.amomax (d b : BitVec 5) (i : BitVec 6) (z : BitVec 1) (c : BitVec 2) (s : BitVec 1) (x : Ext) : Encodes.Statement (.amomax d b i z c s x) := by
  refine Encodes.ofExt (f := fun xb => .amomax d b i z c s xb) (fun xb => ?_) (fun _ => rfl) x
  have hf : Fits [(4, 0x9), (6, 0xB), (5, d.toNat), (5, b.toNat), (6, i.toNat), (1, 0x1), (1, z.toNat), (2, c.toNat), (1, s.toNat), (1, 0x0)] :=
    ⟨by decide, by decide, d.isLt, b.isLt, i.isLt, by decide, z.isLt, c.isLt, s.isLt, by decide, trivial⟩
  have he := word_pack _ rfl hf
  generalize word [(4, 0x9), (6, 0xB), (5, d.toNat), (5, b.toNat), (6, i.toNat), (1, 0x1), (1, z.toNat), (2, c.toNat), (1, s.toNat), (1, 0x0)] = wd at *
  have q0 : fld wd 17 5 = d := fld_eq (part [_, _] he hf rfl rfl)
  have q1 : fld wd 12 5 = b := fld_eq (part [_, _, _] he hf rfl rfl)
  have q2 : fld wd 6 6 = i := fld_eq (part [_, _, _, _] he hf rfl rfl)
  have q3 : fld wd 4 1 = z := fld_eq (part [_, _, _, _, _, _] he hf rfl rfl)
  have q4 : fld wd 2 2 = c := fld_eq (part [_, _, _, _, _, _, _] he hf rfl rfl)
  have q5 : fld wd 1 1 = s := fld_eq (part [_, _, _, _, _, _, _, _] he hf rfl rfl)
  have hc : readSlot xb wd = readQmem 0xB xb wd := slot_qmem (classOf he hf rfl) (part [_] he hf rfl rfl)
  have g0 : wd.toNat / 2 ^ 0 % 2 ^ 1 = 0x0 := part [_, _, _, _, _, _, _, _, _] he hf rfl rfl
  have g1 : wd.toNat / 2 ^ 5 % 2 ^ 1 = 0x1 := part [_, _, _, _, _] he hf rfl rfl
  rw [hc, read_amomax, fixed_cons g0, fixed_cons g1, fixed_nil, q0, q1, q2, q3, q4, q5]

theorem read_amoswp (xb : Ext) (wd : BitVec 32) : readQmem 0xC xb wd =
    fixed wd [(0, 1, 0x0, 3), (5, 1, 0x1, 5)] (.amoswp (fld wd 17 5) (fld wd 12 5) (fld wd 6 6) (fld wd 4 1) (fld wd 2 2) (fld wd 1 1) xb) := rfl

theorem Encodes.amoswp (d b : BitVec 5) (i : BitVec 6) (z : BitVec 1) (c : BitVec 2) (s : BitVec 1) (x : Ext) : Encodes.Statement (.amoswp d b i z c s x) := by
  refine Encodes.ofExt (f := fun xb => .amoswp d b i z c s xb) (fun xb => ?_) (fun _ => rfl) x
  have hf : Fits [(4, 0x9), (6, 0xC), (5, d.toNat), (5, b.toNat), (6, i.toNat), (1, 0x1), (1, z.toNat), (2, c.toNat), (1, s.toNat), (1, 0x0)] :=
    ⟨by decide, by decide, d.isLt, b.isLt, i.isLt, by decide, z.isLt, c.isLt, s.isLt, by decide, trivial⟩
  have he := word_pack _ rfl hf
  generalize word [(4, 0x9), (6, 0xC), (5, d.toNat), (5, b.toNat), (6, i.toNat), (1, 0x1), (1, z.toNat), (2, c.toNat), (1, s.toNat), (1, 0x0)] = wd at *
  have q0 : fld wd 17 5 = d := fld_eq (part [_, _] he hf rfl rfl)
  have q1 : fld wd 12 5 = b := fld_eq (part [_, _, _] he hf rfl rfl)
  have q2 : fld wd 6 6 = i := fld_eq (part [_, _, _, _] he hf rfl rfl)
  have q3 : fld wd 4 1 = z := fld_eq (part [_, _, _, _, _, _] he hf rfl rfl)
  have q4 : fld wd 2 2 = c := fld_eq (part [_, _, _, _, _, _, _] he hf rfl rfl)
  have q5 : fld wd 1 1 = s := fld_eq (part [_, _, _, _, _, _, _, _] he hf rfl rfl)
  have hc : readSlot xb wd = readQmem 0xC xb wd := slot_qmem (classOf he hf rfl) (part [_] he hf rfl rfl)
  have g0 : wd.toNat / 2 ^ 0 % 2 ^ 1 = 0x0 := part [_, _, _, _, _, _, _, _, _] he hf rfl rfl
  have g1 : wd.toNat / 2 ^ 5 % 2 ^ 1 = 0x1 := part [_, _, _, _, _] he hf rfl rfl
  rw [hc, read_amoswp, fixed_cons g0, fixed_cons g1, fixed_nil, q0, q1, q2, q3, q4, q5]

theorem read_amocas (xb : Ext) (wd : BitVec 32) : readQmem 0xD xb wd =
    fixed wd [(0, 1, 0x0, 3), (5, 1, 0x1, 5)] (.amocas (fld wd 17 5) (fld wd 12 5) (fld wd 6 6) (fld wd 4 1) (fld wd 2 2) (fld wd 1 1) xb) := rfl

theorem Encodes.amocas (d b : BitVec 5) (i : BitVec 6) (z : BitVec 1) (c : BitVec 2) (s : BitVec 1) (x : Ext) : Encodes.Statement (.amocas d b i z c s x) := by
  refine Encodes.ofExt (f := fun xb => .amocas d b i z c s xb) (fun xb => ?_) (fun _ => rfl) x
  have hf : Fits [(4, 0x9), (6, 0xD), (5, d.toNat), (5, b.toNat), (6, i.toNat), (1, 0x1), (1, z.toNat), (2, c.toNat), (1, s.toNat), (1, 0x0)] :=
    ⟨by decide, by decide, d.isLt, b.isLt, i.isLt, by decide, z.isLt, c.isLt, s.isLt, by decide, trivial⟩
  have he := word_pack _ rfl hf
  generalize word [(4, 0x9), (6, 0xD), (5, d.toNat), (5, b.toNat), (6, i.toNat), (1, 0x1), (1, z.toNat), (2, c.toNat), (1, s.toNat), (1, 0x0)] = wd at *
  have q0 : fld wd 17 5 = d := fld_eq (part [_, _] he hf rfl rfl)
  have q1 : fld wd 12 5 = b := fld_eq (part [_, _, _] he hf rfl rfl)
  have q2 : fld wd 6 6 = i := fld_eq (part [_, _, _, _] he hf rfl rfl)
  have q3 : fld wd 4 1 = z := fld_eq (part [_, _, _, _, _, _] he hf rfl rfl)
  have q4 : fld wd 2 2 = c := fld_eq (part [_, _, _, _, _, _, _] he hf rfl rfl)
  have q5 : fld wd 1 1 = s := fld_eq (part [_, _, _, _, _, _, _, _] he hf rfl rfl)
  have hc : readSlot xb wd = readQmem 0xD xb wd := slot_qmem (classOf he hf rfl) (part [_] he hf rfl rfl)
  have g0 : wd.toNat / 2 ^ 0 % 2 ^ 1 = 0x0 := part [_, _, _, _, _, _, _, _, _] he hf rfl rfl
  have g1 : wd.toNat / 2 ^ 5 % 2 ^ 1 = 0x1 := part [_, _, _, _, _] he hf rfl rfl
  rw [hc, read_amocas, fixed_cons g0, fixed_cons g1, fixed_nil, q0, q1, q2, q3, q4, q5]

theorem read_vamoor (xb : Ext) (wd : BitVec 32) : readQmem 0xE xb wd =
    fixed wd [(0, 1, 0x0, 3), (1, 1, 0x0, 5), (4, 2, 0x2, 5)] (.vamoor (fld wd 17 5) (fld wd 12 5) (fld wd 6 6) (fld wd 2 2) xb) := rfl

theorem Encodes.vamoor (d b : BitVec 5) (i : BitVec 6) (c : BitVec 2) (x : Ext) : Encodes.Statement (.vamoor d b i c x) := by
  refine Encodes.ofExt (f := fun xb => .vamoor d b i c xb) (fun xb => ?_) (fun _ => rfl) x
  have hf : Fits [(4, 0x9), (6, 0xE), (5, d.toNat), (5, b.toNat), (6, i.toNat), (2, 0x2), (2, c.toNat), (1, 0x0), (1, 0x0)] :=
    ⟨by decide, by decide, d.isLt, b.isLt, i.isLt, by decide, c.isLt, by decide, by decide, trivial⟩
  have he := word_pack _ rfl hf
  generalize word [(4, 0x9), (6, 0xE), (5, d.toNat), (5, b.toNat), (6, i.toNat), (2, 0x2), (2, c.toNat), (1, 0x0), (1, 0x0)] = wd at *
  have q0 : fld wd 17 5 = d := fld_eq (part [_, _] he hf rfl rfl)
  have q1 : fld wd 12 5 = b := fld_eq (part [_, _, _] he hf rfl rfl)
  have q2 : fld wd 6 6 = i := fld_eq (part [_, _, _, _] he hf rfl rfl)
  have q3 : fld wd 2 2 = c := fld_eq (part [_, _, _, _, _, _] he hf rfl rfl)
  have hc : readSlot xb wd = readQmem 0xE xb wd := slot_qmem (classOf he hf rfl) (part [_] he hf rfl rfl)
  have g0 : wd.toNat / 2 ^ 0 % 2 ^ 1 = 0x0 := part [_, _, _, _, _, _, _, _] he hf rfl rfl
  have g1 : wd.toNat / 2 ^ 1 % 2 ^ 1 = 0x0 := part [_, _, _, _, _, _, _] he hf rfl rfl
  have g2 : wd.toNat / 2 ^ 4 % 2 ^ 2 = 0x2 := part [_, _, _, _, _] he hf rfl rfl
  rw [hc, read_vamoor, fixed_cons g0, fixed_cons g1, fixed_cons g2, fixed_nil, q0, q1, q2, q3]

theorem read_vamoadd (xb : Ext) (wd : BitVec 32) : readQmem 0xF xb wd =
    fixed wd [(0, 1, 0x0, 3), (1, 1, 0x0, 5), (4, 2, 0x2, 5)] (.vamoadd (fld wd 17 5) (fld wd 12 5) (fld wd 6 6) (fld wd 2 2) xb) := rfl

theorem Encodes.vamoadd (d b : BitVec 5) (i : BitVec 6) (c : BitVec 2) (x : Ext) : Encodes.Statement (.vamoadd d b i c x) := by
  refine Encodes.ofExt (f := fun xb => .vamoadd d b i c xb) (fun xb => ?_) (fun _ => rfl) x
  have hf : Fits [(4, 0x9), (6, 0xF), (5, d.toNat), (5, b.toNat), (6, i.toNat), (2, 0x2), (2, c.toNat), (1, 0x0), (1, 0x0)] :=
    ⟨by decide, by decide, d.isLt, b.isLt, i.isLt, by decide, c.isLt, by decide, by decide, trivial⟩
  have he := word_pack _ rfl hf
  generalize word [(4, 0x9), (6, 0xF), (5, d.toNat), (5, b.toNat), (6, i.toNat), (2, 0x2), (2, c.toNat), (1, 0x0), (1, 0x0)] = wd at *
  have q0 : fld wd 17 5 = d := fld_eq (part [_, _] he hf rfl rfl)
  have q1 : fld wd 12 5 = b := fld_eq (part [_, _, _] he hf rfl rfl)
  have q2 : fld wd 6 6 = i := fld_eq (part [_, _, _, _] he hf rfl rfl)
  have q3 : fld wd 2 2 = c := fld_eq (part [_, _, _, _, _, _] he hf rfl rfl)
  have hc : readSlot xb wd = readQmem 0xF xb wd := slot_qmem (classOf he hf rfl) (part [_] he hf rfl rfl)
  have g0 : wd.toNat / 2 ^ 0 % 2 ^ 1 = 0x0 := part [_, _, _, _, _, _, _, _] he hf rfl rfl
  have g1 : wd.toNat / 2 ^ 1 % 2 ^ 1 = 0x0 := part [_, _, _, _, _, _, _] he hf rfl rfl
  have g2 : wd.toNat / 2 ^ 4 % 2 ^ 2 = 0x2 := part [_, _, _, _, _] he hf rfl rfl
  rw [hc, read_vamoadd, fixed_cons g0, fixed_cons g1, fixed_cons g2, fixed_nil, q0, q1, q2, q3]

theorem read_barriv (xb : Ext) (wd : BitVec 32) : readQmem 0x10 xb wd =
    fixed wd [(0, 1, 0x0, 3), (1, 1, 0x0, 5), (4, 2, 0x3, 5)] (.barriv (fld wd 17 5) (fld wd 12 5) (fld wd 6 6) (fld wd 2 2) xb) := rfl

theorem Encodes.barriv (d b : BitVec 5) (i : BitVec 6) (c : BitVec 2) (x : Ext) : Encodes.Statement (.barriv d b i c x) := by
  refine Encodes.ofExt (f := fun xb => .barriv d b i c xb) (fun xb => ?_) (fun _ => rfl) x
  have hf : Fits [(4, 0x9), (6, 0x10), (5, d.toNat), (5, b.toNat), (6, i.toNat), (2, 0x3), (2, c.toNat), (1, 0x0), (1, 0x0)] :=
    ⟨by decide, by decide, d.isLt, b.isLt, i.isLt, by decide, c.isLt, by decide, by decide, trivial⟩
  have he := word_pack _ rfl hf
  generalize word [(4, 0x9), (6, 0x10), (5, d.toNat), (5, b.toNat), (6, i.toNat), (2, 0x3), (2, c.toNat), (1, 0x0), (1, 0x0)] = wd at *
  have q0 : fld wd 17 5 = d := fld_eq (part [_, _] he hf rfl rfl)
  have q1 : fld wd 12 5 = b := fld_eq (part [_, _, _] he hf rfl rfl)
  have q2 : fld wd 6 6 = i := fld_eq (part [_, _, _, _] he hf rfl rfl)
  have q3 : fld wd 2 2 = c := fld_eq (part [_, _, _, _, _, _] he hf rfl rfl)
  have hc : readSlot xb wd = readQmem 0x10 xb wd := slot_qmem (classOf he hf rfl) (part [_] he hf rfl rfl)
  have g0 : wd.toNat / 2 ^ 0 % 2 ^ 1 = 0x0 := part [_, _, _, _, _, _, _, _] he hf rfl rfl
  have g1 : wd.toNat / 2 ^ 1 % 2 ^ 1 = 0x0 := part [_, _, _, _, _, _, _] he hf rfl rfl
  have g2 : wd.toNat / 2 ^ 4 % 2 ^ 2 = 0x3 := part [_, _, _, _, _] he hf rfl rfl
  rw [hc, read_barriv, fixed_cons g0, fixed_cons g1, fixed_cons g2, fixed_nil, q0, q1, q2, q3]

theorem read_barwait (xb : Ext) (wd : BitVec 32) : readQmem 0x11 xb wd =
    fixed wd [(0, 1, 0x0, 3), (1, 1, 0x0, 5), (4, 2, 0x3, 5)] (.barwait (fld wd 17 5) (fld wd 12 5) (fld wd 6 6) (fld wd 2 2) xb) := rfl

theorem Encodes.barwait (d b : BitVec 5) (i : BitVec 6) (c : BitVec 2) (x : Ext) : Encodes.Statement (.barwait d b i c x) := by
  refine Encodes.ofExt (f := fun xb => .barwait d b i c xb) (fun xb => ?_) (fun _ => rfl) x
  have hf : Fits [(4, 0x9), (6, 0x11), (5, d.toNat), (5, b.toNat), (6, i.toNat), (2, 0x3), (2, c.toNat), (1, 0x0), (1, 0x0)] :=
    ⟨by decide, by decide, d.isLt, b.isLt, i.isLt, by decide, c.isLt, by decide, by decide, trivial⟩
  have he := word_pack _ rfl hf
  generalize word [(4, 0x9), (6, 0x11), (5, d.toNat), (5, b.toNat), (6, i.toNat), (2, 0x3), (2, c.toNat), (1, 0x0), (1, 0x0)] = wd at *
  have q0 : fld wd 17 5 = d := fld_eq (part [_, _] he hf rfl rfl)
  have q1 : fld wd 12 5 = b := fld_eq (part [_, _, _] he hf rfl rfl)
  have q2 : fld wd 6 6 = i := fld_eq (part [_, _, _, _] he hf rfl rfl)
  have q3 : fld wd 2 2 = c := fld_eq (part [_, _, _, _, _, _] he hf rfl rfl)
  have hc : readSlot xb wd = readQmem 0x11 xb wd := slot_qmem (classOf he hf rfl) (part [_] he hf rfl rfl)
  have g0 : wd.toNat / 2 ^ 0 % 2 ^ 1 = 0x0 := part [_, _, _, _, _, _, _, _] he hf rfl rfl
  have g1 : wd.toNat / 2 ^ 1 % 2 ^ 1 = 0x0 := part [_, _, _, _, _, _, _] he hf rfl rfl
  have g2 : wd.toNat / 2 ^ 4 % 2 ^ 2 = 0x3 := part [_, _, _, _, _] he hf rfl rfl
  rw [hc, read_barwait, fixed_cons g0, fixed_cons g1, fixed_cons g2, fixed_nil, q0, q1, q2, q3]

theorem read_barinit (xb : Ext) (wd : BitVec 32) : readQmem 0x12 xb wd =
    fixed wd [(0, 1, 0x0, 3), (1, 1, 0x0, 5), (4, 2, 0x3, 5)] (.barinit (fld wd 17 5) (fld wd 12 5) (fld wd 6 6) (fld wd 2 2) xb) := rfl

theorem Encodes.barinit (d b : BitVec 5) (i : BitVec 6) (c : BitVec 2) (x : Ext) : Encodes.Statement (.barinit d b i c x) := by
  refine Encodes.ofExt (f := fun xb => .barinit d b i c xb) (fun xb => ?_) (fun _ => rfl) x
  have hf : Fits [(4, 0x9), (6, 0x12), (5, d.toNat), (5, b.toNat), (6, i.toNat), (2, 0x3), (2, c.toNat), (1, 0x0), (1, 0x0)] :=
    ⟨by decide, by decide, d.isLt, b.isLt, i.isLt, by decide, c.isLt, by decide, by decide, trivial⟩
  have he := word_pack _ rfl hf
  generalize word [(4, 0x9), (6, 0x12), (5, d.toNat), (5, b.toNat), (6, i.toNat), (2, 0x3), (2, c.toNat), (1, 0x0), (1, 0x0)] = wd at *
  have q0 : fld wd 17 5 = d := fld_eq (part [_, _] he hf rfl rfl)
  have q1 : fld wd 12 5 = b := fld_eq (part [_, _, _] he hf rfl rfl)
  have q2 : fld wd 6 6 = i := fld_eq (part [_, _, _, _] he hf rfl rfl)
  have q3 : fld wd 2 2 = c := fld_eq (part [_, _, _, _, _, _] he hf rfl rfl)
  have hc : readSlot xb wd = readQmem 0x12 xb wd := slot_qmem (classOf he hf rfl) (part [_] he hf rfl rfl)
  have g0 : wd.toNat / 2 ^ 0 % 2 ^ 1 = 0x0 := part [_, _, _, _, _, _, _, _] he hf rfl rfl
  have g1 : wd.toNat / 2 ^ 1 % 2 ^ 1 = 0x0 := part [_, _, _, _, _, _, _] he hf rfl rfl
  have g2 : wd.toNat / 2 ^ 4 % 2 ^ 2 = 0x3 := part [_, _, _, _, _] he hf rfl rfl
  rw [hc, read_barinit, fixed_cons g0, fixed_cons g1, fixed_cons g2, fixed_nil, q0, q1, q2, q3]

theorem read_sfbind (xb : Ext) (wd : BitVec 32) : readFab 0x0 xb wd =
    plain xb wd [(1, 6, 0x0, 3), (7, 5, 0x0, 3)] (.sfbind (fld wd 17 5) (fld wd 12 5) (fld wd 0 1)) := rfl

theorem Encodes.sfbind (d a : BitVec 5) (y : BitVec 1) : Encodes.Statement (.sfbind d a y) := by
  refine Encodes.ofPlain (fun xb hu => ?_) rfl
  have hf : Fits [(4, 0xA), (6, 0x0), (5, d.toNat), (5, a.toNat), (5, 0x0), (6, 0x0), (1, y.toNat)] :=
    ⟨by decide, by decide, d.isLt, a.isLt, by decide, by decide, y.isLt, trivial⟩
  have he := word_pack _ rfl hf
  generalize word [(4, 0xA), (6, 0x0), (5, d.toNat), (5, a.toNat), (5, 0x0), (6, 0x0), (1, y.toNat)] = wd at *
  have q0 : fld wd 17 5 = d := fld_eq (part [_, _] he hf rfl rfl)
  have q1 : fld wd 12 5 = a := fld_eq (part [_, _, _] he hf rfl rfl)
  have q2 : fld wd 0 1 = y := fld_eq (part [_, _, _, _, _, _] he hf rfl rfl)
  have hc : readSlot xb wd = readFab 0x0 xb wd := slot_fab (classOf he hf rfl) (part [_] he hf rfl rfl)
  have g0 : wd.toNat / 2 ^ 1 % 2 ^ 6 = 0x0 := part [_, _, _, _, _] he hf rfl rfl
  have g1 : wd.toNat / 2 ^ 7 % 2 ^ 5 = 0x0 := part [_, _, _, _] he hf rfl rfl
  rw [hc, read_sfbind, plain_eq hu, fixed_cons g0, fixed_cons g1, fixed_nil, q0, q1, q2]

theorem read_sfgo (xb : Ext) (wd : BitVec 32) : readFab 0x1 xb wd =
    plain xb wd [(1, 6, 0x0, 3), (17, 5, 0x0, 3)] (.sfgo (fld wd 12 5) (fld wd 7 5) (fld wd 0 1)) := rfl

theorem Encodes.sfgo (a b : BitVec 5) (y : BitVec 1) : Encodes.Statement (.sfgo a b y) := by
  refine Encodes.ofPlain (fun xb hu => ?_) rfl
  have hf : Fits [(4, 0xA), (6, 0x1), (5, 0x0), (5, a.toNat), (5, b.toNat), (6, 0x0), (1, y.toNat)] :=
    ⟨by decide, by decide, by decide, a.isLt, b.isLt, by decide, y.isLt, trivial⟩
  have he := word_pack _ rfl hf
  generalize word [(4, 0xA), (6, 0x1), (5, 0x0), (5, a.toNat), (5, b.toNat), (6, 0x0), (1, y.toNat)] = wd at *
  have q0 : fld wd 12 5 = a := fld_eq (part [_, _, _] he hf rfl rfl)
  have q1 : fld wd 7 5 = b := fld_eq (part [_, _, _, _] he hf rfl rfl)
  have q2 : fld wd 0 1 = y := fld_eq (part [_, _, _, _, _, _] he hf rfl rfl)
  have hc : readSlot xb wd = readFab 0x1 xb wd := slot_fab (classOf he hf rfl) (part [_] he hf rfl rfl)
  have g0 : wd.toNat / 2 ^ 1 % 2 ^ 6 = 0x0 := part [_, _, _, _, _] he hf rfl rfl
  have g1 : wd.toNat / 2 ^ 17 % 2 ^ 5 = 0x0 := part [_, _] he hf rfl rfl
  rw [hc, read_sfgo, plain_eq hu, fixed_cons g0, fixed_cons g1, fixed_nil, q0, q1, q2]

theorem read_sfstat (xb : Ext) (wd : BitVec 32) : readFab 0x2 xb wd =
    plain xb wd [(3, 4, 0x0, 5), (7, 5, 0x0, 3)] (.sfstat (fld wd 17 5) (fld wd 12 5) (fld wd 0 3)) := rfl

theorem Encodes.sfstat (d a : BitVec 5) (s : BitVec 3) : Encodes.Statement (.sfstat d a s) := by
  refine Encodes.ofPlain (fun xb hu => ?_) rfl
  have hf : Fits [(4, 0xA), (6, 0x2), (5, d.toNat), (5, a.toNat), (5, 0x0), (4, 0x0), (3, s.toNat)] :=
    ⟨by decide, by decide, d.isLt, a.isLt, by decide, by decide, s.isLt, trivial⟩
  have he := word_pack _ rfl hf
  generalize word [(4, 0xA), (6, 0x2), (5, d.toNat), (5, a.toNat), (5, 0x0), (4, 0x0), (3, s.toNat)] = wd at *
  have q0 : fld wd 17 5 = d := fld_eq (part [_, _] he hf rfl rfl)
  have q1 : fld wd 12 5 = a := fld_eq (part [_, _, _] he hf rfl rfl)
  have q2 : fld wd 0 3 = s := fld_eq (part [_, _, _, _, _, _] he hf rfl rfl)
  have hc : readSlot xb wd = readFab 0x2 xb wd := slot_fab (classOf he hf rfl) (part [_] he hf rfl rfl)
  have g0 : wd.toNat / 2 ^ 3 % 2 ^ 4 = 0x0 := part [_, _, _, _, _] he hf rfl rfl
  have g1 : wd.toNat / 2 ^ 7 % 2 ^ 5 = 0x0 := part [_, _, _, _] he hf rfl rfl
  rw [hc, read_sfstat, plain_eq hu, fixed_cons g0, fixed_cons g1, fixed_nil, q0, q1, q2]

theorem read_sfrel (xb : Ext) (wd : BitVec 32) : readFab 0x3 xb wd =
    plain xb wd [(0, 7, 0x0, 3), (7, 5, 0x0, 3), (17, 5, 0x0, 3)] (.sfrel (fld wd 12 5)) := rfl

theorem Encodes.sfrel (a : BitVec 5) : Encodes.Statement (.sfrel a) := by
  refine Encodes.ofPlain (fun xb hu => ?_) rfl
  have hf : Fits [(4, 0xA), (6, 0x3), (5, 0x0), (5, a.toNat), (5, 0x0), (7, 0x0)] :=
    ⟨by decide, by decide, by decide, a.isLt, by decide, by decide, trivial⟩
  have he := word_pack _ rfl hf
  generalize word [(4, 0xA), (6, 0x3), (5, 0x0), (5, a.toNat), (5, 0x0), (7, 0x0)] = wd at *
  have q0 : fld wd 12 5 = a := fld_eq (part [_, _, _] he hf rfl rfl)
  have hc : readSlot xb wd = readFab 0x3 xb wd := slot_fab (classOf he hf rfl) (part [_] he hf rfl rfl)
  have g0 : wd.toNat / 2 ^ 0 % 2 ^ 7 = 0x0 := part [_, _, _, _, _] he hf rfl rfl
  have g1 : wd.toNat / 2 ^ 7 % 2 ^ 5 = 0x0 := part [_, _, _, _] he hf rfl rfl
  have g2 : wd.toNat / 2 ^ 17 % 2 ^ 5 = 0x0 := part [_, _] he hf rfl rfl
  rw [hc, read_sfrel, plain_eq hu, fixed_cons g0, fixed_cons g1, fixed_cons g2, fixed_nil, q0]

theorem read_sfmash (xb : Ext) (wd : BitVec 32) : readFab 0x4 xb wd =
    plain xb wd [(0, 7, 0x0, 3), (17, 5, 0x0, 3)] (.sfmash (fld wd 12 5) (fld wd 7 5)) := rfl

theorem Encodes.sfmash (a b : BitVec 5) : Encodes.Statement (.sfmash a b) := by
  refine Encodes.ofPlain (fun xb hu => ?_) rfl
  have hf : Fits [(4, 0xA), (6, 0x4), (5, 0x0), (5, a.toNat), (5, b.toNat), (7, 0x0)] :=
    ⟨by decide, by decide, by decide, a.isLt, b.isLt, by decide, trivial⟩
  have he := word_pack _ rfl hf
  generalize word [(4, 0xA), (6, 0x4), (5, 0x0), (5, a.toNat), (5, b.toNat), (7, 0x0)] = wd at *
  have q0 : fld wd 12 5 = a := fld_eq (part [_, _, _] he hf rfl rfl)
  have q1 : fld wd 7 5 = b := fld_eq (part [_, _, _, _] he hf rfl rfl)
  have hc : readSlot xb wd = readFab 0x4 xb wd := slot_fab (classOf he hf rfl) (part [_] he hf rfl rfl)
  have g0 : wd.toNat / 2 ^ 0 % 2 ^ 7 = 0x0 := part [_, _, _, _, _] he hf rfl rfl
  have g1 : wd.toNat / 2 ^ 17 % 2 ^ 5 = 0x0 := part [_, _] he hf rfl rfl
  rw [hc, read_sfmash, plain_eq hu, fixed_cons g0, fixed_cons g1, fixed_nil, q0, q1]

theorem read_qdim (xb : Ext) (wd : BitVec 32) : readFab 0x5 xb wd =
    plain xb wd [(7, 5, 0x0, 3), (17, 5, 0x0, 3)] (.qdim (fld wd 12 5) (fld wd 0 7)) := rfl

theorem Encodes.qdim (a : BitVec 5) (i : BitVec 7) : Encodes.Statement (.qdim a i) := by
  refine Encodes.ofPlain (fun xb hu => ?_) rfl
  have hf : Fits [(4, 0xA), (6, 0x5), (5, 0x0), (5, a.toNat), (5, 0x0), (7, i.toNat)] :=
    ⟨by decide, by decide, by decide, a.isLt, by decide, i.isLt, trivial⟩
  have he := word_pack _ rfl hf
  generalize word [(4, 0xA), (6, 0x5), (5, 0x0), (5, a.toNat), (5, 0x0), (7, i.toNat)] = wd at *
  have q0 : fld wd 12 5 = a := fld_eq (part [_, _, _] he hf rfl rfl)
  have q1 : fld wd 0 7 = i := fld_eq (part [_, _, _, _, _] he hf rfl rfl)
  have hc : readSlot xb wd = readFab 0x5 xb wd := slot_fab (classOf he hf rfl) (part [_] he hf rfl rfl)
  have g0 : wd.toNat / 2 ^ 7 % 2 ^ 5 = 0x0 := part [_, _, _, _] he hf rfl rfl
  have g1 : wd.toNat / 2 ^ 17 % 2 ^ 5 = 0x0 := part [_, _] he hf rfl rfl
  rw [hc, read_qdim, plain_eq hu, fixed_cons g0, fixed_cons g1, fixed_nil, q0, q1]

theorem read_qidx (xb : Ext) (wd : BitVec 32) : readFab 0x6 xb wd =
    plain xb wd [(1, 6, 0x0, 5), (17, 5, 0x0, 3)] (.qidx (fld wd 12 5) (fld wd 7 5) (fld wd 0 1)) := rfl

theorem Encodes.qidx (a b : BitVec 5) (y : BitVec 1) : Encodes.Statement (.qidx a b y) := by
  refine Encodes.ofPlain (fun xb hu => ?_) rfl
  have hf : Fits [(4, 0xA), (6, 0x6), (5, 0x0), (5, a.toNat), (5, b.toNat), (6, 0x0), (1, y.toNat)] :=
    ⟨by decide, by decide, by decide, a.isLt, b.isLt, by decide, y.isLt, trivial⟩
  have he := word_pack _ rfl hf
  generalize word [(4, 0xA), (6, 0x6), (5, 0x0), (5, a.toNat), (5, b.toNat), (6, 0x0), (1, y.toNat)] = wd at *
  have q0 : fld wd 12 5 = a := fld_eq (part [_, _, _] he hf rfl rfl)
  have q1 : fld wd 7 5 = b := fld_eq (part [_, _, _, _] he hf rfl rfl)
  have q2 : fld wd 0 1 = y := fld_eq (part [_, _, _, _, _, _] he hf rfl rfl)
  have hc : readSlot xb wd = readFab 0x6 xb wd := slot_fab (classOf he hf rfl) (part [_] he hf rfl rfl)
  have g0 : wd.toNat / 2 ^ 1 % 2 ^ 6 = 0x0 := part [_, _, _, _, _] he hf rfl rfl
  have g1 : wd.toNat / 2 ^ 17 % 2 ^ 5 = 0x0 := part [_, _] he hf rfl rfl
  rw [hc, read_qidx, plain_eq hu, fixed_cons g0, fixed_cons g1, fixed_nil, q0, q1, q2]

theorem read_qstr (xb : Ext) (wd : BitVec 32) : readFab 0x7 xb wd =
    plain xb wd [(0, 7, 0x0, 3), (7, 5, 0x0, 3), (17, 5, 0x0, 3)] (.qstr (fld wd 12 5)) := rfl

theorem Encodes.qstr (a : BitVec 5) : Encodes.Statement (.qstr a) := by
  refine Encodes.ofPlain (fun xb hu => ?_) rfl
  have hf : Fits [(4, 0xA), (6, 0x7), (5, 0x0), (5, a.toNat), (5, 0x0), (7, 0x0)] :=
    ⟨by decide, by decide, by decide, a.isLt, by decide, by decide, trivial⟩
  have he := word_pack _ rfl hf
  generalize word [(4, 0xA), (6, 0x7), (5, 0x0), (5, a.toNat), (5, 0x0), (7, 0x0)] = wd at *
  have q0 : fld wd 12 5 = a := fld_eq (part [_, _, _] he hf rfl rfl)
  have hc : readSlot xb wd = readFab 0x7 xb wd := slot_fab (classOf he hf rfl) (part [_] he hf rfl rfl)
  have g0 : wd.toNat / 2 ^ 0 % 2 ^ 7 = 0x0 := part [_, _, _, _, _] he hf rfl rfl
  have g1 : wd.toNat / 2 ^ 7 % 2 ^ 5 = 0x0 := part [_, _, _, _] he hf rfl rfl
  have g2 : wd.toNat / 2 ^ 17 % 2 ^ 5 = 0x0 := part [_, _] he hf rfl rfl
  rw [hc, read_qstr, plain_eq hu, fixed_cons g0, fixed_cons g1, fixed_cons g2, fixed_nil, q0]

theorem read_qgen (xb : Ext) (wd : BitVec 32) : readFab 0x8 xb wd =
    plain xb wd [(2, 5, 0x0, 5), (7, 5, 0x0, 3), (12, 5, 0x0, 3), (17, 5, 0x0, 3)] (.qgen (fld wd 1 1) (fld wd 0 1)) := rfl

theorem Encodes.qgen (h f : BitVec 1) : Encodes.Statement (.qgen h f) := by
  refine Encodes.ofPlain (fun xb hu => ?_) rfl
  have hf : Fits [(4, 0xA), (6, 0x8), (5, 0x0), (5, 0x0), (5, 0x0), (5, 0x0), (1, h.toNat), (1, f.toNat)] :=
    ⟨by decide, by decide, by decide, by decide, by decide, by decide, h.isLt, f.isLt, trivial⟩
  have he := word_pack _ rfl hf
  generalize word [(4, 0xA), (6, 0x8), (5, 0x0), (5, 0x0), (5, 0x0), (5, 0x0), (1, h.toNat), (1, f.toNat)] = wd at *
  have q0 : fld wd 1 1 = h := fld_eq (part [_, _, _, _, _, _] he hf rfl rfl)
  have q1 : fld wd 0 1 = f := fld_eq (part [_, _, _, _, _, _, _] he hf rfl rfl)
  have hc : readSlot xb wd = readFab 0x8 xb wd := slot_fab (classOf he hf rfl) (part [_] he hf rfl rfl)
  have g0 : wd.toNat / 2 ^ 2 % 2 ^ 5 = 0x0 := part [_, _, _, _, _] he hf rfl rfl
  have g1 : wd.toNat / 2 ^ 7 % 2 ^ 5 = 0x0 := part [_, _, _, _] he hf rfl rfl
  have g2 : wd.toNat / 2 ^ 12 % 2 ^ 5 = 0x0 := part [_, _, _] he hf rfl rfl
  have g3 : wd.toNat / 2 ^ 17 % 2 ^ 5 = 0x0 := part [_, _] he hf rfl rfl
  rw [hc, read_qgen, plain_eq hu, fixed_cons g0, fixed_cons g1, fixed_cons g2, fixed_cons g3, fixed_nil, q0, q1]

theorem read_qgenv (xb : Ext) (wd : BitVec 32) : readFab 0x9 xb wd =
    plain xb wd [(2, 5, 0x0, 5), (7, 5, 0x0, 3), (12, 5, 0x0, 3), (17, 5, 0x0, 3)] (.qgenv (fld wd 1 1) (fld wd 0 1)) := rfl

theorem Encodes.qgenv (h f : BitVec 1) : Encodes.Statement (.qgenv h f) := by
  refine Encodes.ofPlain (fun xb hu => ?_) rfl
  have hf : Fits [(4, 0xA), (6, 0x9), (5, 0x0), (5, 0x0), (5, 0x0), (5, 0x0), (1, h.toNat), (1, f.toNat)] :=
    ⟨by decide, by decide, by decide, by decide, by decide, by decide, h.isLt, f.isLt, trivial⟩
  have he := word_pack _ rfl hf
  generalize word [(4, 0xA), (6, 0x9), (5, 0x0), (5, 0x0), (5, 0x0), (5, 0x0), (1, h.toNat), (1, f.toNat)] = wd at *
  have q0 : fld wd 1 1 = h := fld_eq (part [_, _, _, _, _, _] he hf rfl rfl)
  have q1 : fld wd 0 1 = f := fld_eq (part [_, _, _, _, _, _, _] he hf rfl rfl)
  have hc : readSlot xb wd = readFab 0x9 xb wd := slot_fab (classOf he hf rfl) (part [_] he hf rfl rfl)
  have g0 : wd.toNat / 2 ^ 2 % 2 ^ 5 = 0x0 := part [_, _, _, _, _] he hf rfl rfl
  have g1 : wd.toNat / 2 ^ 7 % 2 ^ 5 = 0x0 := part [_, _, _, _] he hf rfl rfl
  have g2 : wd.toNat / 2 ^ 12 % 2 ^ 5 = 0x0 := part [_, _, _] he hf rfl rfl
  have g3 : wd.toNat / 2 ^ 17 % 2 ^ 5 = 0x0 := part [_, _] he hf rfl rfl
  rw [hc, read_qgenv, plain_eq hu, fixed_cons g0, fixed_cons g1, fixed_cons g2, fixed_cons g3, fixed_nil, q0, q1]

theorem read_qdir (xb : Ext) (wd : BitVec 32) : readFab 0xA xb wd =
    plain xb wd [(5, 2, 0x0, 5), (7, 5, 0x0, 3), (17, 5, 0x0, 3)] (.qdir (fld wd 12 5) (fld wd 0 5)) := rfl

theorem Encodes.qdir (a j : BitVec 5) : Encodes.Statement (.qdir a j) := by
  refine Encodes.ofPlain (fun xb hu => ?_) rfl
  have hf : Fits [(4, 0xA), (6, 0xA), (5, 0x0), (5, a.toNat), (5, 0x0), (2, 0x0), (5, j.toNat)] :=
    ⟨by decide, by decide, by decide, a.isLt, by decide, by decide, j.isLt, trivial⟩
  have he := word_pack _ rfl hf
  generalize word [(4, 0xA), (6, 0xA), (5, 0x0), (5, a.toNat), (5, 0x0), (2, 0x0), (5, j.toNat)] = wd at *
  have q0 : fld wd 12 5 = a := fld_eq (part [_, _, _] he hf rfl rfl)
  have q1 : fld wd 0 5 = j := fld_eq (part [_, _, _, _, _, _] he hf rfl rfl)
  have hc : readSlot xb wd = readFab 0xA xb wd := slot_fab (classOf he hf rfl) (part [_] he hf rfl rfl)
  have g0 : wd.toNat / 2 ^ 5 % 2 ^ 2 = 0x0 := part [_, _, _, _, _] he hf rfl rfl
  have g1 : wd.toNat / 2 ^ 7 % 2 ^ 5 = 0x0 := part [_, _, _, _] he hf rfl rfl
  have g2 : wd.toNat / 2 ^ 17 % 2 ^ 5 = 0x0 := part [_, _] he hf rfl rfl
  rw [hc, read_qdir, plain_eq hu, fixed_cons g0, fixed_cons g1, fixed_cons g2, fixed_nil, q0, q1]

theorem read_qscr (xb : Ext) (wd : BitVec 32) (hb : fld wd 5 1 = 0) : readFab 0xB xb wd =
    plain xb wd [(5, 2, 0x0, 5), (7, 5, 0x0, 3), (17, 5, 0x0, 3)] (.qscr (fld wd 12 5) (fld wd 0 5)) := if_neg (by rw [hb]; decide)

theorem Encodes.qscr (a i : BitVec 5) : Encodes.Statement (.qscr a i) := by
  refine Encodes.ofPlain (fun xb hu => ?_) rfl
  have hf : Fits [(4, 0xA), (6, 0xB), (5, 0x0), (5, a.toNat), (5, 0x0), (2, 0x0), (5, i.toNat)] :=
    ⟨by decide, by decide, by decide, a.isLt, by decide, by decide, i.isLt, trivial⟩
  have he := word_pack _ rfl hf
  generalize word [(4, 0xA), (6, 0xB), (5, 0x0), (5, a.toNat), (5, 0x0), (2, 0x0), (5, i.toNat)] = wd at *
  have q0 : fld wd 12 5 = a := fld_eq (part [_, _, _] he hf rfl rfl)
  have q1 : fld wd 0 5 = i := fld_eq (part [_, _, _, _, _, _] he hf rfl rfl)
  have hc : readSlot xb wd = readFab 0xB xb wd := slot_fab (classOf he hf rfl) (part [_] he hf rfl rfl)
  have hg : wd.toNat / 2 ^ 5 % 2 ^ 2 = 0x0 := part [_, _, _, _, _] he hf rfl rfl
  have hb : fld wd 5 1 = 0 := fld_eq (by rw [show (0 : BitVec 1).toNat = 0 from rfl]; omega)
  have g0 : wd.toNat / 2 ^ 5 % 2 ^ 2 = 0x0 := part [_, _, _, _, _] he hf rfl rfl
  have g1 : wd.toNat / 2 ^ 7 % 2 ^ 5 = 0x0 := part [_, _, _, _] he hf rfl rfl
  have g2 : wd.toNat / 2 ^ 17 % 2 ^ 5 = 0x0 := part [_, _] he hf rfl rfl
  rw [hc, read_qscr xb wd hb, plain_eq hu, fixed_cons g0, fixed_cons g1, fixed_cons g2, fixed_nil, q0, q1]

theorem read_qscrShift (xb : Ext) (wd : BitVec 32) (hb : fld wd 5 1 = 1) : readFab 0xB xb wd =
    plain xb wd [(0, 7, 0x20, 5), (7, 5, 0x0, 3), (17, 5, 0x0, 3)] (.qscrShift (fld wd 12 5)) := if_pos hb

theorem Encodes.qscrShift (a : BitVec 5) : Encodes.Statement (.qscrShift a) := by
  refine Encodes.ofPlain (fun xb hu => ?_) rfl
  have hf : Fits [(4, 0xA), (6, 0xB), (5, 0x0), (5, a.toNat), (5, 0x0), (7, 0x20)] :=
    ⟨by decide, by decide, by decide, a.isLt, by decide, by decide, trivial⟩
  have he := word_pack _ rfl hf
  generalize word [(4, 0xA), (6, 0xB), (5, 0x0), (5, a.toNat), (5, 0x0), (7, 0x20)] = wd at *
  have q0 : fld wd 12 5 = a := fld_eq (part [_, _, _] he hf rfl rfl)
  have hc : readSlot xb wd = readFab 0xB xb wd := slot_fab (classOf he hf rfl) (part [_] he hf rfl rfl)
  have hg : wd.toNat / 2 ^ 0 % 2 ^ 7 = 0x20 := part [_, _, _, _, _] he hf rfl rfl
  have hb : fld wd 5 1 = 1 := fld_eq (by rw [show (1 : BitVec 1).toNat = 1 from rfl]; omega)
  have g0 : wd.toNat / 2 ^ 0 % 2 ^ 7 = 0x20 := part [_, _, _, _, _] he hf rfl rfl
  have g1 : wd.toNat / 2 ^ 7 % 2 ^ 5 = 0x0 := part [_, _, _, _] he hf rfl rfl
  have g2 : wd.toNat / 2 ^ 17 % 2 ^ 5 = 0x0 := part [_, _] he hf rfl rfl
  rw [hc, read_qscrShift xb wd hb, plain_eq hu, fixed_cons g0, fixed_cons g1, fixed_cons g2, fixed_nil, q0]

theorem read_qsave (xb : Ext) (wd : BitVec 32) : readFab 0xC xb wd =
    plain xb wd [(0, 7, 0x0, 3)] (.qsave (fld wd 17 5) (fld wd 12 5) (fld wd 7 5)) := rfl

theorem Encodes.qsave (d a b : BitVec 5) : Encodes.Statement (.qsave d a b) := by
  refine Encodes.ofPlain (fun xb hu => ?_) rfl
  have hf : Fits [(4, 0xA), (6, 0xC), (5, d.toNat), (5, a.toNat), (5, b.toNat), (7, 0x0)] :=
    ⟨by decide, by decide, d.isLt, a.isLt, b.isLt, by decide, trivial⟩
  have he := word_pack _ rfl hf
  generalize word [(4, 0xA), (6, 0xC), (5, d.toNat), (5, a.toNat), (5, b.toNat), (7, 0x0)] = wd at *
  have q0 : fld wd 17 5 = d := fld_eq (part [_, _] he hf rfl rfl)
  have q1 : fld wd 12 5 = a := fld_eq (part [_, _, _] he hf rfl rfl)
  have q2 : fld wd 7 5 = b := fld_eq (part [_, _, _, _] he hf rfl rfl)
  have hc : readSlot xb wd = readFab 0xC xb wd := slot_fab (classOf he hf rfl) (part [_] he hf rfl rfl)
  have g0 : wd.toNat / 2 ^ 0 % 2 ^ 7 = 0x0 := part [_, _, _, _, _] he hf rfl rfl
  rw [hc, read_qsave, plain_eq hu, fixed_cons g0, fixed_nil, q0, q1, q2]

theorem read_qload (xb : Ext) (wd : BitVec 32) : readFab 0xD xb wd =
    plain xb wd [(0, 7, 0x0, 3)] (.qload (fld wd 17 5) (fld wd 12 5) (fld wd 7 5)) := rfl

theorem Encodes.qload (d a b : BitVec 5) : Encodes.Statement (.qload d a b) := by
  refine Encodes.ofPlain (fun xb hu => ?_) rfl
  have hf : Fits [(4, 0xA), (6, 0xD), (5, d.toNat), (5, a.toNat), (5, b.toNat), (7, 0x0)] :=
    ⟨by decide, by decide, d.isLt, a.isLt, b.isLt, by decide, trivial⟩
  have he := word_pack _ rfl hf
  generalize word [(4, 0xA), (6, 0xD), (5, d.toNat), (5, a.toNat), (5, b.toNat), (7, 0x0)] = wd at *
  have q0 : fld wd 17 5 = d := fld_eq (part [_, _] he hf rfl rfl)
  have q1 : fld wd 12 5 = a := fld_eq (part [_, _, _] he hf rfl rfl)
  have q2 : fld wd 7 5 = b := fld_eq (part [_, _, _, _] he hf rfl rfl)
  have hc : readSlot xb wd = readFab 0xD xb wd := slot_fab (classOf he hf rfl) (part [_] he hf rfl rfl)
  have g0 : wd.toNat / 2 ^ 0 % 2 ^ 7 = 0x0 := part [_, _, _, _, _] he hf rfl rfl
  rw [hc, read_qload, plain_eq hu, fixed_cons g0, fixed_nil, q0, q1, q2]

theorem read_klaunch (xb : Ext) (wd : BitVec 32) : readGraph 0x0 xb wd =
    plain xb wd [(1, 6, 0x0, 5), (7, 5, 0x0, 3), (17, 5, 0x0, 3)] (.klaunch (fld wd 12 5) (fld wd 0 1)) := rfl

theorem Encodes.klaunch (a : BitVec 5) (y : BitVec 1) : Encodes.Statement (.klaunch a y) := by
  refine Encodes.ofPlain (fun xb hu => ?_) rfl
  have hf : Fits [(4, 0xB), (6, 0x0), (5, 0x0), (5, a.toNat), (5, 0x0), (6, 0x0), (1, y.toNat)] :=
    ⟨by decide, by decide, by decide, a.isLt, by decide, by decide, y.isLt, trivial⟩
  have he := word_pack _ rfl hf
  generalize word [(4, 0xB), (6, 0x0), (5, 0x0), (5, a.toNat), (5, 0x0), (6, 0x0), (1, y.toNat)] = wd at *
  have q0 : fld wd 12 5 = a := fld_eq (part [_, _, _] he hf rfl rfl)
  have q1 : fld wd 0 1 = y := fld_eq (part [_, _, _, _, _, _] he hf rfl rfl)
  have hc : readSlot xb wd = readGraph 0x0 xb wd := slot_graph (classOf he hf rfl) (part [_] he hf rfl rfl)
  have g0 : wd.toNat / 2 ^ 1 % 2 ^ 6 = 0x0 := part [_, _, _, _, _] he hf rfl rfl
  have g1 : wd.toNat / 2 ^ 7 % 2 ^ 5 = 0x0 := part [_, _, _, _] he hf rfl rfl
  have g2 : wd.toNat / 2 ^ 17 % 2 ^ 5 = 0x0 := part [_, _] he hf rfl rfl
  rw [hc, read_klaunch, plain_eq hu, fixed_cons g0, fixed_cons g1, fixed_cons g2, fixed_nil, q0, q1]

theorem read_klaunchc (xb : Ext) (wd : BitVec 32) : readGraph 0x1 xb wd =
    plain xb wd [(1, 6, 0x0, 5), (17, 5, 0x0, 3)] (.klaunchc (fld wd 12 5) (fld wd 7 5) (fld wd 0 1)) := rfl

theorem Encodes.klaunchc (a b : BitVec 5) (y : BitVec 1) : Encodes.Statement (.klaunchc a b y) := by
  refine Encodes.ofPlain (fun xb hu => ?_) rfl
  have hf : Fits [(4, 0xB), (6, 0x1), (5, 0x0), (5, a.toNat), (5, b.toNat), (6, 0x0), (1, y.toNat)] :=
    ⟨by decide, by decide, by decide, a.isLt, b.isLt, by decide, y.isLt, trivial⟩
  have he := word_pack _ rfl hf
  generalize word [(4, 0xB), (6, 0x1), (5, 0x0), (5, a.toNat), (5, b.toNat), (6, 0x0), (1, y.toNat)] = wd at *
  have q0 : fld wd 12 5 = a := fld_eq (part [_, _, _] he hf rfl rfl)
  have q1 : fld wd 7 5 = b := fld_eq (part [_, _, _, _] he hf rfl rfl)
  have q2 : fld wd 0 1 = y := fld_eq (part [_, _, _, _, _, _] he hf rfl rfl)
  have hc : readSlot xb wd = readGraph 0x1 xb wd := slot_graph (classOf he hf rfl) (part [_] he hf rfl rfl)
  have g0 : wd.toNat / 2 ^ 1 % 2 ^ 6 = 0x0 := part [_, _, _, _, _] he hf rfl rfl
  have g1 : wd.toNat / 2 ^ 17 % 2 ^ 5 = 0x0 := part [_, _] he hf rfl rfl
  rw [hc, read_klaunchc, plain_eq hu, fixed_cons g0, fixed_cons g1, fixed_nil, q0, q1, q2]

theorem read_gsig (xb : Ext) (wd : BitVec 32) : readGraph 0x2 xb wd =
    plain xb wd [(0, 7, 0x0, 3), (17, 5, 0x0, 3)] (.gsig (fld wd 12 5) (fld wd 7 5)) := rfl

theorem Encodes.gsig (a b : BitVec 5) : Encodes.Statement (.gsig a b) := by
  refine Encodes.ofPlain (fun xb hu => ?_) rfl
  have hf : Fits [(4, 0xB), (6, 0x2), (5, 0x0), (5, a.toNat), (5, b.toNat), (7, 0x0)] :=
    ⟨by decide, by decide, by decide, a.isLt, b.isLt, by decide, trivial⟩
  have he := word_pack _ rfl hf
  generalize word [(4, 0xB), (6, 0x2), (5, 0x0), (5, a.toNat), (5, b.toNat), (7, 0x0)] = wd at *
  have q0 : fld wd 12 5 = a := fld_eq (part [_, _, _] he hf rfl rfl)
  have q1 : fld wd 7 5 = b := fld_eq (part [_, _, _, _] he hf rfl rfl)
  have hc : readSlot xb wd = readGraph 0x2 xb wd := slot_graph (classOf he hf rfl) (part [_] he hf rfl rfl)
  have g0 : wd.toNat / 2 ^ 0 % 2 ^ 7 = 0x0 := part [_, _, _, _, _] he hf rfl rfl
  have g1 : wd.toNat / 2 ^ 17 % 2 ^ 5 = 0x0 := part [_, _] he hf rfl rfl
  rw [hc, read_gsig, plain_eq hu, fixed_cons g0, fixed_cons g1, fixed_nil, q0, q1]

theorem read_qsync (xb : Ext) (wd : BitVec 32) : readGraph 0x4 xb wd =
    plain xb wd [(0, 7, 0x0, 3), (7, 5, 0x0, 3), (12, 5, 0x0, 3)] (.qsync (fld wd 17 5)) := rfl

theorem Encodes.qsync (d : BitVec 5) : Encodes.Statement (.qsync d) := by
  refine Encodes.ofPlain (fun xb hu => ?_) rfl
  have hf : Fits [(4, 0xB), (6, 0x4), (5, d.toNat), (5, 0x0), (5, 0x0), (7, 0x0)] :=
    ⟨by decide, by decide, d.isLt, by decide, by decide, by decide, trivial⟩
  have he := word_pack _ rfl hf
  generalize word [(4, 0xB), (6, 0x4), (5, d.toNat), (5, 0x0), (5, 0x0), (7, 0x0)] = wd at *
  have q0 : fld wd 17 5 = d := fld_eq (part [_, _] he hf rfl rfl)
  have hc : readSlot xb wd = readGraph 0x4 xb wd := slot_graph (classOf he hf rfl) (part [_] he hf rfl rfl)
  have g0 : wd.toNat / 2 ^ 0 % 2 ^ 7 = 0x0 := part [_, _, _, _, _] he hf rfl rfl
  have g1 : wd.toNat / 2 ^ 7 % 2 ^ 5 = 0x0 := part [_, _, _, _] he hf rfl rfl
  have g2 : wd.toNat / 2 ^ 12 % 2 ^ 5 = 0x0 := part [_, _, _] he hf rfl rfl
  rw [hc, read_qsync, plain_eq hu, fixed_cons g0, fixed_cons g1, fixed_cons g2, fixed_nil, q0]

theorem read_gprio (xb : Ext) (wd : BitVec 32) : readGraph 0x5 xb wd =
    plain xb wd [(0, 7, 0x0, 3), (7, 5, 0x0, 3), (17, 5, 0x0, 3)] (.gprio (fld wd 12 5)) := rfl

theorem Encodes.gprio (a : BitVec 5) : Encodes.Statement (.gprio a) := by
  refine Encodes.ofPlain (fun xb hu => ?_) rfl
  have hf : Fits [(4, 0xB), (6, 0x5), (5, 0x0), (5, a.toNat), (5, 0x0), (7, 0x0)] :=
    ⟨by decide, by decide, by decide, a.isLt, by decide, by decide, trivial⟩
  have he := word_pack _ rfl hf
  generalize word [(4, 0xB), (6, 0x5), (5, 0x0), (5, a.toNat), (5, 0x0), (7, 0x0)] = wd at *
  have q0 : fld wd 12 5 = a := fld_eq (part [_, _, _] he hf rfl rfl)
  have hc : readSlot xb wd = readGraph 0x5 xb wd := slot_graph (classOf he hf rfl) (part [_] he hf rfl rfl)
  have g0 : wd.toNat / 2 ^ 0 % 2 ^ 7 = 0x0 := part [_, _, _, _, _] he hf rfl rfl
  have g1 : wd.toNat / 2 ^ 7 % 2 ^ 5 = 0x0 := part [_, _, _, _] he hf rfl rfl
  have g2 : wd.toNat / 2 ^ 17 % 2 ^ 5 = 0x0 := part [_, _] he hf rfl rfl
  rw [hc, read_gprio, plain_eq hu, fixed_cons g0, fixed_cons g1, fixed_cons g2, fixed_nil, q0]

theorem read_garg (xb : Ext) (wd : BitVec 32) : readGraph 0x6 xb wd =
    plain xb wd [(7, 5, 0x0, 3), (12, 5, 0x0, 3)] (.garg (fld wd 17 5) (fld wd 0 7)) := rfl

theorem Encodes.garg (d : BitVec 5) (i : BitVec 7) : Encodes.Statement (.garg d i) := by
  refine Encodes.ofPlain (fun xb hu => ?_) rfl
  have hf : Fits [(4, 0xB), (6, 0x6), (5, d.toNat), (5, 0x0), (5, 0x0), (7, i.toNat)] :=
    ⟨by decide, by decide, d.isLt, by decide, by decide, i.isLt, trivial⟩
  have he := word_pack _ rfl hf
  generalize word [(4, 0xB), (6, 0x6), (5, d.toNat), (5, 0x0), (5, 0x0), (7, i.toNat)] = wd at *
  have q0 : fld wd 17 5 = d := fld_eq (part [_, _] he hf rfl rfl)
  have q1 : fld wd 0 7 = i := fld_eq (part [_, _, _, _, _] he hf rfl rfl)
  have hc : readSlot xb wd = readGraph 0x6 xb wd := slot_graph (classOf he hf rfl) (part [_] he hf rfl rfl)
  have g0 : wd.toNat / 2 ^ 7 % 2 ^ 5 = 0x0 := part [_, _, _, _] he hf rfl rfl
  have g1 : wd.toNat / 2 ^ 12 % 2 ^ 5 = 0x0 := part [_, _, _] he hf rfl rfl
  rw [hc, read_garg, plain_eq hu, fixed_cons g0, fixed_cons g1, fixed_nil, q0, q1]

theorem Encodes.boot (inp : BootInput) : Encodes.Statement (.boot inp) :=
  Encodes.ofEvent rfl
theorem Encodes.imageFetch (kind : BitVec 8) (img : List Byte) : Encodes.Statement (.imageFetch kind img) :=
  Encodes.ofEvent rfl
theorem Encodes.decodeTableReload (die : Nat) (img : List Byte) : Encodes.Statement (.decodeTableReload die img) :=
  Encodes.ofEvent rfl
theorem Encodes.floorRequest (post : Option FloorReq) : Encodes.Statement (.floorRequest post) :=
  Encodes.ofEvent rfl
theorem Encodes.codeScan (ctx : Nat) (va : Nat) : Encodes.Statement (.codeScan ctx va) :=
  Encodes.ofEvent rfl
theorem Encodes.folioLoad (folio : FolioImage) : Encodes.Statement (.folioLoad folio) :=
  Encodes.ofEvent rfl
theorem Encodes.tlbInvalidation (ctx : Nat) (va : Nat) (len : Nat) : Encodes.Statement (.tlbInvalidation ctx va len) :=
  Encodes.ofEvent rfl
theorem Encodes.contextDigestReport (ctx : Nat) : Encodes.Statement (.contextDigestReport ctx) :=
  Encodes.ofEvent rfl
theorem Encodes.doorbellWrite (fn : Nat) (tail : BitVec 16) : Encodes.Statement (.doorbellWrite fn tail) :=
  Encodes.ofEvent rfl
theorem Encodes.cqheadWrite (fn : Nat) (head : BitVec 16) : Encodes.Statement (.cqheadWrite fn head) :=
  Encodes.ofEvent rfl
theorem Encodes.registerWrite (fn : Nat) (off : Nat) (val : BitVec 64) : Encodes.Statement (.registerWrite fn off val) :=
  Encodes.ofEvent rfl
theorem Encodes.hostBar2Write (fn : Nat) (va : Nat) (data : List Byte) : Encodes.Statement (.hostBar2Write fn va data) :=
  Encodes.ofEvent rfl
theorem Encodes.hostBar2Read (fn : Nat) (va : Nat) (len : Nat) : Encodes.Statement (.hostBar2Read fn va len) :=
  Encodes.ofEvent rfl
theorem Encodes.schedulerDecision : Encodes.Statement .schedulerDecision :=
  Encodes.ofEvent rfl
theorem Encodes.priorityAging : Encodes.Statement .priorityAging :=
  Encodes.ofEvent rfl
theorem Encodes.condNodeComplete (id : Nat) : Encodes.Statement (.condNodeComplete id) :=
  Encodes.ofEvent rfl
theorem Encodes.copyNodeComplete (id : Nat) : Encodes.Statement (.copyNodeComplete id) :=
  Encodes.ofEvent rfl
theorem Encodes.preemptFreeze (t : Nat) : Encodes.Statement (.preemptFreeze t) :=
  Encodes.ofEvent rfl
theorem Encodes.preemptSave (t : Nat) : Encodes.Statement (.preemptSave t) :=
  Encodes.ofEvent rfl
theorem Encodes.taskEndCloses (t : Nat) : Encodes.Statement (.taskEndCloses t) :=
  Encodes.ofEvent rfl
theorem Encodes.taskEnd (t : Nat) : Encodes.Statement (.taskEnd t) :=
  Encodes.ofEvent rfl
theorem Encodes.kernelNodeComplete (t : Nat) : Encodes.Statement (.kernelNodeComplete t) :=
  Encodes.ofEvent rfl
theorem Encodes.nowLaunchArrival (t : Nat) (id : Nat) : Encodes.Statement (.nowLaunchArrival t id) :=
  Encodes.ofEvent rfl
theorem Encodes.qsyncComplete (t : Nat) (id : Nat) : Encodes.Statement (.qsyncComplete t id) :=
  Encodes.ofEvent rfl
theorem Encodes.wheelGroupIssue (t : Nat) : Encodes.Statement (.wheelGroupIssue t) :=
  Encodes.ofEvent rfl
theorem Encodes.powerGateExit (t : Nat) : Encodes.Statement (.powerGateExit t) :=
  Encodes.ofEvent rfl
theorem Encodes.engineCommandStart (t : Nat) (c : Nat) (e : Nat) : Encodes.Statement (.engineCommandStart t c e) :=
  Encodes.ofEvent rfl
theorem Encodes.copyPerform (t : Nat) (c : Nat) (e : Nat) : Encodes.Statement (.copyPerform t c e) :=
  Encodes.ofEvent rfl
theorem Encodes.copySuspend (t : Nat) (c : Nat) (e : Nat) : Encodes.Statement (.copySuspend t c e) :=
  Encodes.ofEvent rfl
theorem Encodes.sequenceEnginePerform (t : Nat) (c : Nat) : Encodes.Statement (.sequenceEnginePerform t c) :=
  Encodes.ofEvent rfl
theorem Encodes.timedWritePerform (t : Nat) (id : Nat) : Encodes.Statement (.timedWritePerform t id) :=
  Encodes.ofEvent rfl
theorem Encodes.walkerLeafWritePerform (t : Nat) (id : Nat) : Encodes.Statement (.walkerLeafWritePerform t id) :=
  Encodes.ofEvent rfl
theorem Encodes.wbfillComplete (t : Nat) (c : Nat) (id : Nat) : Encodes.Statement (.wbfillComplete t c id) :=
  Encodes.ofEvent rfl
theorem Encodes.planeLoadComplete (t : Nat) (c : Nat) (id : Nat) : Encodes.Statement (.planeLoadComplete t c id) :=
  Encodes.ofEvent rfl
theorem Encodes.mmaInputStart (t : Nat) (c : Nat) (id : Nat) : Encodes.Statement (.mmaInputStart t c id) :=
  Encodes.ofEvent rfl
theorem Encodes.mmaRowPerform (t : Nat) (c : Nat) (id : Nat) : Encodes.Statement (.mmaRowPerform t c id) :=
  Encodes.ofEvent rfl
theorem Encodes.accumulatorWritePerform (t : Nat) (c : Nat) (id : Nat) : Encodes.Statement (.accumulatorWritePerform t c id) :=
  Encodes.ofEvent rfl
theorem Encodes.tableOperationPerform (t : Nat) (id : Nat) : Encodes.Statement (.tableOperationPerform t id) :=
  Encodes.ofEvent rfl
theorem Encodes.headCloseTableWrite (t : Nat) (id : Nat) : Encodes.Statement (.headCloseTableWrite t id) :=
  Encodes.ofEvent rfl
theorem Encodes.headWritePerform (t : Nat) (id : Nat) : Encodes.Statement (.headWritePerform t id) :=
  Encodes.ofEvent rfl
theorem Encodes.hwaitComplete (t : Nat) (id : Nat) : Encodes.Statement (.hwaitComplete t id) :=
  Encodes.ofEvent rfl
theorem Encodes.headRefillFetch (t : Nat) : Encodes.Statement (.headRefillFetch t) :=
  Encodes.ofEvent rfl
theorem Encodes.sfbindPerform (t : Nat) (id : Nat) : Encodes.Statement (.sfbindPerform t id) :=
  Encodes.ofEvent rfl
theorem Encodes.streamRunPerform (t : Nat) (c : Nat) : Encodes.Statement (.streamRunPerform t c) :=
  Encodes.ofEvent rfl
theorem Encodes.sfrelPerform (t : Nat) (id : Nat) : Encodes.Statement (.sfrelPerform t id) :=
  Encodes.ofEvent rfl
theorem Encodes.streamDeadlineFault (t : Nat) (c : Nat) (e : Nat) : Encodes.Statement (.streamDeadlineFault t c e) :=
  Encodes.ofEvent rfl
theorem Encodes.queuedLoadPerform (id : Nat) : Encodes.Statement (.queuedLoadPerform id) :=
  Encodes.ofEvent rfl
theorem Encodes.queuedWritePerform (id : Nat) : Encodes.Statement (.queuedWritePerform id) :=
  Encodes.ofEvent rfl
theorem Encodes.atomicPerform (id : Nat) : Encodes.Statement (.atomicPerform id) :=
  Encodes.ofEvent rfl
theorem Encodes.barrierPerform (id : Nat) : Encodes.Statement (.barrierPerform id) :=
  Encodes.ofEvent rfl
theorem Encodes.fencecComplete (id : Nat) : Encodes.Statement (.fencecComplete id) :=
  Encodes.ofEvent rfl
theorem Encodes.scfenceComplete (id : Nat) : Encodes.Statement (.scfenceComplete id) :=
  Encodes.ofEvent rfl
theorem Encodes.translationWalk (id : Nat) : Encodes.Statement (.translationWalk id) :=
  Encodes.ofEvent rfl
theorem Encodes.faultServiceResume (t : Nat) (resume : Bool) : Encodes.Statement (.faultServiceResume t resume) :=
  Encodes.ofEvent rfl
theorem Encodes.serviceTimeout (t : Nat) : Encodes.Statement (.serviceTimeout t) :=
  Encodes.ofEvent rfl
theorem Encodes.deviceFatal (cause : FatalCause) : Encodes.Statement (.deviceFatal cause) :=
  Encodes.ofEvent rfl
theorem Encodes.dumpExport : Encodes.Statement .dumpExport :=
  Encodes.ofEvent rfl
theorem Encodes.floorRestart : Encodes.Statement .floorRestart :=
  Encodes.ofEvent rfl
theorem Encodes.timelineFill (t : Nat) (ch : Nat) (w : Window) : Encodes.Statement (.timelineFill t ch w) :=
  Encodes.ofEvent rfl
theorem Encodes.timelineStream (t : Nat) (ch : Nat) (w : Window) : Encodes.Statement (.timelineStream t ch w) :=
  Encodes.ofEvent rfl
theorem Encodes.timelineRefpb (t : Nat) (ch : Nat) (w : Window) : Encodes.Statement (.timelineRefpb t ch w) :=
  Encodes.ofEvent rfl
theorem Encodes.timelineRefab (t : Nat) (ch : Nat) (w : Window) : Encodes.Statement (.timelineRefab t ch w) :=
  Encodes.ofEvent rfl
theorem Encodes.forcedRefresh (ch : Nat) (bank : Nat) : Encodes.Statement (.forcedRefresh ch bank) :=
  Encodes.ofEvent rfl
theorem Encodes.guardedModeEntry (dram : Nat) : Encodes.Statement (.guardedModeEntry dram) :=
  Encodes.ofEvent rfl
theorem Encodes.guardedRefresh (t : Nat) (ch : Nat) (bank : Nat) : Encodes.Statement (.guardedRefresh t ch bank) :=
  Encodes.ofEvent rfl
theorem Encodes.longStallPrecharge (t : Nat) : Encodes.Statement (.longStallPrecharge t) :=
  Encodes.ofEvent rfl
theorem Encodes.patrolScrub (ch : Nat) (bank : Nat) (row : Nat) (found : ScrubResult) : Encodes.Statement (.patrolScrub ch bank row found) :=
  Encodes.ofEvent rfl
theorem Encodes.tierEviction : Encodes.Statement .tierEviction :=
  Encodes.ofEvent rfl
theorem Encodes.flitReceive (port : Nat) (flit : List Byte) : Encodes.Statement (.flitReceive port flit) :=
  Encodes.ofEvent rfl
theorem Encodes.laneRemoval (port : Nat) (lane : Nat) : Encodes.Statement (.laneRemoval port lane) :=
  Encodes.ofEvent rfl
theorem Encodes.readRequest (port : Nat) (chan : Nat) (m : Message) : Encodes.Statement (.readRequest port chan m) :=
  Encodes.ofEvent rfl
theorem Encodes.writeRequest (port : Nat) (chan : Nat) (m : Message) : Encodes.Statement (.writeRequest port chan m) :=
  Encodes.ofEvent rfl
theorem Encodes.atomicRequest (port : Nat) (chan : Nat) (m : Message) : Encodes.Statement (.atomicRequest port chan m) :=
  Encodes.ofEvent rfl
theorem Encodes.readResponse (port : Nat) (chan : Nat) (m : Message) : Encodes.Statement (.readResponse port chan m) :=
  Encodes.ofEvent rfl
theorem Encodes.writeAcknowledgement (port : Nat) (chan : Nat) (m : Message) : Encodes.Statement (.writeAcknowledgement port chan m) :=
  Encodes.ofEvent rfl
theorem Encodes.atomicResponse (port : Nat) (chan : Nat) (m : Message) : Encodes.Statement (.atomicResponse port chan m) :=
  Encodes.ofEvent rfl
theorem Encodes.grant (port : Nat) (g : GrantMsg) : Encodes.Statement (.grant port g) :=
  Encodes.ofEvent rfl
theorem Encodes.recall (port : Nat) (g : Nat) : Encodes.Statement (.recall port g) :=
  Encodes.ofEvent rfl
theorem Encodes.recallAcknowledgement (port : Nat) (g : Nat) : Encodes.Statement (.recallAcknowledgement port g) :=
  Encodes.ofEvent rfl
theorem Encodes.recallTimeout (g : Nat) : Encodes.Statement (.recallTimeout g) :=
  Encodes.ofEvent rfl
theorem Encodes.nack (port : Nat) (tag : Nat) (chan : Nat) (reason : Nat) : Encodes.Statement (.nack port tag chan reason) :=
  Encodes.ofEvent rfl
theorem Encodes.peerFailure (chip : Nat) : Encodes.Statement (.peerFailure chip) :=
  Encodes.ofEvent rfl
theorem Encodes.powerWindow (s : PowerSample) : Encodes.Statement (.powerWindow s) :=
  Encodes.ofEvent rfl
theorem Encodes.rateChange (t : Nat) (k : Nat) : Encodes.Statement (.rateChange t k) :=
  Encodes.ofEvent rfl
theorem Encodes.clockSwallow (t : Nat) : Encodes.Statement (.clockSwallow t) :=
  Encodes.ofEvent rfl
theorem Encodes.powerHold : Encodes.Statement .powerHold :=
  Encodes.ofEvent rfl
theorem Encodes.powerHoldEnd (t : Nat) : Encodes.Statement (.powerHoldEnd t) :=
  Encodes.ofEvent rfl
theorem Encodes.retrainComplete (port : Nat) : Encodes.Statement (.retrainComplete port) :=
  Encodes.ofEvent rfl
theorem Encodes.linkReset (port : Nat) : Encodes.Statement (.linkReset port) :=
  Encodes.ofEvent rfl
theorem Encodes.pageMoveComplete (ctx : Nat) (va : Nat) : Encodes.Statement (.pageMoveComplete ctx va) :=
  Encodes.ofEvent rfl
theorem Encodes.allocationHintChange (ctx : Nat) (va : Nat) (prio : Nat) (next : Option Nat) : Encodes.Statement (.allocationHintChange ctx va prio next) :=
  Encodes.ofEvent rfl
theorem Encodes.copyReplayCaughtUp (t : Nat) (c : Nat) (e : Nat) : Encodes.Statement (.copyReplayCaughtUp t c e) :=
  Encodes.ofEvent rfl
theorem Encodes.completionQueueSetup (ctx : Nat) (base : Nat) (size : Nat) : Encodes.Statement (.completionQueueSetup ctx base size) :=
  Encodes.ofEvent rfl

end Sys2Proof.Laws
end

