-- ==== Sys2Proof/Laws/Sparse.lean ====
section
/-!
SUPPORT. Laws of sparse tables: what a key reads as after an update.
-/

namespace Sys2Proof.Machine

@[simp] theorem find?_put_same {α : Type} (m : SMap α) (k : Nat) (v : α) : find? (put m k v) k = some v := by
  induction m with
  | nil => simp [put, find?]
  | cons c rest ih =>
    obtain ⟨j, w⟩ := c
    simp only [put]
    split
    · simp [find?]
    · split
      · simp [find?]
      · simp [find?, *]

theorem find?_put_other {α : Type} (m : SMap α) {k j : Nat} (v : α) (h : j ≠ k) : find? (put m k v) j = find? m j := by
  induction m with
  | nil => simp [put, find?, h.symm]
  | cons c rest ih =>
    obtain ⟨i, w⟩ := c
    simp only [put]
    split
    · simp [find?, h.symm]
    · split
      · rename_i e; subst e; simp [find?, h.symm]
      · simp only [find?]; split
        · rfl
        · exact ih

theorem find?_put {α : Type} (m : SMap α) (k j : Nat) (v : α) :
    find? (put m k v) j = if j = k then some v else find? m j := by
  split
  · subst j; simp
  · exact find?_put_other m v ‹_›

@[simp] theorem get_put_same {α : Type} (m : SMap α) (d : α) (k : Nat) (v : α) : get (put m k v) d k = v := by simp [get]

theorem get_put {α : Type} (m : SMap α) (d : α) (k j : Nat) (v : α) :
    get (put m k v) d j = if j = k then v else get m d j := by
  simp only [get, find?_put]; split <;> rfl

@[simp] theorem get_upd_same {α : Type} (m : SMap α) (d : α) (k : Nat) (f : α → α) : get (upd m d k f) d k = f (get m d k) := by
  simp [upd]

theorem get_upd {α : Type} (m : SMap α) (d : α) (k j : Nat) (f : α → α) :
    get (upd m d k f) d j = if j = k then f (get m d k) else get m d j := by simp [upd, get_put]

@[simp] theorem find?_mapVals {α β : Type} (m : SMap α) (f : Nat → α → β) (k : Nat) :
    find? (mapVals m f) k = (find? m k).map (f k) := by
  induction m with
  | nil => rfl
  | cons c rest ih =>
    obtain ⟨j, w⟩ := c
    simp only [mapVals, List.map_cons, find?] at ih ⊢
    split
    · subst j; rfl
    · exact ih

theorem get_nil {α : Type} (d : α) (k : Nat) : get ([] : SMap α) d k = d := rfl

end Sys2Proof.Machine
end

