-- ==== Sys2Proof/Laws/State.lean ====
section
/-!
SUPPORT. Laws of the state: one lemma for each field that an update of the state leaves alone, and what it makes of the others.
-/

namespace Sys2Proof.Machine

@[simp] theorem State.setTask_gcyc (s : State) (t : Nat) (f : Task → Task) : (s.setTask t f).gcyc = s.gcyc := rfl
@[simp] theorem State.setTask_mem (s : State) (t : Nat) (f : Task → Task) : (s.setTask t f).mem = s.mem := rfl
@[simp] theorem State.setTask_info (s : State) (t : Nat) (f : Task → Task) : (s.setTask t f).info = s.info := rfl
@[simp] theorem State.setTask_ctxs (s : State) (t : Nat) (f : Task → Task) : (s.setTask t f).ctxs = s.ctxs := rfl
@[simp] theorem State.setTask_tlbCore (s : State) (t : Nat) (f : Task → Task) : (s.setTask t f).tlbCore = s.tlbCore := rfl
@[simp] theorem State.setTask_tlbQuire (s : State) (t : Nat) (f : Task → Task) : (s.setTask t f).tlbQuire = s.tlbQuire := rfl
@[simp] theorem State.setTask_invals (s : State) (t : Nat) (f : Task → Task) : (s.setTask t f).invals = s.invals := rfl
@[simp] theorem State.setTask_pins (s : State) (t : Nat) (f : Task → Task) : (s.setTask t f).pins = s.pins := rfl
@[simp] theorem State.setTask_folios (s : State) (t : Nat) (f : Task → Task) : (s.setTask t f).folios = s.folios := rfl
@[simp] theorem State.setTask_quireOwner (s : State) (t : Nat) (f : Task → Task) : (s.setTask t f).quireOwner = s.quireOwner := rfl
@[simp] theorem State.setTask_chanOwner (s : State) (t : Nat) (f : Task → Task) : (s.setTask t f).chanOwner = s.chanOwner := rfl
@[simp] theorem State.setTask_mashOwner (s : State) (t : Nat) (f : Task → Task) : (s.setTask t f).mashOwner = s.mashOwner := rfl
@[simp] theorem State.setTask_streams (s : State) (t : Nat) (f : Task → Task) : (s.setTask t f).streams = s.streams := rfl
@[simp] theorem State.setTask_tapeOps (s : State) (t : Nat) (f : Task → Task) : (s.setTask t f).tapeOps = s.tapeOps := rfl
@[simp] theorem State.setTask_queue (s : State) (t : Nat) (f : Task → Task) : (s.setTask t f).queue = s.queue := rfl
@[simp] theorem State.setTask_recordWrites (s : State) (t : Nat) (f : Task → Task) : (s.setTask t f).recordWrites = s.recordWrites := rfl
@[simp] theorem State.setTask_turns (s : State) (t : Nat) (f : Task → Task) : (s.setTask t f).turns = s.turns := rfl
@[simp] theorem State.setTask_ready (s : State) (t : Nat) (f : Task → Task) : (s.setTask t f).ready = s.ready := rfl
@[simp] theorem State.setTask_running (s : State) (t : Nat) (f : Task → Task) : (s.setTask t f).running = s.running := rfl
@[simp] theorem State.setTask_queueCtx (s : State) (t : Nat) (f : Task → Task) : (s.setTask t f).queueCtx = s.queueCtx := rfl
@[simp] theorem State.setTask_fns (s : State) (t : Nat) (f : Task → Task) : (s.setTask t f).fns = s.fns := rfl
@[simp] theorem State.setTask_fw (s : State) (t : Nat) (f : Task → Task) : (s.setTask t f).fw = s.fw := rfl
@[simp] theorem State.setTask_dram (s : State) (t : Nat) (f : Task → Task) : (s.setTask t f).dram = s.dram := rfl
@[simp] theorem State.setTask_tier (s : State) (t : Nat) (f : Task → Task) : (s.setTask t f).tier = s.tier := rfl
@[simp] theorem State.setTask_power (s : State) (t : Nat) (f : Task → Task) : (s.setTask t f).power = s.power := rfl
@[simp] theorem State.setTask_ports (s : State) (t : Nat) (f : Task → Task) : (s.setTask t f).ports = s.ports := rfl
@[simp] theorem State.setTask_grants (s : State) (t : Nat) (f : Task → Task) : (s.setTask t f).grants = s.grants := rfl
@[simp] theorem State.setTask_imports (s : State) (t : Nat) (f : Task → Task) : (s.setTask t f).imports = s.imports := rfl
@[simp] theorem State.setTask_env (s : State) (t : Nat) (f : Task → Task) : (s.setTask t f).env = s.env := rfl
@[simp] theorem State.setTask_agenda (s : State) (t : Nat) (f : Task → Task) : (s.setTask t f).agenda = s.agenda := rfl
@[simp] theorem State.setTask_cur (s : State) (t : Nat) (f : Task → Task) : (s.setTask t f).cur = s.cur := rfl
@[simp] theorem State.setTask_issued (s : State) (t : Nat) (f : Task → Task) : (s.setTask t f).issued = s.issued := rfl
@[simp] theorem State.setTask_newQueue (s : State) (t : Nat) (f : Task → Task) : (s.setTask t f).newQueue = s.newQueue := rfl
@[simp] theorem State.setTask_traps (s : State) (t : Nat) (f : Task → Task) : (s.setTask t f).traps = s.traps := rfl
@[simp] theorem State.setTask_banks (s : State) (t : Nat) (f : Task → Task) : (s.setTask t f).banks = s.banks := rfl
@[simp] theorem State.setTask_reads (s : State) (t : Nat) (f : Task → Task) : (s.setTask t f).reads = s.reads := rfl
@[simp] theorem State.setTask_nextId (s : State) (t : Nat) (f : Task → Task) : (s.setTask t f).nextId = s.nextId := rfl
@[simp] theorem State.setTask_freeCount (s : State) (t : Nat) (f : Task → Task) : (s.setTask t f).freeCount = s.freeCount := rfl

@[simp] theorem State.issue_gcyc (s : State) (n : Nat) (e : Eff) : (s.issue n e).gcyc = s.gcyc := rfl
@[simp] theorem State.issue_mem (s : State) (n : Nat) (e : Eff) : (s.issue n e).mem = s.mem := rfl
@[simp] theorem State.issue_info (s : State) (n : Nat) (e : Eff) : (s.issue n e).info = s.info := rfl
@[simp] theorem State.issue_ctxs (s : State) (n : Nat) (e : Eff) : (s.issue n e).ctxs = s.ctxs := rfl
@[simp] theorem State.issue_tlbCore (s : State) (n : Nat) (e : Eff) : (s.issue n e).tlbCore = s.tlbCore := rfl
@[simp] theorem State.issue_tlbQuire (s : State) (n : Nat) (e : Eff) : (s.issue n e).tlbQuire = s.tlbQuire := rfl
@[simp] theorem State.issue_invals (s : State) (n : Nat) (e : Eff) : (s.issue n e).invals = s.invals := rfl
@[simp] theorem State.issue_pins (s : State) (n : Nat) (e : Eff) : (s.issue n e).pins = s.pins := rfl
@[simp] theorem State.issue_folios (s : State) (n : Nat) (e : Eff) : (s.issue n e).folios = s.folios := rfl
@[simp] theorem State.issue_quireOwner (s : State) (n : Nat) (e : Eff) : (s.issue n e).quireOwner = s.quireOwner := rfl
@[simp] theorem State.issue_chanOwner (s : State) (n : Nat) (e : Eff) : (s.issue n e).chanOwner = s.chanOwner := rfl
@[simp] theorem State.issue_mashOwner (s : State) (n : Nat) (e : Eff) : (s.issue n e).mashOwner = s.mashOwner := rfl
@[simp] theorem State.issue_streams (s : State) (n : Nat) (e : Eff) : (s.issue n e).streams = s.streams := rfl
@[simp] theorem State.issue_tapeOps (s : State) (n : Nat) (e : Eff) : (s.issue n e).tapeOps = s.tapeOps := rfl
@[simp] theorem State.issue_tasks (s : State) (n : Nat) (e : Eff) : (s.issue n e).tasks = s.tasks := rfl
@[simp] theorem State.issue_queue (s : State) (n : Nat) (e : Eff) : (s.issue n e).queue = s.queue := rfl
@[simp] theorem State.issue_recordWrites (s : State) (n : Nat) (e : Eff) : (s.issue n e).recordWrites = s.recordWrites := rfl
@[simp] theorem State.issue_turns (s : State) (n : Nat) (e : Eff) : (s.issue n e).turns = s.turns := rfl
@[simp] theorem State.issue_ready (s : State) (n : Nat) (e : Eff) : (s.issue n e).ready = s.ready := rfl
@[simp] theorem State.issue_running (s : State) (n : Nat) (e : Eff) : (s.issue n e).running = s.running := rfl
@[simp] theorem State.issue_queueCtx (s : State) (n : Nat) (e : Eff) : (s.issue n e).queueCtx = s.queueCtx := rfl
@[simp] theorem State.issue_fns (s : State) (n : Nat) (e : Eff) : (s.issue n e).fns = s.fns := rfl
@[simp] theorem State.issue_fw (s : State) (n : Nat) (e : Eff) : (s.issue n e).fw = s.fw := rfl
@[simp] theorem State.issue_dram (s : State) (n : Nat) (e : Eff) : (s.issue n e).dram = s.dram := rfl
@[simp] theorem State.issue_tier (s : State) (n : Nat) (e : Eff) : (s.issue n e).tier = s.tier := rfl
@[simp] theorem State.issue_power (s : State) (n : Nat) (e : Eff) : (s.issue n e).power = s.power := rfl
@[simp] theorem State.issue_ports (s : State) (n : Nat) (e : Eff) : (s.issue n e).ports = s.ports := rfl
@[simp] theorem State.issue_grants (s : State) (n : Nat) (e : Eff) : (s.issue n e).grants = s.grants := rfl
@[simp] theorem State.issue_imports (s : State) (n : Nat) (e : Eff) : (s.issue n e).imports = s.imports := rfl
@[simp] theorem State.issue_env (s : State) (n : Nat) (e : Eff) : (s.issue n e).env = s.env := rfl
@[simp] theorem State.issue_agenda (s : State) (n : Nat) (e : Eff) : (s.issue n e).agenda = s.agenda := rfl
@[simp] theorem State.issue_cur (s : State) (n : Nat) (e : Eff) : (s.issue n e).cur = s.cur := rfl
@[simp] theorem State.issue_newQueue (s : State) (n : Nat) (e : Eff) : (s.issue n e).newQueue = s.newQueue := rfl
@[simp] theorem State.issue_traps (s : State) (n : Nat) (e : Eff) : (s.issue n e).traps = s.traps := rfl
@[simp] theorem State.issue_banks (s : State) (n : Nat) (e : Eff) : (s.issue n e).banks = s.banks := rfl
@[simp] theorem State.issue_reads (s : State) (n : Nat) (e : Eff) : (s.issue n e).reads = s.reads := rfl
@[simp] theorem State.issue_freeCount (s : State) (n : Nat) (e : Eff) : (s.issue n e).freeCount = s.freeCount := rfl

@[simp] theorem State.trap_gcyc (s : State) (a b : Nat) (f : Trap → Trap) : (s.trap a b f).gcyc = s.gcyc := rfl
@[simp] theorem State.trap_mem (s : State) (a b : Nat) (f : Trap → Trap) : (s.trap a b f).mem = s.mem := rfl
@[simp] theorem State.trap_info (s : State) (a b : Nat) (f : Trap → Trap) : (s.trap a b f).info = s.info := rfl
@[simp] theorem State.trap_ctxs (s : State) (a b : Nat) (f : Trap → Trap) : (s.trap a b f).ctxs = s.ctxs := rfl
@[simp] theorem State.trap_tlbCore (s : State) (a b : Nat) (f : Trap → Trap) : (s.trap a b f).tlbCore = s.tlbCore := rfl
@[simp] theorem State.trap_tlbQuire (s : State) (a b : Nat) (f : Trap → Trap) : (s.trap a b f).tlbQuire = s.tlbQuire := rfl
@[simp] theorem State.trap_invals (s : State) (a b : Nat) (f : Trap → Trap) : (s.trap a b f).invals = s.invals := rfl
@[simp] theorem State.trap_pins (s : State) (a b : Nat) (f : Trap → Trap) : (s.trap a b f).pins = s.pins := rfl
@[simp] theorem State.trap_folios (s : State) (a b : Nat) (f : Trap → Trap) : (s.trap a b f).folios = s.folios := rfl
@[simp] theorem State.trap_quireOwner (s : State) (a b : Nat) (f : Trap → Trap) : (s.trap a b f).quireOwner = s.quireOwner := rfl
@[simp] theorem State.trap_chanOwner (s : State) (a b : Nat) (f : Trap → Trap) : (s.trap a b f).chanOwner = s.chanOwner := rfl
@[simp] theorem State.trap_mashOwner (s : State) (a b : Nat) (f : Trap → Trap) : (s.trap a b f).mashOwner = s.mashOwner := rfl
@[simp] theorem State.trap_streams (s : State) (a b : Nat) (f : Trap → Trap) : (s.trap a b f).streams = s.streams := rfl
@[simp] theorem State.trap_tapeOps (s : State) (a b : Nat) (f : Trap → Trap) : (s.trap a b f).tapeOps = s.tapeOps := rfl
@[simp] theorem State.trap_tasks (s : State) (a b : Nat) (f : Trap → Trap) : (s.trap a b f).tasks = s.tasks := rfl
@[simp] theorem State.trap_queue (s : State) (a b : Nat) (f : Trap → Trap) : (s.trap a b f).queue = s.queue := rfl
@[simp] theorem State.trap_recordWrites (s : State) (a b : Nat) (f : Trap → Trap) : (s.trap a b f).recordWrites = s.recordWrites := rfl
@[simp] theorem State.trap_turns (s : State) (a b : Nat) (f : Trap → Trap) : (s.trap a b f).turns = s.turns := rfl
@[simp] theorem State.trap_ready (s : State) (a b : Nat) (f : Trap → Trap) : (s.trap a b f).ready = s.ready := rfl
@[simp] theorem State.trap_running (s : State) (a b : Nat) (f : Trap → Trap) : (s.trap a b f).running = s.running := rfl
@[simp] theorem State.trap_queueCtx (s : State) (a b : Nat) (f : Trap → Trap) : (s.trap a b f).queueCtx = s.queueCtx := rfl
@[simp] theorem State.trap_fns (s : State) (a b : Nat) (f : Trap → Trap) : (s.trap a b f).fns = s.fns := rfl
@[simp] theorem State.trap_fw (s : State) (a b : Nat) (f : Trap → Trap) : (s.trap a b f).fw = s.fw := rfl
@[simp] theorem State.trap_dram (s : State) (a b : Nat) (f : Trap → Trap) : (s.trap a b f).dram = s.dram := rfl
@[simp] theorem State.trap_tier (s : State) (a b : Nat) (f : Trap → Trap) : (s.trap a b f).tier = s.tier := rfl
@[simp] theorem State.trap_power (s : State) (a b : Nat) (f : Trap → Trap) : (s.trap a b f).power = s.power := rfl
@[simp] theorem State.trap_ports (s : State) (a b : Nat) (f : Trap → Trap) : (s.trap a b f).ports = s.ports := rfl
@[simp] theorem State.trap_grants (s : State) (a b : Nat) (f : Trap → Trap) : (s.trap a b f).grants = s.grants := rfl
@[simp] theorem State.trap_imports (s : State) (a b : Nat) (f : Trap → Trap) : (s.trap a b f).imports = s.imports := rfl
@[simp] theorem State.trap_env (s : State) (a b : Nat) (f : Trap → Trap) : (s.trap a b f).env = s.env := rfl
@[simp] theorem State.trap_agenda (s : State) (a b : Nat) (f : Trap → Trap) : (s.trap a b f).agenda = s.agenda := rfl
@[simp] theorem State.trap_cur (s : State) (a b : Nat) (f : Trap → Trap) : (s.trap a b f).cur = s.cur := rfl
@[simp] theorem State.trap_issued (s : State) (a b : Nat) (f : Trap → Trap) : (s.trap a b f).issued = s.issued := rfl
@[simp] theorem State.trap_newQueue (s : State) (a b : Nat) (f : Trap → Trap) : (s.trap a b f).newQueue = s.newQueue := rfl
@[simp] theorem State.trap_banks (s : State) (a b : Nat) (f : Trap → Trap) : (s.trap a b f).banks = s.banks := rfl
@[simp] theorem State.trap_reads (s : State) (a b : Nat) (f : Trap → Trap) : (s.trap a b f).reads = s.reads := rfl
@[simp] theorem State.trap_nextId (s : State) (a b : Nat) (f : Trap → Trap) : (s.trap a b f).nextId = s.nextId := rfl
@[simp] theorem State.trap_freeCount (s : State) (a b : Nat) (f : Trap → Trap) : (s.trap a b f).freeCount = s.freeCount := rfl

@[simp] theorem State.fail_gcyc (s : State) (f : Fail) : (s.fail f).gcyc = s.gcyc := rfl
@[simp] theorem State.fail_mem (s : State) (f : Fail) : (s.fail f).mem = s.mem := rfl
@[simp] theorem State.fail_info (s : State) (f : Fail) : (s.fail f).info = s.info := rfl
@[simp] theorem State.fail_ctxs (s : State) (f : Fail) : (s.fail f).ctxs = s.ctxs := rfl
@[simp] theorem State.fail_tlbCore (s : State) (f : Fail) : (s.fail f).tlbCore = s.tlbCore := rfl
@[simp] theorem State.fail_tlbQuire (s : State) (f : Fail) : (s.fail f).tlbQuire = s.tlbQuire := rfl
@[simp] theorem State.fail_invals (s : State) (f : Fail) : (s.fail f).invals = s.invals := rfl
@[simp] theorem State.fail_pins (s : State) (f : Fail) : (s.fail f).pins = s.pins := rfl
@[simp] theorem State.fail_folios (s : State) (f : Fail) : (s.fail f).folios = s.folios := rfl
@[simp] theorem State.fail_quireOwner (s : State) (f : Fail) : (s.fail f).quireOwner = s.quireOwner := rfl
@[simp] theorem State.fail_chanOwner (s : State) (f : Fail) : (s.fail f).chanOwner = s.chanOwner := rfl
@[simp] theorem State.fail_mashOwner (s : State) (f : Fail) : (s.fail f).mashOwner = s.mashOwner := rfl
@[simp] theorem State.fail_streams (s : State) (f : Fail) : (s.fail f).streams = s.streams := rfl
@[simp] theorem State.fail_tapeOps (s : State) (f : Fail) : (s.fail f).tapeOps = s.tapeOps := rfl
@[simp] theorem State.fail_tasks (s : State) (f : Fail) : (s.fail f).tasks = s.tasks := rfl
@[simp] theorem State.fail_queue (s : State) (f : Fail) : (s.fail f).queue = s.queue := rfl
@[simp] theorem State.fail_recordWrites (s : State) (f : Fail) : (s.fail f).recordWrites = s.recordWrites := rfl
@[simp] theorem State.fail_turns (s : State) (f : Fail) : (s.fail f).turns = s.turns := rfl
@[simp] theorem State.fail_ready (s : State) (f : Fail) : (s.fail f).ready = s.ready := rfl
@[simp] theorem State.fail_running (s : State) (f : Fail) : (s.fail f).running = s.running := rfl
@[simp] theorem State.fail_queueCtx (s : State) (f : Fail) : (s.fail f).queueCtx = s.queueCtx := rfl
@[simp] theorem State.fail_fns (s : State) (f : Fail) : (s.fail f).fns = s.fns := rfl
@[simp] theorem State.fail_fw (s : State) (f : Fail) : (s.fail f).fw = s.fw := rfl
@[simp] theorem State.fail_dram (s : State) (f : Fail) : (s.fail f).dram = s.dram := rfl
@[simp] theorem State.fail_tier (s : State) (f : Fail) : (s.fail f).tier = s.tier := rfl
@[simp] theorem State.fail_power (s : State) (f : Fail) : (s.fail f).power = s.power := rfl
@[simp] theorem State.fail_ports (s : State) (f : Fail) : (s.fail f).ports = s.ports := rfl
@[simp] theorem State.fail_grants (s : State) (f : Fail) : (s.fail f).grants = s.grants := rfl
@[simp] theorem State.fail_imports (s : State) (f : Fail) : (s.fail f).imports = s.imports := rfl
@[simp] theorem State.fail_env (s : State) (f : Fail) : (s.fail f).env = s.env := rfl
@[simp] theorem State.fail_agenda (s : State) (f : Fail) : (s.fail f).agenda = s.agenda := rfl
@[simp] theorem State.fail_cur (s : State) (f : Fail) : (s.fail f).cur = s.cur := rfl
@[simp] theorem State.fail_issued (s : State) (f : Fail) : (s.fail f).issued = s.issued := rfl
@[simp] theorem State.fail_newQueue (s : State) (f : Fail) : (s.fail f).newQueue = s.newQueue := rfl
@[simp] theorem State.fail_banks (s : State) (f : Fail) : (s.fail f).banks = s.banks := rfl
@[simp] theorem State.fail_reads (s : State) (f : Fail) : (s.fail f).reads = s.reads := rfl
@[simp] theorem State.fail_nextId (s : State) (f : Fail) : (s.fail f).nextId = s.nextId := rfl
@[simp] theorem State.fail_freeCount (s : State) (f : Fail) : (s.fail f).freeCount = s.freeCount := rfl

@[simp] theorem State.push_gcyc (s : State) (ws : List Work) : (s.push ws).gcyc = s.gcyc := rfl
@[simp] theorem State.push_mem (s : State) (ws : List Work) : (s.push ws).mem = s.mem := rfl
@[simp] theorem State.push_info (s : State) (ws : List Work) : (s.push ws).info = s.info := rfl
@[simp] theorem State.push_ctxs (s : State) (ws : List Work) : (s.push ws).ctxs = s.ctxs := rfl
@[simp] theorem State.push_tlbCore (s : State) (ws : List Work) : (s.push ws).tlbCore = s.tlbCore := rfl
@[simp] theorem State.push_tlbQuire (s : State) (ws : List Work) : (s.push ws).tlbQuire = s.tlbQuire := rfl
@[simp] theorem State.push_invals (s : State) (ws : List Work) : (s.push ws).invals = s.invals := rfl
@[simp] theorem State.push_pins (s : State) (ws : List Work) : (s.push ws).pins = s.pins := rfl
@[simp] theorem State.push_folios (s : State) (ws : List Work) : (s.push ws).folios = s.folios := rfl
@[simp] theorem State.push_quireOwner (s : State) (ws : List Work) : (s.push ws).quireOwner = s.quireOwner := rfl
@[simp] theorem State.push_chanOwner (s : State) (ws : List Work) : (s.push ws).chanOwner = s.chanOwner := rfl
@[simp] theorem State.push_mashOwner (s : State) (ws : List Work) : (s.push ws).mashOwner = s.mashOwner := rfl
@[simp] theorem State.push_streams (s : State) (ws : List Work) : (s.push ws).streams = s.streams := rfl
@[simp] theorem State.push_tapeOps (s : State) (ws : List Work) : (s.push ws).tapeOps = s.tapeOps := rfl
@[simp] theorem State.push_tasks (s : State) (ws : List Work) : (s.push ws).tasks = s.tasks := rfl
@[simp] theorem State.push_queue (s : State) (ws : List Work) : (s.push ws).queue = s.queue := rfl
@[simp] theorem State.push_recordWrites (s : State) (ws : List Work) : (s.push ws).recordWrites = s.recordWrites := rfl
@[simp] theorem State.push_turns (s : State) (ws : List Work) : (s.push ws).turns = s.turns := rfl
@[simp] theorem State.push_ready (s : State) (ws : List Work) : (s.push ws).ready = s.ready := rfl
@[simp] theorem State.push_running (s : State) (ws : List Work) : (s.push ws).running = s.running := rfl
@[simp] theorem State.push_queueCtx (s : State) (ws : List Work) : (s.push ws).queueCtx = s.queueCtx := rfl
@[simp] theorem State.push_fns (s : State) (ws : List Work) : (s.push ws).fns = s.fns := rfl
@[simp] theorem State.push_fw (s : State) (ws : List Work) : (s.push ws).fw = s.fw := rfl
@[simp] theorem State.push_dram (s : State) (ws : List Work) : (s.push ws).dram = s.dram := rfl
@[simp] theorem State.push_tier (s : State) (ws : List Work) : (s.push ws).tier = s.tier := rfl
@[simp] theorem State.push_power (s : State) (ws : List Work) : (s.push ws).power = s.power := rfl
@[simp] theorem State.push_ports (s : State) (ws : List Work) : (s.push ws).ports = s.ports := rfl
@[simp] theorem State.push_grants (s : State) (ws : List Work) : (s.push ws).grants = s.grants := rfl
@[simp] theorem State.push_imports (s : State) (ws : List Work) : (s.push ws).imports = s.imports := rfl
@[simp] theorem State.push_env (s : State) (ws : List Work) : (s.push ws).env = s.env := rfl
@[simp] theorem State.push_cur (s : State) (ws : List Work) : (s.push ws).cur = s.cur := rfl
@[simp] theorem State.push_issued (s : State) (ws : List Work) : (s.push ws).issued = s.issued := rfl
@[simp] theorem State.push_newQueue (s : State) (ws : List Work) : (s.push ws).newQueue = s.newQueue := rfl
@[simp] theorem State.push_traps (s : State) (ws : List Work) : (s.push ws).traps = s.traps := rfl
@[simp] theorem State.push_banks (s : State) (ws : List Work) : (s.push ws).banks = s.banks := rfl
@[simp] theorem State.push_reads (s : State) (ws : List Work) : (s.push ws).reads = s.reads := rfl
@[simp] theorem State.push_nextId (s : State) (ws : List Work) : (s.push ws).nextId = s.nextId := rfl
@[simp] theorem State.push_freeCount (s : State) (ws : List Work) : (s.push ws).freeCount = s.freeCount := rfl

@[simp] theorem State.at_gcyc (s : State) (t c k : Nat) : (s.at t c k).gcyc = s.gcyc := rfl
@[simp] theorem State.at_mem (s : State) (t c k : Nat) : (s.at t c k).mem = s.mem := rfl
@[simp] theorem State.at_info (s : State) (t c k : Nat) : (s.at t c k).info = s.info := rfl
@[simp] theorem State.at_ctxs (s : State) (t c k : Nat) : (s.at t c k).ctxs = s.ctxs := rfl
@[simp] theorem State.at_tlbCore (s : State) (t c k : Nat) : (s.at t c k).tlbCore = s.tlbCore := rfl
@[simp] theorem State.at_tlbQuire (s : State) (t c k : Nat) : (s.at t c k).tlbQuire = s.tlbQuire := rfl
@[simp] theorem State.at_invals (s : State) (t c k : Nat) : (s.at t c k).invals = s.invals := rfl
@[simp] theorem State.at_pins (s : State) (t c k : Nat) : (s.at t c k).pins = s.pins := rfl
@[simp] theorem State.at_folios (s : State) (t c k : Nat) : (s.at t c k).folios = s.folios := rfl
@[simp] theorem State.at_quireOwner (s : State) (t c k : Nat) : (s.at t c k).quireOwner = s.quireOwner := rfl
@[simp] theorem State.at_chanOwner (s : State) (t c k : Nat) : (s.at t c k).chanOwner = s.chanOwner := rfl
@[simp] theorem State.at_mashOwner (s : State) (t c k : Nat) : (s.at t c k).mashOwner = s.mashOwner := rfl
@[simp] theorem State.at_streams (s : State) (t c k : Nat) : (s.at t c k).streams = s.streams := rfl
@[simp] theorem State.at_tapeOps (s : State) (t c k : Nat) : (s.at t c k).tapeOps = s.tapeOps := rfl
@[simp] theorem State.at_tasks (s : State) (t c k : Nat) : (s.at t c k).tasks = s.tasks := rfl
@[simp] theorem State.at_queue (s : State) (t c k : Nat) : (s.at t c k).queue = s.queue := rfl
@[simp] theorem State.at_recordWrites (s : State) (t c k : Nat) : (s.at t c k).recordWrites = s.recordWrites := rfl
@[simp] theorem State.at_turns (s : State) (t c k : Nat) : (s.at t c k).turns = s.turns := rfl
@[simp] theorem State.at_ready (s : State) (t c k : Nat) : (s.at t c k).ready = s.ready := rfl
@[simp] theorem State.at_running (s : State) (t c k : Nat) : (s.at t c k).running = s.running := rfl
@[simp] theorem State.at_queueCtx (s : State) (t c k : Nat) : (s.at t c k).queueCtx = s.queueCtx := rfl
@[simp] theorem State.at_fns (s : State) (t c k : Nat) : (s.at t c k).fns = s.fns := rfl
@[simp] theorem State.at_fw (s : State) (t c k : Nat) : (s.at t c k).fw = s.fw := rfl
@[simp] theorem State.at_dram (s : State) (t c k : Nat) : (s.at t c k).dram = s.dram := rfl
@[simp] theorem State.at_tier (s : State) (t c k : Nat) : (s.at t c k).tier = s.tier := rfl
@[simp] theorem State.at_power (s : State) (t c k : Nat) : (s.at t c k).power = s.power := rfl
@[simp] theorem State.at_ports (s : State) (t c k : Nat) : (s.at t c k).ports = s.ports := rfl
@[simp] theorem State.at_grants (s : State) (t c k : Nat) : (s.at t c k).grants = s.grants := rfl
@[simp] theorem State.at_imports (s : State) (t c k : Nat) : (s.at t c k).imports = s.imports := rfl
@[simp] theorem State.at_env (s : State) (t c k : Nat) : (s.at t c k).env = s.env := rfl
@[simp] theorem State.at_agenda (s : State) (t c k : Nat) : (s.at t c k).agenda = s.agenda := rfl
@[simp] theorem State.at_issued (s : State) (t c k : Nat) : (s.at t c k).issued = s.issued := rfl
@[simp] theorem State.at_newQueue (s : State) (t c k : Nat) : (s.at t c k).newQueue = s.newQueue := rfl
@[simp] theorem State.at_traps (s : State) (t c k : Nat) : (s.at t c k).traps = s.traps := rfl
@[simp] theorem State.at_banks (s : State) (t c k : Nat) : (s.at t c k).banks = s.banks := rfl
@[simp] theorem State.at_reads (s : State) (t c k : Nat) : (s.at t c k).reads = s.reads := rfl
@[simp] theorem State.at_nextId (s : State) (t c k : Nat) : (s.at t c k).nextId = s.nextId := rfl
@[simp] theorem State.at_freeCount (s : State) (t c k : Nat) : (s.at t c k).freeCount = s.freeCount := rfl

@[simp] theorem State.issue_issued (s : State) (n : Nat) (e : Eff) : (s.issue n e).issued =
    s.issued ++ [⟨s.nextId, s.cur.core, s.me.pc, s.cur.slot, s.dc + n, e⟩] := rfl
@[simp] theorem State.issue_nextId (s : State) (n : Nat) (e : Eff) : (s.issue n e).nextId = s.nextId + 1 := rfl
@[simp] theorem State.trap_traps (s : State) (a b : Nat) (f : Trap → Trap) : (s.trap a b f).traps =
    s.traps ++ [f (Trap.plain s.cur.core s.me.pc s.cur.slot a b)] := rfl
@[simp] theorem State.push_agenda (s : State) (ws : List Work) : (s.push ws).agenda = ws ++ s.agenda := rfl
@[simp] theorem State.at_cur (s : State) (t c k : Nat) : (s.at t c k).cur = ⟨t, c, k⟩ := rfl

@[simp] theorem State.setTask_tasks (s : State) (t : Nat) (f : Task → Task) :
    (s.setTask t f).tasks = upd s.tasks Task.start t f := rfl

/-! ### Tasks and cores -/

@[simp] theorem State.task_setTask_same (s : State) (t : Nat) (f : Task → Task) : (s.setTask t f).task t = f (s.task t) := by
  simp [State.task, State.setTask]

theorem State.task_setTask_other (s : State) {t u : Nat} (f : Task → Task) (h : u ≠ t) : (s.setTask t f).task u = s.task u := by
  simp [State.task, State.setTask, get_upd, h]

@[simp] theorem Task.core_setCore_same (k : Task) (c : Nat) (f : Core → Core) : (k.setCore c f).core c = f (k.core c) := by
  simp [Task.core, Task.setCore]

theorem Task.core_setCore_other (k : Task) {c d : Nat} (f : Core → Core) (h : d ≠ c) : (k.setCore c f).core d = k.core d := by
  simp [Task.core, Task.setCore, get_upd, h]

@[simp] theorem State.core_setCore_same (s : State) (t c : Nat) (f : Core → Core) :
    (s.setCore t c f).core t c = f (s.core t c) := by simp [State.core, State.setCore]

theorem State.core_setCore_other (s : State) {t c u d : Nat} (f : Core → Core) (h : ¬(u = t ∧ d = c)) :
    (s.setCore t c f).core u d = s.core u d := by
  simp only [State.core, State.setCore]
  by_cases hu : u = t
  · subst hu; rw [State.task_setTask_same, Task.core_setCore_other _ _ (by simpa using h)]
  · rw [State.task_setTask_other _ _ hu]

theorem State.me_issue (s : State) (n : Nat) (e : Eff) : (s.issue n e).me = s.me := rfl
theorem State.me_trap (s : State) (a b : Nat) (f : Trap → Trap) : (s.trap a b f).me = s.me := rfl

/-! ### Registers (04 R66) -/

@[simp] theorem Core.reg_zero (k : Core) : k.reg 0 = 0 := rfl
@[simp] theorem Core.setReg_zero (k : Core) (v : Word) : k.setReg 0 v = k := rfl
@[simp] theorem Core.pred_zero (k : Core) : k.pred 0 = ones := rfl
@[simp] theorem Core.setPred_zero (k : Core) (m v : Pred) : k.setPred 0 m v = k := rfl

theorem Core.reg_setReg (k : Core) (n m : Nat) (v : Word) :
    (k.setReg n v).reg m = if m = n ∧ n ≠ 0 then v else k.reg m := by
  unfold Core.setReg Core.reg
  by_cases hn : n = 0
  · subst hn; simp
  · by_cases hm : m = 0
    · subst hm; simp [hn, Ne.symm hn]
    · simp [hn, hm, get_put]

end Sys2Proof.Machine
end

