-- ==== Sys2Proof/Laws/Slots.lean ====
section
/-!
SUPPORT. What the shared operations of a slot can do: each adds to what the bundle issues and leaves the rest of the machine as
it is.
-/

namespace Sys2Proof.Machine

theorem SlotFrame.refl (s : State) : SlotFrame s s := ⟨rfl, List.prefix_rfl, List.prefix_rfl, List.prefix_rfl⟩

theorem SlotFrame.trans {s t u : State} (h : SlotFrame s t) (k : SlotFrame t u) : SlotFrame s u where
  rest := k.rest.trans (congrArg (fun x : State => { x with
    issued := u.issued, newQueue := u.newQueue, traps := u.traps, banks := u.banks, reads := u.reads,
    nextId := u.nextId, freeCount := u.freeCount }) h.rest)
  issued := h.issued.trans k.issued
  newQueue := h.newQueue.trans k.newQueue
  traps := h.traps.trans k.traps

theorem SlotFrame.issue (s : State) (n : Nat) (e : Eff) : SlotFrame s (s.issue n e) :=
  ⟨rfl, List.prefix_append _ _, List.prefix_rfl, List.prefix_rfl⟩

theorem SlotFrame.trap (s : State) (a b : Nat) (f : Trap → Trap) : SlotFrame s (s.trap a b f) :=
  ⟨rfl, List.prefix_rfl, List.prefix_rfl, List.prefix_append _ _⟩

theorem SlotFrame.fail (s : State) (f : Fail) : SlotFrame s (s.fail f) := SlotFrame.trap s _ _ _

theorem SlotFrame.writeScalar (s : State) (n : Nat) (d : BitVec 5) (v : Word) : SlotFrame s (s.writeScalar n d v) := by
  unfold State.writeScalar; split
  · exact .refl s
  · exact .issue ..

theorem SlotFrame.writeWholePred (s : State) (d : BitVec 5) (v : Pred) : SlotFrame s (s.writeWholePred d v) := by
  unfold State.writeWholePred; split
  · exact .refl s
  · exact .issue ..

theorem SlotFrame.writePred (s : State) (c : BitVec 6) (n : Nat) (m v : Pred) : SlotFrame s (s.writePred c n m v) := .issue ..

theorem SlotFrame.enqueue (s : State) (a : QAcc) : SlotFrame s (s.enqueue a) :=
  ⟨rfl, List.prefix_rfl, List.prefix_append _ _, List.prefix_rfl⟩

/-- A chain of operations, each of which keeps the frame. -/
theorem SlotFrame.foldl {α : Type} (f : State → α → State) (h : ∀ s a, SlotFrame s (f s a)) (l : List α) (s : State) :
    SlotFrame s (l.foldl f s) := by
  induction l generalizing s with
  | nil => exact .refl s
  | cons a l ih => exact (h s a).trans (ih _)

/-! ### Row sources and destinations -/

theorem SlotFrame.claim {s t : State} {k c q pc : Nat} {l : List Nat} (h : s.claim k c q pc l = .ok t) : SlotFrame s t := by
  unfold State.claim at h
  dsimp only at h
  split at h
  · cases h
  · cases h; exact ⟨rfl, List.prefix_rfl, List.prefix_rfl, List.prefix_rfl⟩

theorem SlotFrame.noteRead (s : State) (t c e k pc : Nat) (l : List (Nat × Nat)) : SlotFrame s (s.noteRead t c e k pc l) := by
  unfold State.noteRead
  dsimp only
  split
  · exact .refl s
  · exact ⟨rfl, List.prefix_rfl, List.prefix_rfl, List.prefix_rfl⟩

theorem SlotFrame.readTimed {s t : State} {k c a n al q pc : Nat} {l : List Byte}
    (h : s.readTimed k c a n al q pc = .ok (l, t)) : SlotFrame s t := by
  unfold State.readTimed at h
  dsimp only at h
  repeat' split at h
  all_goals first
    | cases h; exact .claim ‹_›
    | cases h; exact (SlotFrame.claim ‹_›).trans (.noteRead ..)
    | cases h

theorem SlotFrame.readLeaf {s t : State} {k c a n pc : Nat} {b : Bool} {l : List Byte}
    (h : s.readLeaf k c a n pc b = .ok (l, t)) : SlotFrame s t := by
  unfold State.readLeaf at h
  split at h
  · cases h
  dsimp only at h
  repeat' split at h
  all_goals first
    | cases h; exact .claim ‹_›
    | cases h; exact (SlotFrame.claim ‹_›).trans (.noteRead ..)
    | cases h

theorem SlotFrame.walkerRow {s t : State} {k c a pc : Nat} {w v : Walker} {r : Row}
    (h : s.walkerRow k c a pc w = .ok (r, v, t)) : SlotFrame s t := by
  unfold State.walkerRow at h
  dsimp only at h
  repeat' split at h
  all_goals first
    | cases h; exact .readLeaf ‹_›
    | cases h; exact .readTimed ‹_›
    | cases h

theorem SlotFrame.popWalker {s t : State} {k c n pc : Nat} {v : Walker} {r : Row}
    (h : s.popWalker k c n pc = .ok (r, v, t)) : SlotFrame s t := by
  unfold State.popWalker at h
  split at h
  · cases h
  · exact .walkerRow h

theorem SlotFrame.readRow (s : State) (c : BitVec 6) (x : Ext) (f : Nat) : SlotFrame s (s.readRow c x f).2 := by
  unfold State.readRow
  dsimp only
  repeat' split
  all_goals first
    | exact .refl s
    | exact .fail ..
    | exact .issue ..
    | exact (SlotFrame.popWalker ‹_›).trans (.issue ..)

theorem SlotFrame.writeRow (s : State) (c : BitVec 6) (n : Nat) (m : Pred) (r : Row) : SlotFrame s (s.writeRow c n m r) := by
  unfold State.writeRow
  dsimp only
  repeat' split
  all_goals first
    | exact .refl s
    | exact .fail ..
    | exact (SlotFrame.issue ..).trans (.issue ..)
    | exact (SlotFrame.issue ..).trans (.foldl _ (fun _ _ => .issue ..) _ _)

theorem SlotFrame.mtxSource (s : State) (c : BitVec 6) (x : Ext) (l : List Nat) : SlotFrame s (s.mtxSource c x l).2.2.2 := by
  unfold State.mtxSource
  dsimp only
  split
  · dsimp only; repeat' split
    all_goals first
      | exact .refl s
      | exact .fail ..
  · split
    · dsimp only; split
      · exact .fail ..
      · exact .issue ..
    · exact .readRow ..

theorem SlotFrame.mtxPop (s : State) (c : BitVec 6) (x : Ext) : SlotFrame s (s.mtxPop c x).2 := by
  unfold State.mtxPop
  dsimp only
  split
  · split
    · exact .fail ..
    · exact .fail ..
    · exact .issue ..
  · exact .readRow ..

theorem SlotFrame.foldlFst {α β : Type} (f : State × β → α → State × β) (h : ∀ p a, SlotFrame p.1 (f p a).1) (l : List α)
    (p : State × β) : SlotFrame p.1 (l.foldl f p).1 := by
  induction l generalizing p with
  | nil => exact .refl _
  | cons a l ih => exact (h p a).trans (ih _)

theorem SlotFrame.mtxPut (s : State) (b : Bool) (i n : Nat) (p : State × State) (e : Nat × Row) :
    SlotFrame p.1 (s.mtxPut b i n p e).1 := by
  unfold State.mtxPut
  dsimp only
  repeat' split
  all_goals first
    | exact .fail ..
    | exact .issue ..
    | exact .foldl _ (fun _ _ => .issue ..) _ _

theorem SlotFrame.mtxThrough (s : State) (b : Bool) (i n : Nat) (rows : List Row) (g : Matrix → Matrix) :
    SlotFrame s (s.mtxThrough b i n rows g) := by
  unfold State.mtxThrough
  dsimp only
  split
  · exact .fail ..
  · exact ((SlotFrame.foldlFst _ (.mtxPut s b i n) _ (s, s)).trans (.issue ..)).trans (.issue ..)

theorem SlotFrame.mtxStore (s : State) (c : BitVec 6) (n : Nat) (rows : List Row) (g : Matrix → Matrix) :
    SlotFrame s (s.mtxStore c n rows g) := by
  unfold State.mtxStore
  dsimp only
  repeat' split
  all_goals first
    | exact .fail ..
    | exact .mtxThrough ..
    | exact ((SlotFrame.issue ..).trans (.foldl _ (fun _ _ => .issue ..) _ _)).trans (.issue ..)

/-! ### The queued path -/

theorem SlotFrame.access (s : State) (k : QKind) (ea u n rw : Nat) (f : QAcc → QAcc) : SlotFrame s (s.access k ea u n rw f) := by
  unfold State.access
  repeat' split
  all_goals first
    | exact .fail ..
    | exact .enqueue ..

/-! ### Engines and heads -/

theorem SlotFrame.issueCopy (s : State) (e start b : Nat) (src dst : Endpoint) (op : CmdOp) :
    SlotFrame s (s.issueCopy e start b src dst op) := by
  unfold State.issueCopy
  repeat' split
  all_goals first
    | exact .fail ..
    | exact .issue ..

theorem SlotFrame.copyBetween (s : State) (e start a an d dn b : Nat) (op : CmdOp) :
    SlotFrame s (s.copyBetween e start a an d dn b op) := by
  unfold State.copyBetween
  repeat' split
  all_goals first
    | exact .fail ..
    | exact .issueCopy ..

theorem SlotFrame.useHead {s t : State} {n : Nat} {ok : HeadMode → Bool} {f : Head → State} (hf : ∀ h, SlotFrame s (f h))
    (h : s.useHead n ok f = .next t) : SlotFrame s t := by
  unfold State.useHead at h
  cases h
  repeat' split
  all_goals first
    | exact .fail ..
    | exact hf _

theorem SlotFrame.closeHead (s : State) (n : Nat) (h : Head) (last : Bool) (d : Nat) : SlotFrame s (s.closeHead n h last d) :=
  (SlotFrame.issue ..).trans (.issue ..)

theorem SlotFrame.accWrite {s t : State} (z : Nat) (op : AccOp) (h : SlotFrame s t) : SlotFrame s (t.accWrite s z op) :=
  h.trans (.issue ..)

/-! ### The moulds of the instruction families -/

theorem SlotFrame.ite {s t u : State} (p : Prop) [Decidable p] (h : SlotFrame s t) (k : SlotFrame s u) :
    SlotFrame s (if p then t else u) := by
  split
  · exact h
  · exact k

/-- A meaning that answers a next state in the frame. -/
def Framed (s : State) (o : Out) : Prop := ∃ t, o = .next t ∧ SlotFrame s t

theorem Framed.next {s t : State} (h : SlotFrame s t) : Framed s (.next t) := ⟨t, rfl, h⟩

theorem Framed.gated {s t : State} (p : BitVec 4) (i : BitVec 1) (h : SlotFrame s t) : Framed s (s.gated p i t) :=
  .next (.ite _ h (.refl s))

theorem Framed.scal2 (s : State) (n : Nat) (f : Word → Word → Word) (d a b : BitVec 5) (p : BitVec 4) (i : BitVec 1) :
    Framed s (s.scal2 n f d a b p i) := .gated _ _ (.writeScalar ..)

theorem Framed.scal1 (s : State) (f : Word → Word) (d a : BitVec 5) (p : BitVec 4) (i : BitVec 1) :
    Framed s (s.scal1 f d a p i) := .gated _ _ (.writeScalar ..)

theorem Framed.simm (s : State) (n : Nat) (f : Word → Word → Word) (d a : BitVec 5) (i : BitVec 12) (x : Ext) :
    Framed s (s.simm n f d a i x) := .next (.writeScalar ..)

theorem Framed.scalCmp (s : State) (f : Word → Word → Bool) (d a b : BitVec 5) (p : BitVec 4) (i : BitVec 1) :
    Framed s (s.scalCmp f d a b p i) := .gated _ _ (.writeWholePred ..)

theorem Framed.pred2 (s : State) (f : Pred → Pred → Pred) (d a b : BitVec 5) (p : BitVec 4) (i : BitVec 1) :
    Framed s (s.pred2 f d a b p i) := .gated _ _ (.writeWholePred ..)

theorem Framed.simmCmp (s : State) (f : Word → Word → Bool) (d a : BitVec 5) (v : Word) : Framed s (s.simmCmp f d a v) :=
  .next (.writeWholePred ..)

theorem SlotFrame.readRows (s : State) (a b : BitVec 6) (x : Ext) (e : Nat) :
    SlotFrame s (if b = a then ((s.readRow a x e).1, (s.readRow a x e).2) else (s.readRow a x e).2.readRow b x e).2 := by
  split
  · exact .readRow ..
  · exact (SlotFrame.readRow ..).trans (.readRow ..)

theorem Framed.row2 (s : State) (ok : Nat → Bool) (n : Nat → Nat) (f : Modes → Nat → Lane → Lane → Lane)
    (d a b : BitVec 6) (p : BitVec 4) (x : Ext) : Framed s (s.row2 ok n f d a b p x) :=
  .next (.ite _ (.fail ..) ((SlotFrame.readRows s a b x s.elem).trans (.writeRow ..)))

theorem Framed.row1 (s : State) (ok : Nat → Bool) (n : Nat) (f : Modes → Nat → Lane → Lane) (d a : BitVec 6)
    (p : BitVec 4) (x : Ext) : Framed s (s.row1 ok n f d a p x) :=
  .next (.ite _ (.fail ..) ((SlotFrame.readRow ..).trans (.writeRow ..)))

theorem Framed.rowMove (s : State) (f : Row → Row → Nat → Lane) (d a b : BitVec 6) (p : BitVec 4) (x : Ext) :
    Framed s (s.rowMove f d a b p x) :=
  .next (.ite _ (.fail ..) ((SlotFrame.readRows s a b x s.elem).trans (.writeRow ..)))

theorem Framed.rowCmp (s : State) (t : Bool) (fi : Int → Int → Bool) (ff : Num → Num → Bool) (d a b : BitVec 6)
    (p : BitVec 4) (x : Ext) : Framed s (s.rowCmp t fi ff d a b p x) :=
  .next (.ite _ (.fail ..) (.ite _ (.fail ..) ((SlotFrame.readRows s a b x s.elem).trans (.writePred ..))))

theorem Framed.reduce (s : State) (fi : Nat → List (Option Int) → Lane) (ff : Modes → Num → Num → Num) (d a : BitVec 6)
    (p : BitVec 4) (x : Ext) : Framed s (s.reduce fi ff d a p x) :=
  .next (.ite _ (.fail ..) ((SlotFrame.readRow ..).trans (.writeRow ..)))

theorem Framed.useHead (s : State) (n : Nat) (ok : HeadMode → Bool) {f : Head → State} (h : ∀ k, SlotFrame s (f k)) :
    Framed s (s.useHead n ok f) :=
  .next (.ite _ (.fail ..) (.ite _ (.fail ..) (.ite _ (.fail ..) (h _))))

theorem Framed.openHead (s : State) (n : Nat) (v : BitVec 32) (m : HeadMode) (b : Bool) (g : Nat) (op : TableOp) :
    Framed s (s.openHead n v m b g op) :=
  .next (.ite _ (.fail ..) (.ite _ (.fail ..) ((SlotFrame.issue ..).trans (.issue ..))))

theorem Framed.moveHead (s : State) (h : BitVec 4) (f : Head → Head) : Framed s (s.moveHead h f) :=
  .useHead _ _ _ fun _ => .issue ..

theorem Framed.writeHead (s : State) (h : BitVec 4) (o : BitVec 6) (p : BitVec 4) (x : Ext) (ok : HeadMode → Bool) :
    Framed s (s.writeHead h o p x ok) := by
  refine .useHead _ _ _ fun k => ?_
  dsimp only
  refine .ite _ (.fail ..) ?_
  split
  · exact .fail ..
  · exact ((SlotFrame.readRow ..).trans (.issue ..)).trans (.issue ..)

theorem Framed.useWalkerSlot (s : State) (n : Nat) {f : Walker → State} (h : ∀ w, SlotFrame s (f w)) :
    Framed s (s.useWalkerSlot n f) := .next (.ite _ (.fail ..) (h _))

theorem Framed.qLoad (s : State) (k : QKind) (d b : BitVec 5) (i : BitVec 6) (z c : BitVec 2) (sc : BitVec 1) (x : Ext) :
    Framed s (s.qLoad k d b i z c sc x) := .next (.access ..)

theorem Framed.qStore (s : State) (k : QKind) (d b : BitVec 5) (i : BitVec 6) (z c : BitVec 2) (sc : BitVec 1) (x : Ext) :
    Framed s (s.qStore k d b i z c sc x) := .next (.access ..)

theorem Framed.qAmo (s : State) (op : Nat) (d b : BitVec 5) (i : BitVec 6) (z : BitVec 1) (c : BitVec 2) (sc : BitVec 1)
    (x : Ext) : Framed s (s.qAmo op d b i z c sc x) := .next (.access ..)

theorem Framed.qBar (s : State) (k : QKind) (n : Nat) (d b : BitVec 5) (i : BitVec 6) (c : BitVec 2) (x : Ext) :
    Framed s (s.qBar k n d b i c x) := by
  refine .next ?_
  repeat' split
  all_goals first
    | exact .fail ..
    | exact .enqueue ..

theorem Framed.qVamo (s : State) (add : Bool) (d b : BitVec 5) (i : BitVec 6) (c : BitVec 2) (x : Ext) :
    Framed s (s.qVamo add d b i c x) := by
  refine .next ?_
  split
  · exact .fail ..
  · split
    · exact .fail ..
    · exact .ite _ (.fail ..) ((SlotFrame.readTimed ‹_›).trans (.foldl _ (fun _ _ => .access ..) _ _))

theorem SlotFrame.writeCsr (s : State) (c : Nat) (v : Word) : SlotFrame s (s.writeCsr c v) := by
  unfold State.writeCsr
  dsimp only
  repeat' split
  all_goals first
    | exact .issue ..
    | exact .refl _

theorem Framed.csrSwap (s : State) (f : Word → Word → Word) (d a : BitVec 5) (c : BitVec 12) : Framed s (s.csrSwap f d a c) :=
  .next ((SlotFrame.writeScalar s 1 d (s.csrValue c.toNat)).trans (.writeCsr ..))

theorem SlotFrame.twinDiffers (s : State) (n row lane : Nat) (a b : Word) : SlotFrame s (s.twinDiffers n row lane a b) :=
  .ite _ (.issue ..) (.trap ..)

theorem Framed.draw (s : State) (fp hold : Bool) (dim idx : Nat → Nat) (step : Lane) : Framed s (s.draw fp hold dim idx step) :=
  .next (.ite _ (.trap ..) (.ite _ (.issue ..) ((SlotFrame.issue ..).trans (.issue ..))))

theorem Framed.seqCommand (s : State) (d a b : BitVec 5) (op : Nat → Nat → Nat → CmdOp) : Framed s (s.seqCommand d a b op) := by
  refine .next (.ite _ (.trap ..) (.ite _ (.trap ..) ?_))
  repeat' split
  all_goals first
    | exact .fail ..
    | exact .issue ..

theorem SlotFrame.launch (s : State) (v : Word) (now : Bool) : SlotFrame s (s.launch v now) :=
  .ite _ (.trap ..) (.ite _ (.refl s) (.ite _ (.trap ..) (.issue ..)))

theorem SlotFrame.readForm (s : State) (z : Nat) (d : BitVec 6) (f : Nat → Lane) (g : Matrix → Matrix) :
    SlotFrame s (s.readForm z d f g) := by
  unfold State.readForm
  split
  · exact .fail ..
  · exact .mtxStore ..

theorem Framed.mma (s : State) (zero : Bool) (z : BitVec 5) (sc : BitVec 6) (w : BitVec 4) (k : BitVec 3) (p : BitVec 1)
    (n : BitVec 3) (x : Ext) : Framed s (s.mma zero z sc w k p n x) := by
  refine .next (.ite _ (.trap ..) ?_)
  split
  · exact .fail ..
  · exact .ite _ (.trap ..) (.ite _ (.trap ..) (.ite _ (.trap ..) ((SlotFrame.mtxSource ..).trans (.issue ..))))

end Sys2Proof.Machine
end

