-- ==== Sys2Proof/Tests/Slice0.lean ====
section
/-!
SUPPORT. Tests: ill-formed instructions are refused, the spec's example words decode, single steps, and a state that meets the
hypotheses of each statement.
-/

open Sys2Proof Sys2Proof.Machine

namespace Sys2Proof.Tests

/-! ### Well-formedness: one ill-formed term for each check -/

theorem test_predicate_field_refused : (Instr.add 1 2 3 12 0).wellFormed = false ∧ (Instr.add 1 2 3 11 0).wellFormed = true := by decide
theorem test_predicate_source_refused : (Instr.pmov 1 12 0 0).wellFormed = false := by decide
theorem test_predicate_dest_refused : (Instr.peq 0 1 2 0 0).wellFormed = false ∧ (Instr.peq 12 1 2 0 0).wellFormed = false := by decide
theorem test_branch_predicate_refused : (Instr.brp 12 0).wellFormed = false := by decide
theorem test_format_image_refused :
    (Instr.fmtset 2 0 0 0 0 0).wellFormed = false ∧ (Instr.fmtset 0 0 0 9 0 0).wellFormed = false ∧
    (Instr.fmtset 0 0 0 0 1 0).wellFormed = false ∧ (Instr.fmtset 0 0 0 0 0 11).wellFormed = false := by decide
theorem test_csr_refused :
    (Instr.csrr 1 0x00B).wellFormed = false ∧ (Instr.csrw 0 1 0x003).wellFormed = false ∧ (Instr.csrw 0 1 0x002).wellFormed = true := by
  decide
theorem test_twincmp_refused : (Instr.twincmp 0).wellFormed = false ∧ (Instr.twincmpTile 40).wellFormed = false := by decide
theorem test_fence_dest_refused : (Instr.fencec 0 1).wellFormed = false ∧ (Instr.scfence 4 1).wellFormed = false := by decide
theorem test_row_operand_refused :
    (Instr.vadd 0x20 0x18 0x18 0 none).wellFormed = false ∧ (Instr.vadd 0x18 0x23 0x18 0 none).wellFormed = false ∧
    (Instr.vmac 0x10 0x18 0x18 0 none).wellFormed = false ∧ (Instr.vpeq 0x30 0x18 0x18 0 none).wellFormed = false := by decide
theorem test_ext_byte_refused :
    (Instr.vadd 0x18 0x18 0x18 0 (some 1)).wellFormed = false ∧ (Instr.vadd 0x18 0x21 0x18 0 (some 32)).wellFormed = false ∧
    (Instr.vadd 0x18 0x21 0x18 0 (some 31)).wellFormed = true := by decide
theorem test_tile_number_refused :
    (Instr.vcur 0 80 0 0).wellFormed = false ∧ (Instr.talloc 17 (some 1)).wellFormed = false ∧
    (Instr.trel 16 (some 1)).wellFormed = false := by decide
theorem test_lane_number_refused : (Instr.vextr 0x18 0x19 0 0 (some 2)).wellFormed = false := by decide
theorem test_matrix_fields_refused :
    (Instr.azero 24).wellFormed = false ∧ (Instr.wbfill 0x18 0 6 none).wellFormed = false ∧
    (Instr.ard 0 0x18 1 0 6).wellFormed = false ∧ (Instr.mwait 0 0 3).wellFormed = false ∧ (Instr.mwait 1 0 1).wellFormed = false := by
  decide
theorem test_head_fields_refused :
    (Instr.hopen 0 0x18 0 0 0 none).wellFormed = false ∧ (Instr.hopen 0 0x20 1 1 0 none).wellFormed = false ∧
    (Instr.hrd 1 1 0).wellFormed = false ∧ (Instr.hskip 0 (some 32)).wellFormed = false := by decide
theorem test_walker_fields_refused : (Instr.wset 8 0 0).wellFormed = false ∧ (Instr.wloop 0 0 0 4).wellFormed = false := by decide
theorem test_access_fields_refused :
    (Instr.ld 1 2 0 0 1 0 none).wellFormed = false ∧ (Instr.amocas 31 0 0 0 0 0 none).wellFormed = false := by decide
theorem test_fabric_and_graph_fields_refused :
    (Instr.sfstat 1 2 7).wellFormed = false ∧ (Instr.qidx 1 2 0).wellFormed = false ∧ (Instr.garg 1 32).wellFormed = false := by decide

/-! ### Decoding: words that the spec writes out -/

section
set_option maxRecDepth 100000

/-- 01, 04: ADD s3, s1, s2; MULH s5, s6, s7 ?!p2; PLT p3, s4, s5. -/
theorem test_decode_scal :
    decodeTableWord 32 0x00461100 = some (.add 3 1 2 0 0) ∧ decodeTableWord 32 0x018A6391 = some (.mulh 5 6 7 2 1) ∧
    decodeTableWord 32 0x07064280 = some (.plt 3 4 5 0 0) := by decide
/-- 01: ADDI s4, s4, 0x1234 under the ext byte 0x01. -/
theorem test_decode_simm :
    decodeTableWord 32 0x10084234 = some (.addi 4 4 0x234 none) ∧
    (readSlot (some 0x01) 0x10084234).toOption = some (.addi 4 4 0x234 (some 1)) := by decide
/-- 04, 05, 19: LOOPI s4, 1, 2; LOOP with offset −2; FMTSET elem=BF16, rnd=RTZ; BRNP from bundle 1 to 22; HALT. -/
theorem test_decode_ctrl :
    decodeTableWord 32 0x21804008 = some (.loopi 4 1 0) ∧ decodeTableWord 32 0x21FFFFFE = some (.loop 0x3FFFFE) ∧
    decodeTableWord 32 0x22401006 = some (.fmtset 0 0 1 0 0 6) ∧ decodeTableWord 32 0x20840015 = some (.brnp 1 21) ∧
    decodeTableWord 32 0x22C00000 = some .halt := by decide
/-- 04: TWINCMP s3; TWINCMP t7. -/
theorem test_decode_sys :
    decodeTableWord 32 0x32003000 = some (.twincmp 3) ∧ decodeTableWord 32 0x32000807 = some (.twincmpTile 7) := by decide
/-- 01, 05, 06: VADD c1, c0, h2 ?p3; VMAX c3, c1, w2 ?p4; VRINT c1, c0; VMUL c2, w0, s7 under the ext byte 0x07. -/
theorem test_decode_row :
    decodeTableWord 32 0x40596023 = some (.vadd 0x19 0x18 2 3 none) ∧ decodeTableWord 32 0x421B6524 = some (.vmax 0x1B 0x19 0x12 4 none) ∧
    decodeTableWord 32 0x49196200 = some (.vrint 0x19 0x18 0 none) ∧
    (readSlot (some 7) 0x40DA4210).toOption = some (.vmul 0x1A 0x10 0x21 0 (some 7)) := by decide
/-- 05, 06: VCVT.ieee c1, c0, FP32; VTRIT c2, c0, 3; VIOTA c0, -3; VCUR c2, t5, 3, +1; TREL t5; VCURS c3, s9. -/
theorem test_decode_rowx :
    decodeTableWord 32 0x50196220 = some (.vcvt 0x19 0x18 8 1 0 none) ∧ decodeTableWord 32 0x539A6030 = some (.vtrit 0x1A 0x18 3 0 none) ∧
    decodeTableWord 32 0x519803D0 = some (.viota 0x18 0x3D 0 none) ∧ decodeTableWord 32 0x51D05340 = some (.vcur 2 5 3 1) ∧
    decodeTableWord 32 0x53000050 = some (.trel 5 none) ∧ (readSlot (some 9) 0x521B8400).toOption = some (.vcurs 0x1B (some 9)) := by
  decide
/-- 07: WBFILL wb5, h1, 8; MMA z2, h3, wb5, 4, 16; ARD c1, z2, 8, 8; AGRD c1, z2, 5, guard; MWAIT all; ANORM z2, s9. -/
theorem test_decode_mtx :
    decodeTableWord 32 0x60000A83 = some (.wbfill 1 5 3 none) ∧ decodeTableWord 32 0x60841AC4 = some (.mma 2 3 5 4 0 4 none) ∧
    decodeTableWord 32 0x6184C883 = some (.ard 2 0x19 8 0 3) ∧ decodeTableWord 32 0x6244C858 = some (.agrd 2 0x19 5 1) ∧
    decodeTableWord 32 0x63000020 = some (.mwait 0 0 2) ∧ (readSlot (some 9) 0x61450800).toOption = some (.anorm 2 0x21 (some 9)) := by
  decide
/-- 08: HUPD h2, c1 ?p3; HSTEP h1, -4; HRWD h1, pop; HLEASE h2, s9, 16, back. -/
theorem test_decode_head :
    decodeTableWord 32 0x71099003 = some (.hupd 2 0x19 3 none) ∧ decodeTableWord 32 0x71440FC0 = some (.hstep 1 0xFC none) ∧
    decodeTableWord 32 0x72040010 = some (.hrwd 1 1) ∧
    (readSlot (some 9) 0x738A1140).toOption = some (.hlease 2 0x21 1 4 (some 9)) := by decide
/-- 09: WRST w2; KTAG s5, s6; SST.w s6, s7; KSCAT s10, s11, s12, s13, 3. -/
theorem test_decode_copy :
    decodeTableWord 32 0x80840000 = some (.wrst 2) ∧ decodeTableWord 32 0x820A6000 = some (.ktag 5 6) ∧
    decodeTableWord 32 0x82CC7002 = some (.sst 6 7 2) ∧ decodeTableWord 32 0x8194B637 = some (.kscat 10 11 12 13 3) := by decide
/-- 13: ST.d s7, [s6+16]; LDA.d.chip s8, [s9]; LDV.d s4, [s6+512]. -/
theorem test_decode_qmem :
    decodeTableWord 32 0x904E60B0 = some (.st 7 6 2 3 0 0 none) ∧ decodeTableWord 32 0x90909038 = some (.lda 8 9 0 3 2 0 none) ∧
    decodeTableWord 32 0x91086070 = some (.ldv 4 6 1 3 none) := by decide
/-- 11, 12: SFGO s5, s7, seal; SFSTAT s9, s5, 1; QDIM s4, 3; QSCR.shift s6. -/
theorem test_decode_fab :
    decodeTableWord 32 0xA0405381 = some (.sfgo 5 7 1) ∧ decodeTableWord 32 0xA0925001 = some (.sfstat 9 5 1) ∧
    decodeTableWord 32 0xA1404003 = some (.qdim 4 3) ∧ decodeTableWord 32 0xA2C06020 = some (.qscrShift 6) := by decide
/-- 16: KLAUNCHC s21, s1, now, from the fields of R295's table. -/
theorem test_decode_graph : decodeTableWord 32 0b1011000001_00000_10101_00001_000000_1 = some (.klaunchc 21 1 1) := by decide

end


/-! ### States -/

/-- A task of one quire with one core filled in. -/
def oneTask (k : Core) : Task := { Task.start with quires := [0], cores := [(0, k)] }

/-- A booted device that runs one task. -/
def runs (k : Task) : State := { State.reset with fw := { Firmware.start with boot := .booted }, tasks := [(0, k)] }

/-- A booted device whose task 0 has one core filled in. -/
def on (k : Core) : State := runs (oneTask k)

/-- A kernel of `n` bundles whose text begins with these bytes, placed from outside. -/
def textState (l : List Byte) (n : Nat) : State :=
  { State.reset.loadOneBundle l with folios := [(0, ⟨⟨0, 0, 1, 0, 1, [⟨0, n, 1, false, 0, false, [], [], [], [], []⟩]⟩, 0x10001, [[]]⟩)] }

/-- The state after a step that gives one. -/
def after (o : Out) : Option State :=
  match o with
  | .next s => some s
  | _ => none

/-- A segment of plane 0 with one live column, whose trits are all zero (07 R138). -/
def oneColumn : List Byte := [1, 0, 1] ++ List.replicate 93 0

/-- Tables at 0x10000 to 0x13FFF through which context 0 reads and writes 2 MiB from address 0 on at this frame. -/
def tables (frame : Nat) : Memory :=
  [(0x10000, 1), (0x10001, 0x10), (0x10002, 1), (0x11000, 1), (0x11001, 0x20), (0x11002, 1), (0x12000, 1), (0x12001, 0x30),
    (0x12002, 1), (0x13000, 0x0F), (0x13003, BitVec.ofNat 8 (frame / 2 ^ 24))]

/-- A state whose context 0 has those tables, with the frame 0x40000000. -/
def mapped (s : State) : State := { s with mem := tables 0x40000000, ctxs := [(0, { Context.start with root := 0x10000 })] }

/-! ### Single steps and values that the spec works out -/

section
set_option maxRecDepth 100000

/-- 05: FMTSET elem=BF16, rnd=RTZ as the first instruction after reset: one format image is owed, no trap. -/
theorem test_step_fmtset : (after (step (State.reset.withFetchWord 32 0x22401006))).map
    (fun s => (s.issued.map (·.eff), s.traps.length)) = some ([.fmt 0x1006], 0) := by decide

/-- 05 R104: conversions of the table: 470 to E4M3 saturates, −2^−10 ties to even, −2.5 rounds to −2, 300 clamps to 127. -/
theorem test_conversions :
    let m : Modes := (on Core.start).modes
    convert m 4 true (valueOf 8 false 0x43EB0000) = 0x7E ∧ convert m 4 true (valueOf 8 false 0xBA800000) = 0x80 ∧
    extend 0 (convert m 0 true (valueOf 8 false 0xC0200000)) = 0xFFFFFFFE ∧
    extend 0 (convert m 0 true (valueOf 8 false 0x43960000)) = 0x7F := by decide

/-- 12: the first four points of the worked example: V[0] = 2^31, V[1] = 2^31 + 2^30, L[1] = 2^30, E = 2^28. -/
theorem test_sequence_points :
    let u : SeqUnit := { SeqUnit.start with v := [(0, 0x80000000), (1, 0xC0000000)], l := [(1, 0x80000000)], e := [(0, 0x10000000)] }
    u.point 0 0 = 0x10000000 ∧ u.point 0 1 = 0xD0000000 ∧ u.point 0 2 = 0x90000000 ∧ u.point 0 3 = 0x50000000 := by decide

end

/-! ### A state that meets the hypotheses of each statement: slots -/

section
set_option maxRecDepth 100000

theorem witness_ScalarResults : (on Core.start).gateOpen 0 0 ∧ ¬(on Core.start).gateOpen 0 1 := by
  unfold State.gateOpen; decide
theorem witness_PredicateOperationResults : (on { Core.start with p := [(11, 1)] }).gateOpen 11 0 := by unfold State.gateOpen; decide
theorem witness_ImmediateResults : (11 : BitVec 5) ≠ 0 := by decide
theorem witness_ClosedGatesAndNopsChangeNothing : ¬(on Core.start).gateOpen 11 0 := by unfold State.gateOpen; decide

/-- A text of two bundles: CALL to the next bundle, and a bundle that carries MARK. -/
def callAndMark : State := textState (leBytes 4 0x20C00001 ++ List.replicate 12 0 ++ leBytes 4 0xF8000000 ++ List.replicate 12 0) 2

theorem witness_TransfersTrapsAndTwinCompares_kernel : (callAndMark.kernel 0).map (·.bundles) = some 2 := by decide
theorem witness_TransfersTrapsAndTwinCompares_ret :
    (callAndMark.bundleAt 0 0).map (fun b => b.slots.any fun x => x.toOption = some (.call 1)) = some true := by decide
theorem witness_TransfersTrapsAndTwinCompares_jr :
    (callAndMark.bundleAt 0 1).map (fun b => b.hdr.map (·.mark)) = some (some true) ∧
    (callAndMark.bundleAt 0 0).map (fun b => b.hdr.map (·.mark)) = some none ∧ (callAndMark.me.reg 31).toNat = 0 := by decide
theorem witness_TransfersTrapsAndTwinCompares_mayReturn : callAndMark.mayReturn 1 ∧ callAndMark.mayJump 1 :=
  ⟨⟨_, _, 1, rfl, by decide, by decide, rfl, .head _⟩, ⟨_, _, _, rfl, by decide, by decide, rfl, rfl, rfl⟩⟩
theorem witness_TransfersTrapsAndTwinCompares_not : ¬callAndMark.mayReturn 0 ∧ ¬callAndMark.mayJump (-1) :=
  ⟨fun ⟨_, _, _, _, h, _⟩ => absurd h (by decide), fun ⟨_, _, _, _, h, _⟩ => absurd h (by decide)⟩
theorem witness_WaitFormatAndHalt : (∀ e ∈ Core.start.fmtNext, e.1 ≤ 0) ∧ 0 ≤ 5 := by decide
theorem witness_SpecialRegistersReadAndWrite : (on { Core.start with twin := 3 }).me.twin = 3 := by decide
theorem witness_TransfersTrapsAndTwinCompares_twin :
    let s := on { Core.start with s := [(3, 1)], twin := 3 }
    s.me.twin.getLsbD 0 = true ∧ s.me.twin.getLsbD 1 = true ∧ s.me.reg 3 ≠ s.me.reg 19 ∧
    (on { Core.start with twin := 1 }).me.twin.getLsbD 1 = false := by decide
theorem witness_TransfersTrapsAndTwinCompares_tile :
    let s := on { Core.start with twin := 1, tiles := [(16 * 47, List.replicate 128 1)] }
    lane (s.me.tileRow 7 0) 127 ≠ lane (s.me.tileRow 47 0) 127 := by decide
/-- A core on which tile 79, accumulator 23 and weight slot 15 hold double-bit errors. -/
def sramCore : Core := { Core.start with twin := 1, sram := [(0, 16 * 79 + 15), (1, 23), (2, 15)] }
theorem witness_TransfersTrapsAndTwinCompares_sram :
    let s := on sramCore
    s.me.twin.getLsbD 0 = true ∧ (∃ r < 16, (0, 16 * 39 + r) ∈ s.me.sram ∨ (0, 16 * (39 + 40) + r) ∈ s.me.sram) := by decide
theorem witness_FencesQueue : (Instr.fencec 31 3, QKind.fencec, 31) ∈
    [(Instr.fence 3, QKind.fence, 0), (.fencec 31 3, .fencec, 31), (.scfence 31 3, .scfence, 31)] := by simp

/-- Tile 79 allocated, and cursor 7 on its last row. -/
def tileCore : Core := { Core.start with tallocmap := 2 ^ 79, c := [(7, ⟨79, 15, 1⟩)] }

theorem witness_RowSourcesDeliver :
    (on tileCore).me.tallocmap.getLsbD ((on tileCore).me.cursor 7).tile.toNat = true ∧ (0, 16 * 79 + 15) ∉ (on tileCore).me.sram ∧
    (on Core.start).me.tallocmap.getLsbD ((on Core.start).me.cursor 7).tile.toNat = false := by decide

/-- An open head on a tape of six INT16 elements, in a mode, at a position. -/
def headState (mode : HeadMode) (pos : Word) : State :=
  (on { Core.start with
    h := [(15, { Head.start with status := .opened, oid := 1, handle := 5, mode := mode, grain := 4, fmt := 2, pos := pos, win := [(0, ⟨List.replicate 64 1, 0⟩)] })] }).setTape 0 5
      { TapeEntry.start with valid := true, length := 6, capacity := 8, base := 4096, format := 2 }

theorem witness_HeadsAndWalkersDeliver_head :
    let s := headState .read 4
    s.me.engages true 15 = false ∧ (s.me.head 15).status = .opened ∧ (s.me.head 15).pos.toInt = 4 ∧
    (s.tape 0 5).length.toNat = 6 ∧ (s.windowElem 0 0 15 4096 2 5).2 = false := by decide
/-- A raw walker of 128 bytes at the beginning of the slice. -/
def walkState (w : Walker) : State := on { Core.start with w := [(7, w)] }

theorem witness_HeadsAndWalkersDeliver_walker :
    let s := walkState { Walker.start with loaded := true, cfg := 16 }
    s.me.engages false 7 = false ∧ (s.me.walker 7).loaded = true ∧ (s.me.walker 7).leaf = false ∧ (s.me.walker 7).width = 1 ∧
    (s.readTimed 0 0 0 128 1 0 0).toOption.isSome = true := by decide
theorem witness_RowDestinationsTake :
    (on tileCore).me.tallocmap.getLsbD 79 = true ∧
    ((headState .append 4).me.head 15).mode = .append ∧ 4 + ((headState .append 4).me.head 15).grain ≤ 8 ∧
    (walkState { Walker.start with loaded := true, cfg := 16 }).myTask.spadFault 0 0 128 1 = none := by decide

/-- The zero row read from the source code 0x20, in an element format. -/
def zeroSource (e : BitVec 4) : State := on { Core.start with fmt := e.zeroExtend 22 }

theorem witness_delivers (e : BitVec 4) : ∃ r, (zeroSource e).delivers 0x20 none (zeroSource e).elem r (zeroSource e) := ⟨_, rfl, rfl⟩
theorem witness_RowOperationResults : ∀ e : BitVec 4, e.toNat ≤ 10 → (zeroSource e).elem = e.toNat := by decide
theorem witness_RowComparesSelectsAndAccumulates :
    noPoison ((zeroSource 9).me.pred 0) (List.replicate 128 1) ∧ (zeroSource 9).elem = 9 := by unfold noPoison; decide
theorem witness_RowReductions :
    (zeroSource 0).elem ∈ lettersI ∧ (zeroSource 8).elem ∈ lettersF ∧ ((zeroSource 0).me.pred 1).getLsbD 127 = false ∧
    ((zeroSource 0).me.pred 0).getLsbD 127 = true := by decide
theorem witness_RowMoves : (zeroSource 10).elem ≠ 9 := by decide
theorem witness_RowImmediatesAndConversions : (zeroSource 10).elem ∈ lettersI ∧ (zeroSource 8).elem ∈ lettersI ++ lettersF := by decide
theorem witness_RowFormatTraps :
    (zeroSource 9).elem < 11 ∧ ¬noPoison ((zeroSource 9).me.pred 0) (List.replicate 128 2) ∧ (zeroSource 8).elem ∉ lettersI := by
  unfold noPoison; decide
theorem witness_RowFormatTraps_poison :
    let s := on { tileCore with tiles := [(16 * 79 + 15, List.replicate 128 2)], fmt := 9 }
    s.elem = 9 ∧ ∃ ra rb t, s.delivers2 0x1F 0x20 none 9 ra rb t ∧ ¬(noPoison (s.me.pred 0) ra ∧ noPoison (s.me.pred 0) rb) := by
  refine ⟨by decide, _, _, _, ⟨_, ⟨rfl, rfl⟩, rfl, rfl⟩, fun h => absurd (h.1 0 (by decide) (by decide)) (by decide)⟩
theorem witness_CursorsAndTiles :
    let s := on { Core.start with s := [(31, 80)], tallocmap := 2 ^ 79 }
    79 < (s.me.reg 31).toNat % 128 ∧ s.me.tallocmap.getLsbD 79 = true ∧ s.me.tallocmap.getLsbD 78 = false ∧
    (∀ i < 80, 80 ≤ i → s.me.tallocmap.getLsbD i = false) := by decide
theorem witness_MatrixCommandsQueue :
    let s := on { tileCore with mtx := { Matrix.start with slots := [(15, { WbSlot.start with bytes := oneColumn, valid := true, bitmap := 1 })] } }
    s.queueFull = false ∧ (s.me.segmentPlane 15 0).toOption.isSome = true ∧ (s.planeFor 15 0).toOption.isSome = true := by decide
theorem witness_MatrixCommandsQueue_supplies :
    ∃ src uses engaged t, (on tileCore).supplies 0x20 none [1, 2] src uses engaged t := ⟨_, _, _, _, rfl, rfl⟩
theorem witness_AccumulatorsAreWrittenAndRead :
    (∃ row t, (on tileCore).pops 0x20 none row t ∧ ∀ j < 64, (row.getD j 0).toNat % 64 = 0) ∧ (1, 23) ∉ (on tileCore).me.sram ∧
    ((get (on { Core.start with mtx := { Matrix.start with rowExp := [(64 * 23 + 63, 127)] } }).me.mtx.rowExp 0 (64 * 23 + 63)).toInt = 127) := by
  refine ⟨⟨_, _, ⟨rfl, rfl⟩, ?_⟩, ?_, ?_⟩ <;> decide
theorem witness_AccumulatorsAreWrittenAndRead_sram :
    (∃ row t, (on sramCore).pops 0x20 none row t) ∧ (1, 23) ∈ (on sramCore).me.sram ∧ (2, 15) ∈ (on sramCore).me.sram :=
  ⟨⟨_, _, rfl, rfl⟩, by decide, by decide⟩
theorem witness_MatrixRowPlaces :
    let s := on { tileCore with mtx := { Matrix.start with engaged := [⟨true, 15, none, none⟩, ⟨false, 6, none, none⟩] } }
    s.me.engages true 15 = true ∧ s.me.engages false 6 = true ∧ s.me.engages false 7 = false ∧
    s.me.tallocmap.getLsbD ((s.me.cursor 7).after (s.me.twin.getLsbD 0) 0).tile.toNat = true ∧
    s.me.tallocmap.getLsbD ((s.me.cursor 7).after (s.me.twin.getLsbD 0) 1).tile.toNat = false := by decide
theorem witness_HeadsOpenAndClose :
    (on Core.start).me.engages true 15 = false ∧ ((on Core.start).me.head 15).status = .closed ∧
    ((headState .append 0).me.head 15).status ≠ .closed := by decide
theorem witness_mayUse :
    (headState .read 0).mayUse 15 [.read] ∧ (headState .append 0).mayUse 15 [.append] ∧ (headState .update 0).mayUse 15 [.append, .update] := by
  unfold State.mayUse; decide
theorem witness_HeadsMove :
    ((headState .read 0).me.head 15).marks.length < 4 ∧ ((headState .read 0).me.head 15).marks = [] := by decide
theorem witness_HeadRowsPass :
    ((headState .read 4).deliver 0 0 15).toOption.isSome = true ∧
    ((headState .append 4).headStore 0 0 15 Row.zero).toOption.isSome = true ∧
    ((headState .update 5).headStore 0 0 15 Row.zero).toOption.isSome = true := by decide
theorem witness_HeadTraps :
    ((on Core.start).me.head 15).status ≠ .opened ∧
    (on { Core.start with mtx := { Matrix.start with engaged := [⟨true, 15, none, none⟩] } }).me.engages true 15 = true := by decide
theorem witness_WalkersAreSet :
    (on Core.start).me.engages false 7 = false ∧ ((on Core.start).me.walker 7).loaded = false ∧
    ((walkState { Walker.start with loaded := true }).me.walker 7).loaded = true ∧
    (on { Core.start with s := [(1, 127), (2, 128)] }).me.reg 1 = 127 := by decide
theorem witness_CommandTimes :
    (callAndMark.kernel callAndMark.cur.task).isSome = true ∧ 0 < (0 : Nat) + 1 ∧
    ((on Core.start).engineCmds 0).length = 0 := by decide
/-- Copy operands: 0x280000 bytes from the slice's beginning to the slice of core 7, at start cycle 1. -/
def copyState : State :=
  on { Core.start with s := [(1, 0xFFFFFFFFFFFFFFFF - 2 ^ 32 + 1 - (2 ^ 64 - 2 ^ 57)), (2, 0x280000), (3, 1), (4, 2 ^ 48 * 2 + 2 ^ 32)] }

theorem witness_CopiesQueue :
    (copyState.endpoint (copyState.me.reg 1).toNat 0x280000 false).toOption = some (.slice 0) ∧
    (copyState.endpoint (copyState.me.reg 1).toNat 0x280000 true).toOption = some (.slice 0) ∧
    copyState.timingFail 0 1 = none ∧ copyState.descriptor (copyState.me.reg 4) = some (0, 1, 2) ∧
    copyState.descriptor 0 = none := by decide
theorem witness_CopiesQueue_memory :
    let s : State := { mapped copyState with
      mem := Memory.set (tables 0x40000000) 0x13001 1
      pins := [⟨0, 0, 2 ^ 21, 1, 0x4000010F⟩] }
    ((s.endpoint 0 64 true).toOption.map Endpoint.isMemory) = some true ∧
    ((s.endpoint (copyState.me.reg 1).toNat 64 false).toOption.map Endpoint.isMemory) = some false := by decide
theorem witness_LeafTableScratchpadAndStatus :
    let s := on { Core.start with leaf := [(1023, { LeafEntry.start with valid := true })] }
    (s.me.leafEntry 1023).valid = true ∧ (s.me.leafEntry 0).valid = false ∧ (s.readTimed 0 0 0x27FFF8 8 8 2 0).toOption.isSome = true ∧
    s.myTask.spadFault 0 0x27FFF8 8 8 = none := by decide
theorem witness_ScratchpadReads :
    let s := on Core.start
    0x27FFF8 + 8 ≤ 0x280000 ∧ (0x27FFF8 : Nat) < 2 ^ 31 ∧ 0 < 8 * s.myTask.quires.length ∧ s.me.checker = none ∧ s.banks = [] ∧
    s.me.sram = [] := by decide
theorem witness_AccessesQueue :
    (on Core.start).windowTarget (2 ^ 57 - 2 ^ 32 - 8) 8 1 = .ok .untranslated ∧ (on Core.start).entriesHeld 0 0 < 2048 ∧
    (2 ^ 57 - 2 ^ 32 - 8) % 8 = 0 := by
  refine ⟨rfl, ?_, ?_⟩ <;> decide
theorem witness_RowAccessesQueue :
    (on Core.start).myTask.spadFault 0 0 1024 64 = none ∧ ((on Core.start).readTimed 0 0 0 1024 64 6 0).toOption.isSome = true := by decide
theorem witness_QueuedAddressTraps :
    ∀ n < 2048, (on Core.start).entriesHeld 0 0 ≤ n ∧ inWindow (2 ^ 57 - 2 ^ 32 - 8) = false := by
  intro n _; exact ⟨Nat.zero_le n, by decide⟩

/-- Stream 3 bound to task 0's core 0, with a record. -/
def streamState : State := { on Core.start with streams := [(3, { Stream.start with owner := some 0, bound := true })] }

theorem witness_StreamInstructions :
    streamState.streamOf 3 = some 3 ∧ streamState.streamOf 4 = none ∧ (streamState.streamRuns 0 3).length = 0 := by decide
theorem witness_SequenceInstructions :
    (∀ l < 128, (l : Nat) ∉ (on Core.start).me.seq.bad) ∧ 255 + 1 ≤ 256 ∧ (on Core.start).myTask.spadFault 0 0 320 1 = none ∧
    (on Core.start).timingFail 6 1 = none := by decide
theorem witness_GraphInstructions : (on Core.start).launchList 0 = [] ∧ (2 ^ 57 - 64) % 64 = 0 := by decide

end

/-! ### A state that meets the hypotheses of each statement: memory -/

section
set_option maxRecDepth 100000

theorem word_congr (m n : Memory) (a : Nat) (h : ∀ i < 8, Memory.byte m (a + i) = Memory.byte n (a + i)) :
    Memory.word m a = Memory.word n a := by
  unfold Memory.word Memory.bytes
  congr 2
  apply List.map_congr_left
  intro i hi
  exact h i (List.mem_range.1 hi)

/-- One level of the walk, through a table entry. -/
theorem walk_step (u : State) (va table level e fuel : Nat) (hi : va / 2 ^ pageBits level % 512 = 0) (hl : level < 4)
    (he : Memory.word u.mem table = BitVec.ofNat 64 e) (h0 : bitAt (BitVec.ofNat 64 e) 0 = true)
    (h1 : bitAt (BitVec.ofNat 64 e) 1 = false) (h2 : bits (BitVec.ofNat 64 e) 52 12 = 0) (h3 : bits (BitVec.ofNat 64 e) 2 10 = 0) :
    u.walkFrom va table level (fuel + 1) = u.walkFrom va (leafFrame (BitVec.ofNat 64 e)) (level + 1) fuel := by
  rw [State.walkFrom]
  simp [hi, he, h0, h1, h2, h3]
  omega

theorem walk_leaf (u : State) (va fuel : Nat) (hv : va < 2 ^ 21) (he : Memory.word u.mem 0x13000 = 0x4000000F) :
    u.walkFrom va 0x13000 3 (fuel + 1) = .ok (0x40000000 + va % 2 ^ 21) 0x4000000F (2 ^ 21) := by
  have d3 : va / 2097152 % 512 = 0 := by omega
  have l : u.leafOk 3 2097152 1073741839#64 = true := by rfl
  rw [State.walkFrom]
  simp [show pageBits 3 = 21 by decide, d3, he, l, show bitAt 1073741839#64 0 = true by decide,
    show bitAt 1073741839#64 1 = true by decide, show leafFrame 1073741839#64 = 0x40000000 by decide]

theorem walk_mapped (u : State) (hr : (get u.ctxs Context.start 0).root = 0x10000)
    (h : ∀ a < 0x20000, Memory.byte u.mem a = Memory.byte (tables 0x40000000) a) (va : Nat) (hv : va < 2 ^ 21) :
    u.walk 0 va = .ok (0x40000000 + va % 2 ^ 21) 0x4000000F (2 ^ 21) := by
  have e (a : Nat) (ha : a + 8 < 0x20000) : Memory.word u.mem a = Memory.word (tables 0x40000000) a :=
    word_congr _ _ _ fun i hi => h _ (by omega)
  have v : va % 2 ^ 57 = va := by omega
  have w : inWindow va = false := by simp only [inWindow, decide_eq_false_iff_not]; omega
  rw [State.walk, w, if_neg (by decide), hr, v,
    walk_step u va 0x10000 0 0x11001 4 (by simp only [pageBits]; omega) (by decide) ((e _ (by decide)).trans (by decide)) (by decide) (by decide) (by decide) (by decide),
    show leafFrame (BitVec.ofNat 64 0x11001) = 0x11000 by decide,
    walk_step u va 0x11000 1 0x12001 3 (by simp only [pageBits]; omega) (by decide) ((e _ (by decide)).trans (by decide)) (by decide) (by decide) (by decide) (by decide),
    show leafFrame (BitVec.ofNat 64 0x12001) = 0x12000 by decide,
    walk_step u va 0x12000 2 0x13001 2 (by simp only [pageBits]; omega) (by decide) ((e _ (by decide)).trans (by decide)) (by decide) (by decide) (by decide) (by decide),
    show leafFrame (BitVec.ofNat 64 0x13001) = 0x13000 by decide]
  exact walk_leaf u va 1 hv ((e _ (by decide)).trans (by decide))

/-- The tables decide where an address lies, whatever its page holds. -/
theorem witness_mapsTo : (mapped (runs Task.start)).mapsTo 0 0 8 0x40000000 := by
  refine ⟨by decide, ?_⟩
  intro m h b _ hb
  have w := walk_mapped { mapped (runs Task.start) with mem := m } rfl (fun a ha => h a (.inl (by omega))) b (by omega)
  show (match State.walk _ 0 b with | .ok pa leaf _ => if leafHome leaf = 2 then none else some pa | _ => none) = _
  rw [w]
  show some _ = some _
  congr 1
  omega
end

/-! ### A state that meets the hypotheses of each statement: events -/

section
set_option maxRecDepth 100000

/-- Task 0 owes one effect of core 0 at dc 0. -/
def owing (e : Eff) : State := runs { oneTask Core.start with owed := [⟨5, 0, 0, 0, 0, e⟩], tapes := [7] }

/-- The same, with tape 7 of context 0 in a state of life. -/
def owingTape (e : Eff) (state : BitVec 2) : State := (owing e).setTape 0 7 { TapeEntry.start with valid := true, state := state }

def tableEff (op : TableOp) : Eff := .table 15 7 3 op 31 0 false

theorem witness_OwedWritesPerform :
    (owing (.scalar 31 7)).dueOwed 0 5 = some ⟨5, 0, 0, 0, 0, .scalar 31 7⟩ ∧ (Eff.scalar 31 7).isTimed = true ∧
    (Eff.pred 11 1 1).isTimed = true ∧ (Eff.tileRow 79 15 1 Row.zero).isTimed = true ∧
    get ((owing (.scalar 31 7)).core 0 0).loadSeq 0 31 ≤ 5 := by decide
theorem witness_OwedWritesPerform_leaf :
    let data := List.replicate 128 (1 : Byte)
    let s := owing (.leafWrite 0 1023 0 data false)
    (s.dueOwed 0 5).isSome = true ∧ (buildLeaf [] 0 data).len ≤ 65 ∧ 0 < (buildLeaf [] 0 data).len ∧ (s.task 0).captured = [] ∧
    s.banks = [] ∧ 64 * 65535 + (buildLeaf [] 0 data).from' < 2 ^ 22 ∧ Memory.wf ((s.task 0).core 0).slice := by decide
theorem witness_OwedWritesPerform_port :
    let s := (owing (.leafWrite 0 1023 0 (List.replicate 128 1) true)).setCore 0 0 fun k =>
      { k with leaf := [(1023, { LeafEntry.start with valid := true, cap := 64 })] }
    (s.dueOwed 0 5).isSome = true ∧ (((s.task 0).core 0).leafEntry 1023).valid = true ∧
    0 < (((s.task 0).core 0).leafEntry 1023).cap.toNat := by decide
theorem witness_TapesHeadsStreamsAndLaunches_tables :
    (∀ op ∈ [TableOp.new_ 128, .open_ true false 1, .open_ false true 1, .lease true 1, .free_, .closeRead, .closeWrite .append true 4,
        .closeWrite .update false 4],
      ∀ st ∈ [(0 : BitVec 2), 1, 2, 3], let s := owingTape (tableEff op) st
        (s.dueOwed 0 5).isSome = true ∧ s.boundTape 0 7 = true ∧ s.closeReady 0 ⟨5, 0, 0, 0, 0, tableEff op⟩ = true ∧ (s.tape 0 7).state = st ∧
        ((s.dropOwed 0 5).appending 0 7 || (s.dropOwed 0 5).streamAppends 0 7) = false ∧ (s.tape 0 7).readers = 0) ∧
    (owing (tableEff .closeRead)).boundTape 0 7 = false := by decide
theorem witness_TapesHeadsStreamsAndLaunches_stands :
    (owing (.hwait 3 31)).resultStands 0 0 5 31 ∧ (owing (.hwait 3 31)).headSettled 0 0 3 5 = true ∧
    ((owing (.headWrite 3 7 2 [(5, 1)] false 15 5)).dueOwed 0 5).isSome = true := by unfold State.resultStands; decide

/-- A tensor record of one element at address 0 (11 R213). -/
def tinyRecord : List Word := [0, 0x0000000100000001, 0x0000000100000001, 0, 0, 0, 0, 0, 0, 0, 7 + 0xFF * 2 ^ 32, 0]

theorem witness_TapesHeadsStreamsAndLaunches_streams :
    let st : Stream := { Stream.start with owner := some 0, bound := true, gen := 3, handle := 7 }
    let s : State := { owingTape (.sfrel 191 3 0) 1 with streams := [(191, st)] }
    (s.stream 191).bound = true ∧ (s.stream 191).gen = 3 ∧ (s.stream 191).owner = some 0 ∧
    (owing (.sfbind 31 tinyRecord false 0)).recordInstance 0 tinyRecord false = none := by decide
theorem witness_TapesHeadsStreamsAndLaunches_posts :
    let p : Post := ⟨5, 0, 0, true, true, 0, 1, 1, none, 0, false⟩
    let q : CompletionQueue := ⟨0, 64, 63, 0, [], false⟩
    let s : State := { runs { oneTask Core.start with posts := [p], qsyncs := [(0, 6, 31)], refill := some (0, [(0, 15, 0)]) } with
      ctxs := [(0, { Context.start with cq := some q })] }
    s.alive = true ∧ s.post 0 5 = some p ∧ s.postReady 0 p = true ∧ q.producer < q.consumed + q.size ∧
    (s.task 0).qsyncs.find? (fun q => q.2.1 = 7) = none ∧ (s.task 0).refill = some (0, [(0, 15, 0)]) ∧ 0 ≤ s.gcyc := by decide

/-- A task whose core 0 holds a command in an engine. -/
def engineState (e : Nat) (g : Engine) : State := mapped (runs { oneTask { Core.start with engines := [(e, g)] } with dc := 40 })

def copyCmd (src dst : Nat) : Cmd := ⟨3, 0, 0, 0, 0, 40, 40, .copy src dst 4⟩

theorem witness_EnginesStartAndPerform_start :
    let s := engineState 3 ⟨[copyCmd 0 (2 ^ 57 - 2 ^ 32)], none, 0⟩
    (((s.core 0 0).engine 3).pending.find? (·.start = (s.task 0).dc)) = some (copyCmd 0 (2 ^ 57 - 2 ^ 32)) ∧
    s.badRecord 0 (copyCmd 0 (2 ^ 57 - 2 ^ 32)).op = none ∧
    (s.badRecord 0 (.gather (2 ^ 57 - 2 ^ 32 + 2 ^ 31) 0 0 1 6)).isSome = true := by decide
theorem witness_EnginesStartAndPerform_perform :
    let r : Running := ⟨copyCmd 0 (2 ^ 57 - 2 ^ 32), 1, [1, 2, 3, 4], [], none, []⟩
    let w : Running := ⟨copyCmd (2 ^ 57 - 2 ^ 32) 0, 1, [1, 2, 3, 4], [], none, []⟩
    let s := engineState 3 ⟨[], some r, 0⟩
    s.performing 0 0 3 = some r ∧ s.cmdWrites 0 0 r = [(2 ^ 57 - 2 ^ 32, [1, 2, 3, 4])] ∧ inWindow (2 ^ 57 - 2 ^ 32) = true ∧
    s.cmdWrites 0 0 w = [(0, [1, 2, 3, 4])] ∧ inWindow 0 = false ∧ (s.task 0).captured = [] ∧ Memory.wf s.mem := by decide
theorem witness_EnginesStartAndPerform_errors :
    let s := engineState 3 ⟨[], none, 0⟩
    (State.executableFail { s with fw := { s.fw with attrFrames := [(0x40000000, 2 ^ 21, 2)] } } 0 [(0, 4)]).isSome = true ∧
    s.executableFail 0 [(0, 4)] = none ∧ s.reduceFail 0 (.reduce 0 (2 ^ 57 - 2 ^ 32) 64 8) = none ∧
    (State.reduceFail (s.setCore 0 0 fun k => { k with sram := [(3, 0)] }) 0 (.reduce 0 (2 ^ 57 - 2 ^ 32) 64 8)).isSome = true := by decide
theorem witness_EnginesStartAndPerform_suspend :
    let r : Running := ⟨copyCmd 0 (2 ^ 57 - 2 ^ 32), 1, [0, 0, 0, 0], [], some (0, 0x40000000 / 64), []⟩
    let s := (engineState 3 ⟨[], some r, 0⟩).setTask 0 fun k => { k with service := some ⟨.replay 0, [], 0, false⟩ }
    ((s.core 0 0).engine 3).running = some r ∧ (s.task 0).dc - r.cmd.start = 0 ∧ s.pieceFail 0 r 0 = none ∧ 0 ≤ s.gcyc := by decide
theorem witness_EnginesStartAndPerform_others :
    let load : Running := ⟨⟨3, 0, 0, 0, 0, 1, 40, .qload 0 255 1⟩, 1, List.replicate 320 1, [], none, []⟩
    let run : Running := ⟨⟨3, 0, 0, 0, 0, 1, 40, .run 191 0xFF 0 true false⟩, 1, [], [], none, []⟩
    let d : Debt := ⟨3, 0, 5, 0, 0, 1, 40, [7]⟩
    (engineState 6 ⟨[], some load, 0⟩).performing 0 0 6 = some load ∧ (engineState 5 ⟨[], some run, 0⟩).performing 0 0 5 = some run ∧
    (engineState 5 ⟨[], some run, 0⟩).bill 0 0xFF = none ∧
    (fun d : Debt => d.core = 0 && d.engine = 5 && d.deadline ≤ 40 && !d.lines.isEmpty) d = true := by decide

/-- A task with a matrix unit, at mc 40. -/
def matrixState (m : Matrix) : State := runs { oneTask { Core.start with mtx := m } with mc := 40 }

theorem witness_MatrixEventsPerform :
    let fill : FillCmd := ⟨3, 0, 0, 15, 1, .fixed Row.zero, 39, oneColumn ++ List.replicate 32 0⟩
    let plane : Plane := { Plane.start with id := 3, validAt := 40, cols := [(511, 127, [(127, true)])] }
    let mma : MmaCmd := ⟨3, 0, 0, false, 20, 3, plane, true, 1, 1, .fixed Row.zero, 0, 40, [⟨63, 40, [1], 127⟩], [], []⟩
    let s := matrixState { Matrix.start with
      fills := [fill], loads := [⟨plane, 8, false⟩], mmas := [mma], rowExp := [(64 * 23 + 63, 127)], laneExp := [(128 * 23 + 127, 127)] }
    let m := (s.core 0 0).mtx
    fill.start + fill.rows ≤ (s.task 0).mc ∧ segOk (fill.bytes.take 16384) = true ∧ segOk (List.replicate 64 0) = false ∧
    (m.loads.find? fun l => l.plane.id = 3 && l.plane.validAt ≤ (s.task 0).mc).isSome = true ∧
    (m.mmas.find? fun a => a.id = 3 && a.start = (s.task 0).mc && a.swap) = some mma ∧
    mma.inFlight.filter (·.mc ≤ (s.task 0).mc) = [⟨63, 40, [1], 127⟩] ∧ (plane.cols.map (·.1)).Nodup ∧
    (∀ col ∈ plane.cols, m.rowExpOf (20 + col.1 / 128) 63 = 127 ∧ m.laneExpOf (20 + col.1 / 128) (col.1 % 128) = col.2.1) := by decide
theorem witness_MatrixEventsPerform_sram :
    let k := { sramCore with mtx := { Matrix.start with writes := [⟨3, 0, 0, 23, 40, .norm [63]⟩] } }
    ∃ w ∈ k.mtx.writes, w.id = 3 ∧ w.mc ≤ 40 ∧ w.op.reads = true ∧ (1, w.tile) ∈ k.sram := by decide
theorem witness_MatrixEventsPerform_writes : ∀ op ∈ [AccOp.norm [63], .writeRow 63 false Row.zero, .writeExps true Row.zero,
    .writeExps false Row.zero, .clear, .clearOvf, .bitmap 1],
    ((matrixState { Matrix.start with writes := [⟨3, 0, 0, 23, 40, op⟩] }).core 0 0).mtx.writes.filter (fun w => w.id = 3 && w.mc ≤ 40) =
      [⟨3, 0, 0, 23, 40, op⟩] := by decide

/-- A queued access of task 0 to memory, that was due. -/
def access (kind : QKind) (target : Target) : QAcc :=
  ⟨5, 0, 0, 0, 0, 0, kind, 0, 8, 3, none, 31, 1, 1, [1, 2, 3, 4, 5, 6, 7, 8], 0, 5, 0, 0, target, none, none, none, false⟩

def queued (a : QAcc) : State := { mapped (runs (oneTask Core.start)) with queue := [a] }

theorem witness_QueuedAccessesPerform_memory :
    (∀ kind ∈ [QKind.load, .acquire, .store, .release, .loadRow, .storeRow, .amo 7, .vamo true, .barriv, .barwait, .barinit],
      let a := access kind (.memory 0x40000000 true)
      let s := queued a
      s.acc 5 = some a ∧ s.mayPerform a = true ∧ s.lost 0x40000000 8 = false ∧ (s.task 0).status ≠ .failed) ∧
    (queued (access .load .untranslated)).mayPerform (access .load .untranslated) = false := by decide
theorem witness_QueuedAccessesPerform_barrier :
    let s0 := queued (access .barriv (.memory 0x40000000 true))
    let s : State := { s0 with
      mem := s0.mem ++ [(0x40000000, 1), (0x40000004, 2), (0x40000006, 255), (0x40000007, 255)]
      info := { s0.info with barScope := [(0x40000000, 3)] } }
    leNat (Memory.bytes s.mem 0x40000000 8) = 65535 * 2 ^ 48 + 2 * 2 ^ 32 + 1 ∧ get s.info.barScope 0 0x40000000 = 3 ∧ Memory.wf s.mem := by
  decide
theorem witness_QueuedAccessesPerform_slice :
    let a := access .acquire (.slice 0 (2 ^ 22 - 8))
    (queued a).mayPerform a = true ∧ (∀ l ∈ spadLines (2 ^ 22 - 8) 8, ((queued a).core 0 0).sramFail 3 l = none) := by
  refine ⟨by decide, ?_⟩
  intro l _
  rfl
theorem witness_QueuedAccessesPerform_captured :
    let s := (queued (access .store (.slice 0 (2 ^ 22 - 8)))).setTask 0 fun k => { k with captured := [⟨0, 1, 0, 0, 1, 9, [(2 ^ 22 - 8, 8)], []⟩] }
    ((s.task 0).captureFail (spadLines (0 * 2 ^ 22 + (2 ^ 22 - 8)) 8)).isSome = true ∧
    (s.task 0).captureFail (spadLines 0 8) = none := by decide
theorem witness_QueuedAccessesPerform_peer :
    let a := access .store (.peer 9 0)
    let s : State := { queued a with ports := [(11, { Port.start with chip := 9, up := true })] }
    s.mayPerform a = true ∧ s.portFor a 9 0 = some 11 ∧ s.portFor a 8 0 = none := by decide
theorem witness_QueuedAccessesPerform_fences :
    let a : QAcc := { access .fencec .untranslated with va := 2 ^ 57 - 8 }
    let s (reason : Nat) : State := (queued a).setTask 0 fun k => { k with nacked := [⟨0, 4, 0, 0, 0, reason⟩] }
    (queued a).fenceDone a = true ∧ ((queued a).task 0).nackBefore 0 5 = none ∧
    ((s 1).task 0).nackBefore 0 5 = some 1 ∧ ((s 2).task 0).nackBefore 0 5 = some 2 := by decide
theorem witness_QueuedAccessesPerform_walks :
    (queued (access .load .untranslated)).walking (access .load .untranslated) = true ∧
    (queued (access .load .untranslated)).walk 0 0 = .ok 0x40000000 0x4000000F (2 ^ 21) ∧
    (queued (access .load .untranslated)).walk 0 (2 ^ 21) = .page 3 0 ∧
    (queued (access .load .untranslated)).placeOf (access .load .untranslated) 0x4000000F 21 3 = .ok (.memory 0x40000000 false) := by
  refine ⟨by decide, walk_mapped _ rfl (fun a _ => rfl) 0 (by decide), ?_, by rfl⟩
  decide

/-- Task 0 with one command timeline, of physical channel 671 as its channel 39. -/
def lineState (r : TimelineRun) : State := { runs { oneTask Core.start with timelines := [(39, r)], dc := 500 } with chanOwner := [(671, 0)] }

theorem witness_MemoryIsKept_windows :
    let r : TimelineRun := { TimelineRun.start with phys := 671, act := [(15, 0)], pre := [(15, 101)] }
    let s := lineState r
    (s.task 0).timeline 671 = some (39, r) ∧ find? (s.task 0).timelines 39 = some r ∧ find? s.chanOwner 671 = some 0 ∧
    (500 < get ({ r with busyUntil := [(15, 501)] } : TimelineRun).busyUntil 0 15) ∧ find? s.tasks 0 = some (s.task 0) := by decide
theorem witness_MemoryIsKept_groups : (lineState TimelineRun.start).groups 0 ≤ 2 ^ 20 := by decide
theorem witness_MemoryIsKept_stall : (runs { Task.start with stallLen := 2401 }).alive = true ∧
    2400 < ((runs { Task.start with stallLen := 2401 }).task 0).stallLen ∧
    get (State.reset.dram.scores) 0 (rowKey 671 15 0) = 0 := by decide
/-- A fast tier below its watermark, with one allocation and one page on its way. -/
def tierState : State :=
  { mapped (runs Task.start) with
    tier := ⟨2 ^ 30, [⟨0, 0, 0, some 4, 0, false⟩], [⟨0, 0, 0x10000000000, false, 0⟩]⟩, fw := { Firmware.start with boot := .booted, fittedGiB := 80 } }

theorem witness_MemoryIsKept_tiers :
    tierState.victim = some ⟨0, 0, 0, some 4, 0, false⟩ ∧ tierState.leafAt 0 0 = some (0x13000, 3, 0x4000000F) ∧
    tierState.tier.moving.find? (fun m => m.ctx = 0 && m.va = 0) = some ⟨0, 0, 0x10000000000, false, 0⟩ ∧
    Memory.wf tierState.mem := by decide
theorem freePages_le (s : State) : s.freePages ≤ 2 ^ 18 := Nat.sub_le ..
theorem witness_MemoryIsKept_watermark : tierState.belowWatermark = true := by
  have h := freePages_le tierState
  have w : tierState.freePages + (tierState.tier.moving.filter (!·.toFast)).length < 2 ^ 30 := by
    have : (tierState.tier.moving.filter (!·.toFast)).length = 1 := rfl
    omega
  unfold State.belowWatermark
  rw [show tierState.tier.watermark = 2 ^ 30 from rfl, decide_eq_true w, Bool.and_true]
  rfl
theorem freeFrame_some (s : State) (fast : Bool) (base n j : Nat) (ht : s.tierFrames fast = (base, n)) (hj : j < n)
    (hu : (s.usedRanges.any fun r => rangesMeet r.1 r.2 (base + j * 2 ^ 21) (2 ^ 21)) = false) :
    ∃ f, (s.freeFrame fast).1 = some f := by
  unfold State.freeFrame
  rw [ht]
  refine Option.isSome_iff_exists.1 (List.find?_isSome.2 ⟨base + j * 2 ^ 21,
    List.mem_map.2 ⟨(j + (n - s.free.1 % n)) % n, List.mem_range.2 (Nat.mod_lt _ (by omega)), ?_⟩, ?_⟩)
  · have h : (s.free.1 + (j + (n - s.free.1 % n)) % n) % n = j := by
      have h1 : s.free.1 % n < n := Nat.mod_lt _ (by omega)
      rw [Nat.add_mod, Nat.mod_mod, ← Nat.add_mod, ← Nat.mod_add_div s.free.1 n,
        show s.free.1 % n + n * (s.free.1 / n) + (j + (n - (s.free.1 % n + n * (s.free.1 / n)) % n)) = j + n + n * (s.free.1 / n) by
          rw [Nat.add_mul_mod_self_left, Nat.mod_mod]; omega]
      rw [Nat.add_mul_mod_self_left, Nat.add_mod_right, Nat.mod_eq_of_lt hj]
    rw [h]
  · show (!_) = true
    rw [hu]
    rfl
/-- A copy of the two bytes at 0x40000000, held by an engine, whose line cannot be read while `bad`. -/
def lostCopy (bad : Bool) : State :=
  let r : Running := ⟨copyCmd 0 (2 ^ 57 - 2 ^ 32), 1, [0, 0, 0, 0], [], some (0, 0x40000000 / 64), []⟩
  let s := (engineState 3 ⟨[], some r, 0⟩).setTask 0 fun k => { k with service := some ⟨.copyError, [Trap.plain 0 0 0 0x1A 0], 0, false⟩ }
  { s with info := { s.info with failing := if bad then [(0x40000000 / 64, 2)] else [] } }

theorem witness_TasksRunAndEnd_stillFails :
    (lostCopy true).stillFails 0 = true ∧ (lostCopy false).stillFails 0 = false := by decide

/-- A device with no context but its dump region has a free frame. -/
theorem witness_MemoryIsKept_frame : ∃ f, (State.freeFrame { tierState with ctxs := [] } false).1 = some f :=
  freeFrame_some _ _ capacityBase 40960 1 rfl (by decide) (by decide)

theorem witness_TasksRunAndEnd_times :
    State.alive { runs Task.start with gcyc := 48 } = true ∧ ({ runs Task.start with gcyc := 48 } : State).gcyc % 24 = 0 ∧
    (runs { Task.start with service := some ⟨.brk, [Trap.plain 0 0 0 4 0], 0, false⟩ }).gcyc = 0 ∧
    (runs { Task.start with gated := some 0 }).gcyc = 0 := by decide
theorem witness_TasksRunAndEnd_ends :
    (runs { oneTask { Core.start with halted := true } with lastHalt := 1, dc := 1 }).taskDone 0 = true ∧
    (∀ a ∈ (runs { oneTask Core.start with closed := true, status := .ended }).queue, a.task ≠ 0) ∧
    (runs { oneTask Core.start with status := .frozen, saveGc := 0 }).queue = [] := by decide

theorem witness_FirmwareActs :
    let b : BootInput := ⟨63, [], [], [], [], [], [], true⟩
    State.reset.fw.boot = .off ∧ b.fittedGiB < 64 ∧ (runs Task.start).fw.boot ≠ .off ∧ (runs Task.start).alive = true ∧
    (runs Task.start).dieLive 3 = false ∧ (mapped (runs Task.start)).writesPending 0 0 = false ∧
    (mapped (runs Task.start)).canExecute 0 0 = true ∧ ringSize 65536 = true ∧ ringSize 32 = false ∧
    State.fn { runs Task.start with fns := [(8, { HostFn.start with ctx := some 63 })] } 8 = { HostFn.start with ctx := some 63 } := by decide
theorem witness_FirmwareActs_mailbox :
    ({ runs Task.start with fw := { Firmware.start with boot := .booted, mailbox := [.bindContext 63 8 0 0] } } : State).fw.mailbox =
      .bindContext 63 8 0 0 :: [] ∧
    ({ State.reset with fw := { Firmware.start with boot := .failed .power } } : State).fw.dumpExported = false := by decide
theorem witness_FirmwareActs_pins :
    let s := { mapped (runs Task.start) with pins := [⟨0, 0, 2 ^ 21, 1, 0x4000000F⟩] }
    (∃ p ∈ s.pins, p.ctx = 0 ∧ rangesMeet p.va p.size 4096 64 = true ∧ s.heldPin p = true) ∧
    (∀ p ∈ s.pins, rangesMeet p.va p.size (2 ^ 21) 64 = false) := by decide
theorem witness_FirmwareActs_folio :
    let f : FolioImage := ⟨1, 0, 0, 0, 2, []⟩
    (runs Task.start).declCode f = some 0x10 ∧ (runs Task.start).declCode { f with feature := 1 } = none ∧
    (runs Task.start).declCode { f with feature := 1, compat := 2 } = some 0x11 ∧
    (runs Task.start).folioCode { f with feature := 1 } = none ∧ (runs Task.start).folioPages f = [] := by decide

/-- A booted device whose function 8 serves context 0. -/
def hostState (h : HostFn) : State :=
  { mapped (runs Task.start) with
    fns := [(8, { h with ctx := some 0 })], ctxs := [(0, { Context.start with root := 0x10000, fn := 8, cq := some ⟨0, 64, 1, 0, [], false⟩ })] }

theorem witness_TheHostReachesTheDevice :
    let s := hostState { HostFn.start with ringSize := 65536, consumed := 65535 }
    s.alive = true ∧ (s.fn 8).ctx = some 0 ∧ ((s.fn 8).consumed.toNat + 1) % 65536 = 0 ∧ s.hostBarred 0 0 true = false ∧
    s.hostBarred 0 (2 ^ 21 - 1) true = false ∧ s.hostBarred 0 (2 ^ 21) true = true ∧ (runs Task.start).fn 8 = HostFn.start ∧
    (get s.ctxs Context.start 0).fn = 8 ∧ 2 ^ 21 + 1 ≤ bar2Size 8 ∧ bar2Size 8 < 2 ^ 33 + 1 := by decide

/-- A booted device with one port to chip 9 and a grant of its first frame. -/
def peerState (r w : Bool) : State :=
  { mapped (runs Task.start) with
    ports := [(11, { Port.start with chip := 9, up := true, lanes := [0, 1, 2, 3] })]
    grants := [(255, ⟨9, 0, 1, 0x40000000, r, w, .granted, 0, 0⟩)]
    imports := [⟨11, 255, 0, 1, true, true, false, [(0, 0)]⟩] }

theorem witness_PeersAreServed :
    let s := peerState true true
    let serving (e : Nat × Grant) : Bool := decide (e.2.chip = (s.port 11).chip) && decide (4088 + 8 ≤ (e.2.first + e.2.count) * 4096)
    s.alive = true ∧ (s.grants.find? serving).isSome = true ∧ (s.port 11).up = true ∧ (s.port 11).retrain = none ∧ s.fw.attrFrames = [] ∧
    Memory.wf s.mem ∧ readFlit [] = none := by decide
theorem witness_PeersAreServed_flit :
    let x : Message := ⟨1, 3, 0, false, false, 3, 65535, 8, 4088, []⟩
    let f : Flit := ⟨0, 4095, 15, 1, messageBytes x⟩
    f.payload.length ≤ 240 ∧ get (peerState true true |>.port 11).rxBuf [] 15 = [] ∧
    find? (peerState true true |>.port 11).carry 15 = none ∧ (peerState true true |>.port 11).rxSeq = f.seq := by decide
theorem witness_PeersAnswerAndFail :
    let a := { access .load (.peer 9 0) with remote := some 11 }
    let s0 := peerState true true
    let s : State := { s0 with
      queue := [a], ports := [(11, { s0.port 11 with requests := [⟨65535, 15, 5, 255, 0⟩], retrain := some 0 })] }
    s.requestOf 11 65535 15 = some (11, ⟨65535, 15, 5, 255, 0⟩) ∧ s.requestOf 11 65535 14 = none ∧ s.acc 5 = some a ∧
    (s.imports.find? (fun i => decide ((s.port i.port).chip = 9) && i.num = 255)).isSome = true ∧ (s.port 11).replay = [] ∧ (3 : Nat) ∈ (s.port 11).lanes ∧
    s.leafAt 0 0 = some (0x13000, 3, 0x4000000F) ∧ leafContig 0x4000000F = false ∧ 0 ≤ s.gcyc ∧ Memory.wf s.mem := by decide

theorem witness_PowerIsKeptWithinItsLimits :
    let s := runs Task.start
    let above : PowerSample := ⟨1601, [101, 115], false⟩
    let under : PowerSample := ⟨1599, [99], false⟩
    s.alive = true ∧ s.power.cap < above.watts ∧ (∀ c ∈ above.temps, c ≤ 115) ∧ under.watts < s.power.cap ∧ (∀ c ∈ under.temps, c < 100) ∧
    ((s.task 0).status = .running ∧ (s.task 0).held = false) ∧ ({ s with power := { s.power with above := 9999 } } : State).power.above + 1 = 10000 ∧
    s.tasks.Pairwise (fun a b => a.1 < b.1) := by decide

theorem witness_MemoryStaysCanonical : Memory.wf State.reset.mem ∧ step State.reset = .next State.reset.periodStage := ⟨by decide, rfl⟩
theorem witness_StepRunsTheNextWork : let s := textState (leBytes 4 0x20C00001) 1
    (s.kernel 0).isSome = true ∧ s.agenda.take 1 = [.slot 0 0 0] ∧
    ((s.readVirt 0 ((s.kernel 0).map (·.text)).get! 16).map fun l => (bundleOf l).slot 0 |>.toOption) = some (some (.call 1)) ∧
    (Instr.call 1).faults = [] := by decide
theorem witness_StepRunsTheNextWork_refusal : ((bundleOf (List.replicate 16 0xFF)).slot 1).toOption = none := by decide
theorem witness_StepRunsTheNextWork_rows : Event.isRow (.powerHoldEnd 3) (.powerHoldEnd 3) := rfl
theorem witness_BundlesRoundTrip :
    (Instr.call 1).encode = some (none, 0x20C00001) ∧ Instr.nop.encode = some (none, 0) ∧ (Instr.lim 31 0x1FFFF (some 0xFF)).encode.isSome = true := by
  decide
theorem witness_FailedDeviceStaysFailed :
    State.hasFailed { State.reset with fw := { Firmware.start with boot := .failed .power }, agenda := [.event (.doorbellWrite 8 1)] }
      .power := ⟨rfl, by decide⟩
theorem witness_SlotsChangeNothingYet : Instr.nop.isSlot = true ∧ (Instr.klaunchc 31 31 1).isSlot = true := by decide
theorem witness_InstructionsComplete_plain : (on Core.start).mayComplete (.add 1 2 3 0 0) ∧ (on Core.start).mayComplete .halt := ⟨trivial, trivial⟩
theorem witness_InstructionsComplete_transfers : callAndMark.mayComplete (.jr 0 1) :=
  witness_TransfersTrapsAndTwinCompares_mayReturn.2
theorem witness_InstructionsComplete_twin :
    (on Core.start).mayComplete (.twincmp 15) ∧ (on { Core.start with twin := 1 }).mayComplete (.twincmpTile 39) :=
  ⟨.inl rfl, .inr ⟨fun _ _ => ⟨List.not_mem_nil, List.not_mem_nil⟩, .inr fun _ _ _ _ => rfl⟩⟩
theorem tileCore_takes : (on tileCore).takesRow 0x1F := fun _ _ _ => rfl
theorem witness_InstructionsComplete_rows :
    (on tileCore).mayComplete (.vmac 0x1F 0x20 0x20 0 none) ∧ (on tileCore).mayComplete (.vrsum 0x1F 0x20 0 none) ∧
    (on tileCore).mayComplete (.vperm 0x1F 0x20 0x20 0 none) :=
  ⟨⟨.inl (by decide), ⟨_, _, _, ⟨_, ⟨rfl, rfl⟩, rfl, rfl⟩, fun _ _ _ => rfl⟩, fun _ => by decide⟩,
    ⟨.inl (by decide), _, _, ⟨rfl, rfl⟩, trivial, fun _ _ _ => rfl⟩, by decide, _, _, _, ⟨_, ⟨rfl, rfl⟩, rfl, rfl⟩, fun _ _ _ => rfl⟩
theorem witness_InstructionsComplete_matrix :
    (on tileCore).mayComplete (.wbfill 0x20 15 1 none) ∧ (on tileCore).mayComplete (.ard 23 0x1F 0 0 0) :=
  ⟨⟨rfl, _, _, _, _, ⟨rfl, rfl⟩⟩, by decide, fun _ rows _ h => by
    obtain ⟨r, rfl⟩ := List.length_eq_one_iff.mp h
    rfl⟩
theorem witness_InstructionsComplete_heads :
    (on Core.start).mayComplete (.hopen 15 0 0 0 0 none) ∧ (headState .read 4).mayComplete (.hrev 15) ∧ (headState .read 4).mayComplete (.hmark 15) :=
  ⟨⟨rfl, rfl⟩, by unfold State.mayComplete State.mayUse; decide, by unfold State.mayComplete State.mayUse; decide⟩
theorem witness_InstructionsComplete_accesses :
    (on Core.start).mayComplete (.ld 31 0 0 3 0 0 none) ∧ (on Core.start).mayComplete (.barriv 31 0 0 3 none) ∧
    (on Core.start).mayComplete (.sst 0 0 3) :=
  ⟨⟨.untranslated, by decide, by decide, rfl, by decide⟩, by unfold State.mayComplete State.queuedAddress; decide, rfl⟩
theorem block_is_zero : ∀ l < 128, leNat ((((on Core.start).myTask.spadBytes 0 1024).drop (4 * l)).take 4) = 0 := by decide
theorem witness_InstructionsComplete_reads : (on Core.start).mayComplete (.sld 0 1 3) ∧ (on Core.start).mayComplete (.vamoor 0 0 0 0 none) := by
  refine ⟨⟨_, _, rfl, rfl, trivial⟩, _, _, rfl, rfl, by decide, by decide, ?_, by decide⟩
  intro l hl
  have z : leNat ((((on Core.start).myTask.spadBytes 0 1024).drop (4 * l)).take 4) = 0 :=
    block_is_zero l (List.mem_range.mp (List.mem_filter.mp hl).1)
  change (_ + 4 * leNat ((((on Core.start).myTask.spadBytes 0 1024).drop (4 * l)).take 4)) % 2 ^ 64 < 2 ^ 57 ∧
    State.windowTarget _ ((_ + 4 * leNat ((((on Core.start).myTask.spadBytes 0 1024).drop (4 * l)).take 4)) % 2 ^ 64) 4 3 = _
  rw [z]
  exact ⟨by decide, rfl⟩
theorem witness_InstructionsComplete_launches :
    (on Core.start).mayComplete (.klaunch 0 0) ∧ (on { Core.start with s := [(2, 1)] }).mayComplete (.qsave 1 0 2) = False ∧
    (on { Core.start with s := [(1, 1), (2, 256)] }).mayComplete (.qsave 1 0 2) := by
  refine ⟨?_, ?_, ?_⟩
  · unfold State.mayComplete State.launches; decide
  · exact eq_false fun h => absurd h.1 (by decide)
  · unfold State.mayComplete State.sequenceMoves; decide
theorem witness_InstructionsComplete_passes :
    (headState .append 4).mayComplete (.hwr 15 0x20 0 none) ∧ (headState .read 4).mayComplete (.hrd 15 0x20 0) := by
  refine ⟨⟨⟨by decide, by decide, by decide⟩, _, _, ⟨rfl, rfl⟩, fun h => absurd h (by decide), _, _, rfl⟩, ?_⟩
  exact ⟨⟨by decide, by decide, by decide⟩, _, _, rfl, fun h => absurd h (by decide), fun _ _ _ => rfl⟩
theorem witness_InstructionsComplete_copies : copyState.mayComplete (.kcopy 1 1 2 3 0) :=
  ⟨by unfold copyWords; decide, by decide, by decide, .slice 0, .slice 0, ⟨rfl, rfl, rfl⟩, rfl, rfl⟩
theorem witness_SlotsWriteOnlyWhatTheyName : ∃ t, exec (.csrw 31 1 0x002) (on Core.start) = .next t := ⟨_, rfl⟩
theorem witness_BundlesCommit :
    let s := (on Core.start).issueAll [(0, .pc 7), (5, .scalar 31 1)]
    s.commits 0 ∧ s.breaks = [] ∧ (Core.start.ready 0) = true ∧ s.issued.length = 2 := ⟨⟨rfl, rfl, rfl, rfl⟩, rfl, rfl, rfl⟩
theorem witness_TrapsStopTheDomain :
    let s (cause : Nat) : State := { on Core.start with traps := [Trap.plain 0 0 3 cause 0] }
    ((s 0x15).task 0).raised = [] ∧ (s 2).lateReads 0 = [] ∧ (s 2).overflowTraps 0 = [] ∧ (s 2).breaks = [] ∧ (Trap.plain 0 0 3 0x15 0).resumable = true ∧ (Trap.plain 0 0 3 2 0).resumable = false ∧
    ((on Core.start).issue 0 (.brk 4095)).breaks.length = 1 := by decide

end

end Sys2Proof.Tests
end

section
/-!
PROOFS. Bundles: what four encoded words, or a header and three, read as.
-/

namespace Sys2Proof.Proofs
open Sys2Proof.Laws Sys2Proof.Machine

/-- The round trip of every instruction; an event of the device has no encoding. -/
theorem encodes_statement (i : Instr) : Encodes.Statement i := by
  cases i with
  | nop => apply Encodes.nop
  | add => apply Encodes.add
  | sub => apply Encodes.sub
  | addw => apply Encodes.addw
  | subw => apply Encodes.subw
  | mul => apply Encodes.mul
  | mulh => apply Encodes.mulh
  | mulhu => apply Encodes.mulhu
  | div => apply Encodes.div
  | divu => apply Encodes.divu
  | rem => apply Encodes.rem
  | remu => apply Encodes.remu
  | and => apply Encodes.and
  | or => apply Encodes.or
  | xor => apply Encodes.xor
  | andn => apply Encodes.andn
  | shl => apply Encodes.shl
  | shr => apply Encodes.shr
  | sra => apply Encodes.sra
  | min => apply Encodes.min
  | max => apply Encodes.max
  | minu => apply Encodes.minu
  | maxu => apply Encodes.maxu
  | clz => apply Encodes.clz
  | popc => apply Encodes.popc
  | sel => apply Encodes.sel
  | peq => apply Encodes.peq
  | pne => apply Encodes.pne
  | plt => apply Encodes.plt
  | pltu => apply Encodes.pltu
  | pand => apply Encodes.pand
  | por => apply Encodes.por
  | pxor => apply Encodes.pxor
  | pandn => apply Encodes.pandn
  | pmov => apply Encodes.pmov
  | pfrom => apply Encodes.pfrom
  | sfromp => apply Encodes.sfromp
  | addi => apply Encodes.addi
  | andi => apply Encodes.andi
  | ori => apply Encodes.ori
  | xori => apply Encodes.xori
  | shli => apply Encodes.shli
  | shri => apply Encodes.shri
  | srai => apply Encodes.srai
  | lim => apply Encodes.lim
  | limh => apply Encodes.limh
  | peqi => apply Encodes.peqi
  | plti => apply Encodes.plti
  | pltui => apply Encodes.pltui
  | muli => apply Encodes.muli
  | br => apply Encodes.br
  | brp => apply Encodes.brp
  | brnp => apply Encodes.brnp
  | call => apply Encodes.call
  | ret => apply Encodes.ret
  | jr => apply Encodes.jr
  | loopi => apply Encodes.loopi
  | loop => apply Encodes.loop
  | waitc => apply Encodes.waitc
  | fmtset => apply Encodes.fmtset
  | fmtget => apply Encodes.fmtget
  | halt => apply Encodes.halt
  | trap => apply Encodes.trap
  | csrr => apply Encodes.csrr
  | csrw => apply Encodes.csrw
  | csrs => apply Encodes.csrs
  | csrc => apply Encodes.csrc
  | rdcyc => apply Encodes.rdcyc
  | rdgcy => apply Encodes.rdgcy
  | rdwhl => apply Encodes.rdwhl
  | twincmp => apply Encodes.twincmp
  | twincmpTile => apply Encodes.twincmpTile
  | fence => apply Encodes.fence
  | fencec => apply Encodes.fencec
  | scfence => apply Encodes.scfence
  | brk => apply Encodes.brk
  | detn => apply Encodes.detn
  | dgst => apply Encodes.dgst
  | dgstFold => apply Encodes.dgstFold
  | vmov => apply Encodes.vmov
  | vadd => apply Encodes.vadd
  | vsub => apply Encodes.vsub
  | vmul => apply Encodes.vmul
  | vmac => apply Encodes.vmac
  | vadds => apply Encodes.vadds
  | vsubs => apply Encodes.vsubs
  | vmin => apply Encodes.vmin
  | vmax => apply Encodes.vmax
  | vabs => apply Encodes.vabs
  | vneg => apply Encodes.vneg
  | vand => apply Encodes.vand
  | vor => apply Encodes.vor
  | vxor => apply Encodes.vxor
  | vshl => apply Encodes.vshl
  | vshr => apply Encodes.vshr
  | vsra => apply Encodes.vsra
  | vmullo => apply Encodes.vmullo
  | vmulhi => apply Encodes.vmulhi
  | vpeq => apply Encodes.vpeq
  | vpne => apply Encodes.vpne
  | vplt => apply Encodes.vplt
  | vple => apply Encodes.vple
  | vsel => apply Encodes.vsel
  | vrcp => apply Encodes.vrcp
  | vrsq => apply Encodes.vrsq
  | vexp2 => apply Encodes.vexp2
  | vlog2 => apply Encodes.vlog2
  | vrsum => apply Encodes.vrsum
  | vrmax => apply Encodes.vrmax
  | vrmin => apply Encodes.vrmin
  | vperm => apply Encodes.vperm
  | vlsh => apply Encodes.vlsh
  | vbcst => apply Encodes.vbcst
  | vpopc => apply Encodes.vpopc
  | vclz => apply Encodes.vclz
  | vrint => apply Encodes.vrint
  | vcvt => apply Encodes.vcvt
  | vsplat => apply Encodes.vsplat
  | vsplats => apply Encodes.vsplats
  | vaddi => apply Encodes.vaddi
  | vshli => apply Encodes.vshli
  | vshri => apply Encodes.vshri
  | viota => apply Encodes.viota
  | vcur => apply Encodes.vcur
  | vcurs => apply Encodes.vcurs
  | vextr => apply Encodes.vextr
  | vinsr => apply Encodes.vinsr
  | talloc => apply Encodes.talloc
  | trel => apply Encodes.trel
  | tzero => apply Encodes.tzero
  | vtrit => apply Encodes.vtrit
  | wbfill => apply Encodes.wbfill
  | mldw => apply Encodes.mldw
  | mma => apply Encodes.mma
  | mmaz => apply Encodes.mmaz
  | mbmap => apply Encodes.mbmap
  | anorm => apply Encodes.anorm
  | ard => apply Encodes.ard
  | awr => apply Encodes.awr
  | aexpWrite => apply Encodes.aexpWrite
  | aexpRead => apply Encodes.aexpRead
  | agrd => apply Encodes.agrd
  | azero => apply Encodes.azero
  | mstat => apply Encodes.mstat
  | mwait => apply Encodes.mwait
  | hopen => apply Encodes.hopen
  | hclose => apply Encodes.hclose
  | hrd => apply Encodes.hrd
  | hwr => apply Encodes.hwr
  | hupd => apply Encodes.hupd
  | hstep => apply Encodes.hstep
  | hskip => apply Encodes.hskip
  | hmark => apply Encodes.hmark
  | hrwd => apply Encodes.hrwd
  | hdrop => apply Encodes.hdrop
  | hpos => apply Encodes.hpos
  | hrev => apply Encodes.hrev
  | hnew => apply Encodes.hnew
  | hseal => apply Encodes.hseal
  | hlease => apply Encodes.hlease
  | hfree => apply Encodes.hfree
  | hwait => apply Encodes.hwait
  | wset => apply Encodes.wset
  | wloop => apply Encodes.wloop
  | wrst => apply Encodes.wrst
  | kcopy => apply Encodes.kcopy
  | kcopyr => apply Encodes.kcopyr
  | kgath => apply Encodes.kgath
  | kscat => apply Encodes.kscat
  | kfill => apply Encodes.kfill
  | ktag => apply Encodes.ktag
  | kchk => apply Encodes.kchk
  | sld => apply Encodes.sld
  | sst => apply Encodes.sst
  | ltset => apply Encodes.ltset
  | kstat => apply Encodes.kstat
  | ld => apply Encodes.ld
  | st => apply Encodes.st
  | lda => apply Encodes.lda
  | stl => apply Encodes.stl
  | ldv => apply Encodes.ldv
  | stv => apply Encodes.stv
  | amoadd => apply Encodes.amoadd
  | amoand => apply Encodes.amoand
  | amoor => apply Encodes.amoor
  | amoxor => apply Encodes.amoxor
  | amomin => apply Encodes.amomin
  | amomax => apply Encodes.amomax
  | amoswp => apply Encodes.amoswp
  | amocas => apply Encodes.amocas
  | vamoor => apply Encodes.vamoor
  | vamoadd => apply Encodes.vamoadd
  | barriv => apply Encodes.barriv
  | barwait => apply Encodes.barwait
  | barinit => apply Encodes.barinit
  | sfbind => apply Encodes.sfbind
  | sfgo => apply Encodes.sfgo
  | sfstat => apply Encodes.sfstat
  | sfrel => apply Encodes.sfrel
  | sfmash => apply Encodes.sfmash
  | qdim => apply Encodes.qdim
  | qidx => apply Encodes.qidx
  | qstr => apply Encodes.qstr
  | qgen => apply Encodes.qgen
  | qgenv => apply Encodes.qgenv
  | qdir => apply Encodes.qdir
  | qscr => apply Encodes.qscr
  | qscrShift => apply Encodes.qscrShift
  | qsave => apply Encodes.qsave
  | qload => apply Encodes.qload
  | klaunch => apply Encodes.klaunch
  | klaunchc => apply Encodes.klaunchc
  | gsig => apply Encodes.gsig
  | qsync => apply Encodes.qsync
  | gprio => apply Encodes.gprio
  | garg => apply Encodes.garg
  | _ => exact Encodes.ofEvent rfl

theorem readSlot_of_encode {i : Instr} {x : Ext} {w : BitVec 32} (h : i.encode = some (x, w)) : readSlot x w = .ok i :=
  (encodes_statement i x w h).1

/-- Class 0xF is no instruction of a slot. -/
theorem readSlot_header_class {x : Ext} {w : BitVec 32} (h : w.toNat / 2 ^ 28 = 0xF) : readSlot x w = .error [0x04] := by
  unfold readSlot; rw [h]; rfl

theorem readHeader_of_encode {i : Instr} {x : Ext} {w : BitVec 32} (h : i.encode = some (x, w)) : readHeader w = none := by
  refine if_neg fun hc => ?_
  have hr := readSlot_of_encode h
  rw [readSlot_header_class hc] at hr
  cases hr

theorem toNat_append_eq {m n : Nat} (x : BitVec m) (y : BitVec n) : (x ++ y).toNat = x.toNat * 2 ^ n + y.toNat := by
  rw [BitVec.toNat_append, ← Nat.shiftLeft_add_eq_or_of_lt y.isLt, Nat.shiftLeft_eq]

/-- The fields of a header's word from bit 31 down, each a width and a value (02 R26). -/
def headerFields (h : Header) : List (Nat × Nat) :=
  [(4, 0xF), (1, (if h.mark then 1 else 0 : BitVec 1).toNat), (1, (if h.wheel then 1 else 0 : BitVec 1).toNat), (2, 0x0),
    (8, h.e1.toNat), (8, h.e2.toNat), (8, h.e3.toNat)]

theorem headerFields_fits (h : Header) : Fits (headerFields h) :=
  ⟨by decide, BitVec.isLt _, BitVec.isLt _, by decide, h.e1.isLt, h.e2.isLt, h.e3.isLt, trivial⟩

theorem headerWord_toNat (h : Header) : (headerWord h).toNat = pack (headerFields h) := by
  simp only [headerWord, headerFields, pack, span, toNat_append_eq, BitVec.reduceToNat]
  omega

theorem readHeader_headerWord (h : Header) : readHeader (headerWord h) = some h := by
  have hf := headerFields_fits h
  have hw := headerWord_toNat h
  generalize headerWord h = w at *
  have hclass : w.toNat / 2 ^ 28 = 0xF := classOf hw hf rfl
  have hmark : fld w 27 1 = if h.mark then 1 else 0 := fld_eq (part [_] hw hf rfl rfl)
  have hwheel : fld w 26 1 = if h.wheel then 1 else 0 := fld_eq (part [_, _] hw hf rfl rfl)
  have h1 : fld w 16 8 = h.e1 := fld_eq (part [_, _, _, _] hw hf rfl rfl)
  have h2 : fld w 8 8 = h.e2 := fld_eq (part [_, _, _, _, _] hw hf rfl rfl)
  have h3 : fld w 0 8 = h.e3 := fld_eq (part [_, _, _, _, _, _] hw hf rfl rfl)
  rw [readHeader, if_pos hclass, hmark, hwheel, h1, h2, h3]
  obtain ⟨mark, wheel, e1, e2, e3⟩ := h
  cases mark <;> cases wheel <;> rfl

theorem fld_headerWord_reserved (h : Header) : fld (headerWord h) 24 2 = 0 :=
  fld_eq (part [_, _, _] (headerWord_toNat h) (headerFields_fits h) rfl rfl)

/-- Under a header that lends a slot the byte of its encoding, or zero where it names none, the slot reads as its instruction. -/
theorem readSlot_of_lends {i : Instr} {x : Ext} {w : BitVec 32} {e : Byte} (h : i.encode = some (x, w)) (hl : lends x e) :
    ∃ j, readSlot (some e) w = .ok j ∧ readsAs i j x w := by
  obtain rfl | ⟨rfl, rfl⟩ := hl
  · exact ⟨i, readSlot_of_encode h, .inl rfl⟩
  · obtain ⟨j, hr, hj⟩ := (encodes_statement i none w h).2 rfl
    exact ⟨j, hr, hj.imp_right fun he => ⟨rfl, he⟩⟩

theorem readBundle_of_readHeader_none {w0 : BitVec 32} (h : readHeader w0 = none) (w1 w2 w3 : BitVec 32) :
    readBundle w0 w1 w2 w3 = ⟨none, scBit w0 || scBit w1 || scBit w2 || scBit w3,
      readSlot none w0, readSlot none w1, readSlot none w2, readSlot none w3⟩ := by
  rw [readBundle, h]

theorem readBundle_headerWord (h : Header) (w1 w2 w3 : BitVec 32) :
    readBundle (headerWord h) w1 w2 w3 = ⟨some h, scBit w1 || scBit w2 || scBit w3,
      .ok .nop, readSlot (some h.e1) w1, readSlot (some h.e2) w2, readSlot (some h.e3) w3⟩ := by
  rw [readBundle, readHeader_headerWord, if_pos (fld_headerWord_reserved h)]

/-- Settles O53: the round trip of each instruction, slot by slot, and a header's word read field by field. -/
theorem bundlesRoundTrip : Obligations.BundlesRoundTrip := by
  unfold Obligations.BundlesRoundTrip
  constructor
  · intro i0 i1 i2 i3 w0 w1 w2 w3 h0 h1 h2 h3
    rw [readBundle_of_readHeader_none (readHeader_of_encode h0), readSlot_of_encode h0, readSlot_of_encode h1,
      readSlot_of_encode h2, readSlot_of_encode h3]
  · intro h i1 i2 i3 x1 x2 x3 w1 w2 w3 h1 h2 h3 l1 l2 l3
    obtain ⟨j1, r1, a1⟩ := readSlot_of_lends h1 l1
    obtain ⟨j2, r2, a2⟩ := readSlot_of_lends h2 l2
    obtain ⟨j3, r3, a3⟩ := readSlot_of_lends h3 l3
    exact ⟨j1, j2, j3, by rw [readBundle_headerWord, r1, r2, r3], a1, a2, a3⟩

end Sys2Proof.Proofs
end

section
/-!
PROOFS. Class SIMM: the immediate forms and the results that 04 R70 to R73 give them.
-/

namespace Sys2Proof.Proofs
open Sys2Proof.Machine

/-! ### Immediates -/

theorem ofInt_immS {n : Nat} (x : Ext) (i : BitVec n) (hn : n ≤ 56) : BitVec.ofInt 64 (immS x i) = signedImm x i := by
  rw [immS_eq x i hn, BitVec.ofInt_toInt]

theorem ofNat_immU {n : Nat} (x : Ext) (i : BitVec n) (hn : n ≤ 56) : BitVec.ofNat 64 (immU x i) = unsignedImm x i := by
  rw [immU_eq x i hn, BitVec.ofNat_toNat, BitVec.setWidth_eq]

/-! ### Results -/

theorem simm_eq (s : State) (n : Nat) (f : Word → Word → Word) (d a : BitVec 5) (i : BitVec 12) (x : Ext) :
    s.simm n f d a i x = .next (s.scalarResult n d (f (s.me.reg a.toNat) (signedImm x i))) := by
  rw [State.simm, ofInt_immS x i (by decide)]; rfl

theorem simmCmp_eq {f : Word → Word → Bool} {p : Word → Word → Prop} [DecidableRel p] (hf : ∀ a b, f a b = decide (p a b))
    {d : BitVec 5} (hd : d ≠ 0) (s : State) (a : BitVec 5) (v : Word) :
    s.simmCmp f d a v = .next (s.predResult d (everyLane (p (s.me.reg a.toNat) v))) := by
  rw [State.simmCmp, State.writeWholePred, if_neg hd, hf]
  simp only [allLanes, everyLane, decide_eq_true_eq]; rfl

theorem simmCmp_p0 (s : State) (f : Word → Word → Bool) (a : BitVec 5) (v : Word) : s.simmCmp f 0 a v = .next s := rfl

theorem mul_eq_ofInt (a b : Word) : a * b = BitVec.ofInt 64 (a.toInt * b.toInt) := by
  rw [BitVec.ofInt_mul, BitVec.ofInt_toInt, BitVec.ofInt_toInt]

theorem exec_immRow {r : ImmRow} (hr : r ∈ immRows) (d a : BitVec 5) (i : BitVec 12) (x : Ext) (s : State) :
    exec (r.op d a i x) s = s.simm r.latency r.result d a i x := by
  simp only [immRows, List.mem_cons, List.not_mem_nil, or_false] at hr
  obtain rfl | rfl | rfl | rfl | rfl := hr
  · exact congrArg (s.simm 1 · d a i x) (funext fun u => funext fun v => BitVec.add_def u v)
  · exact congrArg (s.simm 3 · d a i x) (funext fun u => funext fun v => mul_eq_ofInt u v)
  · rfl
  · rfl
  · rfl

/-! ### Shifts (04 R70) -/

theorem shl_eq (a b : Word) : shl a b = BitVec.ofNat 64 (a.toNat * 2 ^ (b.toNat % 64)) := by
  apply BitVec.eq_of_toNat_eq
  rw [shl, BitVec.toNat_shiftLeft, Nat.shiftLeft_eq, BitVec.toNat_ofNat]

theorem shr_eq (a b : Word) : shr a b = BitVec.ofNat 64 (a.toNat / 2 ^ (b.toNat % 64)) := by
  rw [shr, ← Nat.shiftRight_eq_div_pow, ← BitVec.toNat_ushiftRight, BitVec.ofNat_toNat, BitVec.setWidth_eq]

theorem sra_eq (a b : Word) : sra a b = BitVec.ofInt 64 (a.toInt / (2 ^ (b.toNat % 64) : Nat)) := by
  rw [sra, ← Int.shiftRight_eq_div_pow, ← BitVec.toInt_sshiftRight, BitVec.ofInt_toInt]

theorem shiftCount_eq (c : BitVec 6) : (c.zeroExtend 64).toNat % 64 = c.toNat := by
  rw [BitVec.toNat_setWidth]; omega

theorem exec_shiftRow {r : ShiftRow} (hr : r ∈ shiftRows) (d a : BitVec 5) (c : BitVec 6) (s : State) :
    exec (r.op d a c) s = .next (s.scalarResult 1 d (r.result (s.me.reg a.toNat) c.toNat)) := by
  simp only [shiftRows, List.mem_cons, List.not_mem_nil, or_false] at hr
  obtain rfl | rfl | rfl := hr
  · change execShli d a c s = _
    rw [execShli, shl_eq, shiftCount_eq]; rfl
  · change execShri d a c s = _
    rw [execShri, shr_eq, shiftCount_eq]; rfl
  · change execSrai d a c s = _
    rw [execSrai, sra_eq, shiftCount_eq]; rfl

/-- Settles O3: the rows of the tables, the two forms of LIM and the comparisons each by their own equation. -/
theorem immediateResults : Obligations.ImmediateResults := by
  unfold Obligations.ImmediateResults
  intro d a s
  refine ⟨?_, ?_, ?_, ?_, ?_, ?_⟩
  · intro r hr i x
    rw [exec_immRow hr, simm_eq]
  · intro r hr c
    exact exec_shiftRow hr d a c s
  · intro i x
    rw [← ofInt_immS x i (by decide)]; rfl
  · intro i x
    rw [← ofNat_immU x i (by decide)]; rfl
  · intro i x hd
    rw [← ofInt_immS x i (by decide), ← ofNat_immU x i (by decide)]
    exact ⟨simmCmp_eq (p := fun u v => u = v) (fun _ _ => rfl) hd ..,
      simmCmp_eq (p := fun u v => u.toInt < v.toInt) (fun _ _ => rfl) hd ..,
      simmCmp_eq (p := fun u v => u.toNat < v.toNat) (fun _ _ => rfl) hd ..⟩
  · intro i x
    exact ⟨rfl, rfl, rfl⟩

end Sys2Proof.Proofs
end

section
/-!
PROOFS. The row sources that pop nothing, and cursors (06 R112, R117, R120).
-/

namespace Sys2Proof.Proofs
open Sys2Proof.Machine

/-! ### Source codes (02 R30) -/

theorem cursorCode_toNat {n : Nat} (hn : n < 8) : (BitVec.ofNat 6 (0x18 + n)).toNat = 0x18 + n := by
  rw [BitVec.toNat_ofNat]; omega

theorem predCode_toNat {k : Nat} (hk : k < 12) : (BitVec.ofNat 6 (0x30 + k)).toNat = 0x30 + k := by
  rw [BitVec.toNat_ofNat]; omega

/-! ### What makes a row unreadable -/

theorem tileFail_eq (k : Core) (t : Nat) :
    k.tileFail t = if k.tallocmap.getLsbD t then none else some { cause := 9, sub := 1 } := by
  rw [Core.tileFail, Core.allocated, bitAt_eq]

theorem sramFail_eq_none {k : Core} {array i : Nat} (h : (array, i) ∉ k.sram) : k.sramFail array i = none :=
  if_neg fun hc => h (List.contains_iff_mem.mp hc)

/-! ### What a source delivers -/

theorem readRow_pred {k : Nat} (hk : k < 12) (s : State) (x : Ext) (f : Nat) :
    s.readRow (BitVec.ofNat 6 (0x30 + k)) x f = (rowOf fun l => if laneOn (s.me.pred k) l then oneIn f else 0, s) := by
  simp only [State.readRow, predCode_toNat hk]
  rw [if_neg (by omega), if_neg (by omega), if_neg (by omega), if_neg (by omega), if_neg (by omega), if_pos (by omega),
    Nat.add_sub_cancel_left]

/-- A cursor whose tile is allocated delivers its row, and its step is owed to the commit. -/
theorem readRow_cursor {n : Nat} (hn : n < 8) {s : State} (x : Ext) (f : Nat)
    (ht : s.me.tallocmap.getLsbD (s.me.cursor n).tile.toNat = true) (hs : (0, (s.me.cursor n).linear) ∉ s.me.sram) :
    s.readRow (BitVec.ofNat 6 (0x18 + n)) x f =
      (s.me.tileRow (s.me.cursor n).tile.toNat (s.me.cursor n).row.toNat, s.issue 0 (.step n)) := by
  simp only [State.readRow, cursorCode_toNat hn]
  rw [if_neg (by omega), if_neg (by omega), if_pos (by omega), Nat.add_sub_cancel_left, tileFail_eq, if_pos ht]
  simp only [sramFail_eq_none hs]

/-- Tile trap 0x1 (06 R112). -/
theorem readRow_cursor_unallocated {n : Nat} (hn : n < 8) {s : State} (x : Ext) (f : Nat)
    (ht : s.me.tallocmap.getLsbD (s.me.cursor n).tile.toNat = false) :
    s.readRow (BitVec.ofNat 6 (0x18 + n)) x f = (Row.zero, s.fail { cause := 9, sub := 1 }) := by
  simp only [State.readRow, cursorCode_toNat hn]
  rw [if_neg (by omega), if_neg (by omega), if_pos (by omega), Nat.add_sub_cancel_left, tileFail_eq, if_neg (by simp [ht])]

/-- The value 1 in the formats of 06 R120: an integer and a trit, and the five floating formats. -/
theorem oneIn_eq : ∀ p ∈ [(0, (1 : Lane)), (1, 1), (2, 1), (3, 1), (10, 1), (9, 1), (4, 0x38), (5, 0x3C), (6, 0x3F80),
    (7, 0x3C00), (8, 0x3F800000)], oneIn p.1 = p.2 := by decide

/-- Settles O10: each source code by the branch of the read that it takes. -/
theorem rowSourcesDeliver : Obligations.RowSourcesDeliver := by
  unfold Obligations.RowSourcesDeliver
  intro x f s
  refine ⟨⟨rfl, rfl⟩, ⟨rfl, rfl⟩, ⟨rfl, rfl⟩, ?_, ?_, ?_⟩
  · intro k hk one hone
    refine ⟨_, ⟨readRow_pred hk s x f, rfl⟩, rowOf_length _, fun l hl => ?_⟩
    rw [rowOf_getD _ hl, laneOn_eq, oneIn_eq _ hone]
  · intro n hn ht hs
    exact ⟨readRow_cursor hn x f ht hs, rfl⟩
  · intro n hn ht
    exact ⟨Fail.fill _, by rw [readRow_cursor_unallocated hn x f ht]; rfl⟩

end Sys2Proof.Proofs
end
